-- ==== Sys2Proof/Word.lean ====
section
/-!
DEFINITION. The word types of the Isama architecture (R5, R68): bytes, 32-bit control words, 64-bit
scalar registers and block words; and the types of the operands that block words, commands and
events carry.
-/
namespace Sys2Proof

/-- One byte of memory (R5). -/
abbrev Byte := BitVec 8

/-- A 64-bit scalar register, operand or state register (R67, R68). -/
abbrev Word := BitVec 64

/-- A 32-bit control word (R145). -/
abbrev Ctl := BitVec 32

/-- A 64-bit block word (R145, R150). -/
abbrev Blk := BitVec 64

/-- A register number field of a control word: X0 to X31 (R146). -/
abbrev Reg := BitVec 5

/-- The fields of a block word below its opcode, as R150 places them. FUNC bits that select among
rows of the table (R199, R223, R226, R229, R234, R237) stay in `func`. -/
structure BlockFields where
  vd : BitVec 5
  va : BitVec 5
  vb : BitVec 5
  vc : BitVec 5
  pm : BitVec 5
  zm : Bool
  ty : BitVec 5
  sh : BitVec 2
  rnd : BitVec 3
  pinv : Bool
  slice : BitVec 10
  func : BitVec 9
  deriving DecidableEq, Repr, Inhabited

/-- Which port brings a management command (R369, R371). -/
inductive Port where
  | mailbox
  | sideband
  deriving DecidableEq, Repr, Inhabited

/-- An agent that can be power-gated and can rejoin (R110, R344). -/
inductive Agent where
  /-- the leg cache of a core -/
  | legCache (unit : Nat)
  /-- the remote-data cache of a die -/
  | rdc (die : Nat)
  /-- an L2 slice of a die -/
  | l2 (die slice : Nat)
  /-- the last-level cache of a base die, after a retrain -/
  | llc (die : Nat)
  /-- a physical core slot of a ring, returned to service -/
  | slot (ring slot : Nat)
  deriving DecidableEq, Repr, Inhabited

/-- Which cache a dirty line leaves (R343). -/
inductive LineAt where
  | leg (unit : Nat)
  | l2
  deriving DecidableEq, Repr, Inhabited

/-- Which copy a chunk belongs to: a retriever copy of a core (R256), or an RCOPY of a context (R261). -/
inductive CopyRef where
  | retriever (unit : Nat) (handle : BitVec 32)
  | rcopy (unit ctx id : Nat)
  deriving DecidableEq, Repr, Inhabited

/-- A host snoop of a host-memory line (R364). -/
inductive SnoopKind where
  /-- the host reads the line; the copy may stay, clean -/
  | share
  /-- the host invalidates the line or takes its ownership -/
  | invalidate
  deriving DecidableEq, Repr, Inhabited

/-- A host access to device memory (R363). -/
inductive HostOp where
  /-- a read that does not cache the line -/
  | read (len : Nat)
  /-- a read that caches the line at the host (HDM-DB), for writing or not -/
  | acquire (modify : Bool)
  /-- a write of these bytes -/
  | write (data : List Byte)
  deriving DecidableEq, Repr, Inhabited

/-- What a remote request of another package asks of this one (R260, R365). -/
inductive RemoteOp where
  | load (size : BitVec 2)
  | store (size : BitVec 2) (data : Word)
  | amo (op : BitVec 4) (expect data : Word)
  /-- a bulk write of an RCOPY: its bytes, and the doublewords of them that are poisoned (R340) -/
  | bulk (data : List Byte) (bad : List Nat)
  /-- the completion flag of an RCOPY -/
  | flag (value : Word)
  /-- what a member of a pod collective sends to its root, and what the root sends back (R368) -/
  | part (entry inst index : Nat) (word : Word) (data : List Byte)
  | result (entry inst : Nat) (data : List Byte)
  deriving DecidableEq, Repr, Inhabited

/-- What the failing bring-up phase reports, or its result (R372). -/
inductive PhaseResult where
  /-- phase 3: core 0 of die 0 releases the other management cores -/
  | release
  /-- phases 1 to 3 and 6 succeed; after phase 1 the management cores run from this entry address -/
  | ok (entry : Word)
  /-- phase 4: the remap record of each of the 64 rings, in ring order, from the factory repair map -/
  | remap (records : List (BitVec 128))
  /-- phase 5: the link configuration record that firmware writes (R367) -/
  | links (config : Word)
  | failed
  deriving DecidableEq, Repr, Inhabited

/-- The words that a step ILLEGAL_ENCODING concerns (R154): which stream fetched the word. -/
inductive BadWord where
  | control (w : Ctl)
  | block (w : Blk)
  deriving DecidableEq, Repr, Inhabited

end Sys2Proof
end

