-- ==== Sys2Proof/Syntax.lean ====
section
/-!
DEFINITION. The instructions and steps of the part: one constructor per row of spec/opcode_table.json.
Control words carry the fields that R146 and R147 give them; block words carry the fields of R150;
the commands of R369 and the events carry the inputs that the step receives from outside (which
core, which entry, which data). A field is kept as the encoding holds it; the machine reads it.
-/
namespace Sys2Proof

/-- Every row of the opcode table: control words with fields, the two register writes and the illegal
encoding, block words, commands and events, and the control words without fields. -/
inductive Instr where
  /-- ADD (R166): Writes a + b, wrapped to 64 bits, into xd; any operand may be a shared register XS0–XS7. -/
  | add (xd : Reg) (xa : Reg) (xb : Reg) (sd : Bool) (sa : Bool) (sb : Bool)
  /-- SUB (R166): Writes a − b, wrapped, into xd. -/
  | sub (xd : Reg) (xa : Reg) (xb : Reg) (sd : Bool) (sa : Bool) (sb : Bool)
  /-- AND (R166): Writes the bitwise AND of a and b into xd. -/
  | and_ (xd : Reg) (xa : Reg) (xb : Reg) (sd : Bool) (sa : Bool) (sb : Bool)
  /-- OR (R166): Writes the bitwise OR of a and b into xd. -/
  | or_ (xd : Reg) (xa : Reg) (xb : Reg) (sd : Bool) (sa : Bool) (sb : Bool)
  /-- XOR (R166): Writes the bitwise XOR of a and b into xd. -/
  | xor (xd : Reg) (xa : Reg) (xb : Reg) (sd : Bool) (sa : Bool) (sb : Bool)
  /-- ANDN (R166): Writes a AND NOT b into xd. -/
  | andn (xd : Reg) (xa : Reg) (xb : Reg) (sd : Bool) (sa : Bool) (sb : Bool)
  /-- SHL (R166): Shifts a left by b[5:0], with zeros entering. -/
  | shl (xd : Reg) (xa : Reg) (xb : Reg) (sd : Bool) (sa : Bool) (sb : Bool)
  /-- SHR (R166): Shifts a right by b[5:0], with zeros entering. -/
  | shr (xd : Reg) (xa : Reg) (xb : Reg) (sd : Bool) (sa : Bool) (sb : Bool)
  /-- SAR (R166): Shifts a right arithmetically by b[5:0]. -/
  | sar (xd : Reg) (xa : Reg) (xb : Reg) (sd : Bool) (sa : Bool) (sb : Bool)
  /-- ROL (R166): Rotates a left by b[5:0]. -/
  | rol (xd : Reg) (xa : Reg) (xb : Reg) (sd : Bool) (sa : Bool) (sb : Bool)
  /-- MUL (R166): Writes bits [63:0] of a × b into xd. -/
  | mul (xd : Reg) (xa : Reg) (xb : Reg) (sd : Bool) (sa : Bool) (sb : Bool)
  /-- MULH (R166): Writes bits [127:64] of the signed product into xd. -/
  | mulh (xd : Reg) (xa : Reg) (xb : Reg) (sd : Bool) (sa : Bool) (sb : Bool)
  /-- MULHN (R166): Writes bits [127:64] of the unsigned product into xd. -/
  | mulhn (xd : Reg) (xa : Reg) (xb : Reg) (sd : Bool) (sa : Bool) (sb : Bool)
  /-- DIV (R167): Writes the signed quotient truncated toward zero, with the boundary results of R167 and no trap. -/
  | div (xd : Reg) (xa : Reg) (xb : Reg) (sd : Bool) (sa : Bool) (sb : Bool)
  /-- DIVN (R167): Writes the unsigned quotient, all ones for a zero divisor. -/
  | divn (xd : Reg) (xa : Reg) (xb : Reg) (sd : Bool) (sa : Bool) (sb : Bool)
  /-- REM (R167): Writes the signed remainder with the sign of a. -/
  | rem (xd : Reg) (xa : Reg) (xb : Reg) (sd : Bool) (sa : Bool) (sb : Bool)
  /-- REMN (R167): Writes the unsigned remainder. -/
  | remn (xd : Reg) (xa : Reg) (xb : Reg) (sd : Bool) (sa : Bool) (sb : Bool)
  /-- MIN (R166): Writes the signed lesser of a and b. -/
  | min (xd : Reg) (xa : Reg) (xb : Reg) (sd : Bool) (sa : Bool) (sb : Bool)
  /-- MAX (R166): Writes the signed greater of a and b. -/
  | max (xd : Reg) (xa : Reg) (xb : Reg) (sd : Bool) (sa : Bool) (sb : Bool)
  /-- MINN (R166): Writes the unsigned lesser of a and b. -/
  | minn (xd : Reg) (xa : Reg) (xb : Reg) (sd : Bool) (sa : Bool) (sb : Bool)
  /-- MAXN (R166): Writes the unsigned greater of a and b. -/
  | maxn (xd : Reg) (xa : Reg) (xb : Reg) (sd : Bool) (sa : Bool) (sb : Bool)
  /-- CMPEQ (R166): Writes 1 if a equals b, otherwise 0. -/
  | cmpeq (xd : Reg) (xa : Reg) (xb : Reg) (sd : Bool) (sa : Bool) (sb : Bool)
  /-- CMPLT (R166): Writes 1 if a < b signed, otherwise 0. -/
  | cmplt (xd : Reg) (xa : Reg) (xb : Reg) (sd : Bool) (sa : Bool) (sb : Bool)
  /-- CMPLTN (R166): Writes 1 if a < b unsigned, otherwise 0. -/
  | cmpltn (xd : Reg) (xa : Reg) (xb : Reg) (sd : Bool) (sa : Bool) (sb : Bool)
  /-- CLZ (R166): Writes the number of leading zero bits of a. -/
  | clz (xd : Reg) (xa : Reg) (sd : Bool) (sa : Bool)
  /-- CTZ (R166): Writes the number of trailing zero bits of a. -/
  | ctz (xd : Reg) (xa : Reg) (sd : Bool) (sa : Bool)
  /-- POPC (R166): Writes the number of 1 bits of a. -/
  | popc (xd : Reg) (xa : Reg) (sd : Bool) (sa : Bool)
  /-- BSWAP (R166): Writes the bytes of a in reverse order. -/
  | bswap (xd : Reg) (xa : Reg) (sd : Bool) (sa : Bool)
  /-- SEXT (R166): Sign-extends the low 8, 16 or 32 bits of a, as the width field selects. -/
  | sext (xd : Reg) (xa : Reg) (sd : Bool) (sa : Bool) (w : BitVec 2)
  /-- ZEXT (R166): Zero-extends the low 8, 16 or 32 bits of a, as the width field selects. -/
  | zext (xd : Reg) (xa : Reg) (sd : Bool) (sa : Bool) (w : BitVec 2)
  /-- ADDI (R169): Writes Xa plus the sign-extended immediate into xd. -/
  | addi (xd : Reg) (xa : Reg) (imm : BitVec 16)
  /-- ANDI (R169): Writes Xa AND the zero-extended immediate into xd. -/
  | andi (xd : Reg) (xa : Reg) (imm : BitVec 16)
  /-- ORI (R169): Writes Xa OR the zero-extended immediate into xd. -/
  | ori (xd : Reg) (xa : Reg) (imm : BitVec 16)
  /-- XORI (R169): Writes Xa XOR the zero-extended immediate into xd. -/
  | xori (xd : Reg) (xa : Reg) (imm : BitVec 16)
  /-- SHLI (R169): Shifts Xa left by an immediate count of 0 to 63. -/
  | shli (xd : Reg) (xa : Reg) (n : BitVec 6)
  /-- SHRI (R169): Shifts Xa right logically by an immediate count. -/
  | shri (xd : Reg) (xa : Reg) (n : BitVec 6)
  /-- SARI (R169): Shifts Xa right arithmetically by an immediate count. -/
  | sari (xd : Reg) (xa : Reg) (n : BitVec 6)
  /-- CMPLTI (R169): Writes 1 if Xa is below the sign-extended immediate, signed, otherwise 0. -/
  | cmplti (xd : Reg) (xa : Reg) (imm : BitVec 16)
  /-- LDHI (R169): Writes the sign-extended 21-bit immediate shifted left by 16 into xd. -/
  | ldhi (xd : Reg) (imm : BitVec 21)
  /-- ADDPC (R169): Writes the instruction's 64 KiB page address plus the immediate shifted left by 16 into xd. -/
  | addpc (xd : Reg) (imm : BitVec 21)
  /-- LDB (R170): Loads a byte at Xa plus the scaled offset and sign-extends it into xd. -/
  | ldb (xd : Reg) (xa : Reg) (off : BitVec 14)
  /-- LDH (R170): Loads a halfword and sign-extends it into xd. -/
  | ldh (xd : Reg) (xa : Reg) (off : BitVec 14)
  /-- LDW (R170): Loads a word and sign-extends it into xd. -/
  | ldw (xd : Reg) (xa : Reg) (off : BitVec 14)
  /-- LDD (R170): Loads a doubleword into xd. -/
  | ldd (xd : Reg) (xa : Reg) (off : BitVec 14)
  /-- LDBN (R170): Loads a byte and zero-extends it into xd. -/
  | ldbn (xd : Reg) (xa : Reg) (off : BitVec 14)
  /-- LDHN (R170): Loads a halfword and zero-extends it into xd. -/
  | ldhn (xd : Reg) (xa : Reg) (off : BitVec 14)
  /-- LDWN (R170): Loads a word and zero-extends it into xd. -/
  | ldwn (xd : Reg) (xa : Reg) (off : BitVec 14)
  /-- STB (R170): Stores the low byte of Xs at Xa plus the scaled offset. -/
  | stb (xs : Reg) (xa : Reg) (off : BitVec 14)
  /-- STH (R170): Stores the low halfword of Xs. -/
  | sth (xs : Reg) (xa : Reg) (off : BitVec 14)
  /-- STW (R170): Stores the low word of Xs. -/
  | stw (xs : Reg) (xa : Reg) (off : BitVec 14)
  /-- STD (R170): Stores the doubleword Xs. -/
  | std (xs : Reg) (xa : Reg) (off : BitVec 14)
  /-- LDS (R171): Loads from the core's scratchpad at Xa plus the scaled offset, sign-extended, with the size of the size code. -/
  | lds (xd : Reg) (xa : Reg) (off : BitVec 14) (sz : BitVec 2)
  /-- STS (R171): Stores the low bytes of Xs into the core's scratchpad, logging the granule in a speculative leg. -/
  | sts (xs : Reg) (xa : Reg) (off : BitVec 14) (sz : BitVec 2)
  /-- LDA (R172): Loads an aligned doubleword at Xa as an acquire at the named scope. -/
  | lda (xd : Reg) (xa : Reg) (scope : BitVec 3)
  /-- STL (R172): Stores the doubleword Xb at Xa as a release at the named scope, after the ordering wait. -/
  | stl (xa : Reg) (xb : Reg) (scope : BitVec 3)
  /-- AMOADD (R173): Atomically adds Xb to the doubleword at Xa and returns the old value, as release and acquire at its scope. -/
  | amoadd (xd : Reg) (xa : Reg) (xb : Reg) (scope : BitVec 3)
  /-- AMOSWP (R173): Atomically swaps Xb into the doubleword at Xa and returns the old value. -/
  | amoswp (xd : Reg) (xa : Reg) (xb : Reg) (scope : BitVec 3)
  /-- AMOCAS (R173): Atomically writes Xb if the old value equals Xd, and returns the old value. -/
  | amocas (xd : Reg) (xa : Reg) (xb : Reg) (scope : BitVec 3)
  /-- AMOMIN (R173): Atomically stores the signed lesser of the old value and Xb. -/
  | amomin (xd : Reg) (xa : Reg) (xb : Reg) (scope : BitVec 3)
  /-- AMOMAX (R173): Atomically stores the signed greater of the old value and Xb. -/
  | amomax (xd : Reg) (xa : Reg) (xb : Reg) (scope : BitVec 3)
  /-- AMOMINN (R173): Atomically stores the unsigned lesser of the old value and Xb. -/
  | amominn (xd : Reg) (xa : Reg) (xb : Reg) (scope : BitVec 3)
  /-- AMOMAXN (R173): Atomically stores the unsigned greater of the old value and Xb. -/
  | amomaxn (xd : Reg) (xa : Reg) (xb : Reg) (scope : BitVec 3)
  /-- AMOAND (R173): Atomically stores the old value AND Xb. -/
  | amoand (xd : Reg) (xa : Reg) (xb : Reg) (scope : BitVec 3)
  /-- AMOOR (R173): Atomically stores the old value OR Xb. -/
  | amoor (xd : Reg) (xa : Reg) (xb : Reg) (scope : BitVec 3)
  /-- AMOXOR (R173): Atomically stores the old value XOR Xb. -/
  | amoxor (xd : Reg) (xa : Reg) (xb : Reg) (scope : BitVec 3)
  /-- BEQ (R174): Branches to the target when Xa equals Xb. -/
  | beq (xa : Reg) (xb : Reg) (off : BitVec 15)
  /-- BNE (R174): Branches to the target when Xa differs from Xb. -/
  | bne (xa : Reg) (xb : Reg) (off : BitVec 15)
  /-- BLT (R174): Branches when Xa is less than Xb, signed. -/
  | blt (xa : Reg) (xb : Reg) (off : BitVec 15)
  /-- BLTN (R174): Branches when Xa is less than Xb, unsigned. -/
  | bltn (xa : Reg) (xb : Reg) (off : BitVec 15)
  /-- BGE (R174): Branches when Xa is greater than or equal to Xb, signed. -/
  | bge (xa : Reg) (xb : Reg) (off : BitVec 15)
  /-- BGEN (R174): Branches when Xa is greater than or equal to Xb, unsigned. -/
  | bgen (xa : Reg) (xb : Reg) (off : BitVec 15)
  /-- JMP (R175): Jumps to A plus the sign-extended offset times 4. -/
  | jmp (off : BitVec 26)
  /-- CALL (R175): Writes A + 4 into X31 and jumps to the relative target. -/
  | call (off : BitVec 26)
  /-- JR (R175): Jumps to the address in Xa, trapping on a misaligned target. -/
  | jr (xa : Reg)
  /-- CALLR (R175): Writes A + 4 into Xd and jumps to the address in Xa. -/
  | callr (xd : Reg) (xa : Reg)
  /-- FORK (R40): Checks the region, waits for earlier blocks and accesses, and splits the loop up to its JOIN into versioned legs on the span. -/
  | fork (xd : Reg) (xa : Reg) (xb : Reg) (fn : BitVec 11)
  /-- FORKI (R62): Splits the loop into unversioned independent legs on the span. -/
  | forki (xd : Reg) (xa : Reg) (xb : Reg) (fn : BitVec 11)
  /-- BSEND (R45): Sends the current value of a carried register to the next leg along the baton ring. -/
  | bsend (xa : Reg)
  /-- LEGID (R179): Writes the current leg number into xd. -/
  | legid (xd : Reg)
  /-- VFETCH (R180): Enqueues the vector-fetch block at a relative address in the fetch queue, stalling while it is full. -/
  | vfetch (off : BitVec 26)
  /-- VFETCHX (R180): Enqueues the vector-fetch block at the address in Xa. -/
  | vfetchx (xa : Reg)
  /-- RDREPLY (R181): Removes the oldest reply-queue value into Xd, stalling while the queue is empty. -/
  | rdreply (xd : Reg)
  /-- VSET (R182): Sets VROWS and VCOLS from Xa and Xb, clamped, and writes their product into Xd. -/
  | vset (xd : Reg) (xa : Reg) (xb : Reg)
  /-- SEND (R252): Places a message of up to six payload registers for a logical core and channel in the context's send queue. -/
  | send (xa : Reg) (xb : Reg) (chan : BitVec 6) (n : BitVec 3)
  /-- CHSET (R253): Writes Xb into a channel entry of the issuing core's task table. -/
  | chset (xa : Reg) (xb : Reg)
  /-- CHBLK (R253): Sets BLOCKED of a channel of the issuing core. -/
  | chblk (xa : Reg)
  /-- CHBLK_REM (R253): Sets BLOCKED of a channel of another logical core of the partition. -/
  | chblkRem (xa : Reg) (xb : Reg)
  /-- CHUNB (R253): Clears BLOCKED of a channel of the issuing core. -/
  | chunb (xa : Reg)
  /-- CHUNB_REM (R253): Clears BLOCKED of a channel of another logical core of the partition. -/
  | chunbRem (xa : Reg) (xb : Reg)
  /-- TSPAWN (R255): Reads and checks a task image, allocates a scheduler node and returns its handle. -/
  | tspawn (xd : Reg) (xa : Reg)
  /-- TWAIT (R255): Stalls until the named task has completed and acquires its completion. -/
  | twait (xa : Reg)
  /-- RTCOPY (R257): Checks a copy image in scratchpad and issues a retriever copy, returning its handle. -/
  | rtcopy (xd : Reg) (xa : Reg)
  /-- RTGATH (R257): Issues a retriever gather whose source rows are chosen by an index array. -/
  | rtgath (xd : Reg) (xa : Reg)
  /-- RTWAIT (R259): Stalls until the named copy has completed and acquires its chunks. -/
  | rtwait (xa : Reg)
  /-- RLOAD (R260): Loads from memory of another package and stalls until the value returns. -/
  | rload (xd : Reg) (xa : Reg) (sz : BitVec 2)
  /-- RSTORE (R260): Sends a store to memory of another package and completes when it is sent. -/
  | rstore (xd : Reg) (xa : Reg) (sz : BitVec 2)
  /-- RAMOADD (R260): Performs an atomic add at another package and returns the old value. -/
  | ramoadd (xd : Reg) (xa : Reg) (xb : Reg)
  /-- RAMOSWP (R260): Performs an atomic swap at another package. -/
  | ramoswp (xd : Reg) (xa : Reg) (xb : Reg)
  /-- RAMOCAS (R260): Performs an atomic compare-and-swap at another package. -/
  | ramocas (xd : Reg) (xa : Reg) (xb : Reg)
  /-- RAMOMIN (R260): Performs an atomic signed minimum at another package. -/
  | ramomin (xd : Reg) (xa : Reg) (xb : Reg)
  /-- RAMOMAX (R260): Performs an atomic signed maximum at another package. -/
  | ramomax (xd : Reg) (xa : Reg) (xb : Reg)
  /-- RAMOMINN (R260): Performs an atomic unsigned minimum at another package. -/
  | ramominn (xd : Reg) (xa : Reg) (xb : Reg)
  /-- RAMOMAXN (R260): Performs an atomic unsigned maximum at another package. -/
  | ramomaxn (xd : Reg) (xa : Reg) (xb : Reg)
  /-- RAMOAND (R260): Performs an atomic AND at another package. -/
  | ramoand (xd : Reg) (xa : Reg) (xb : Reg)
  /-- RAMOOR (R260): Performs an atomic OR at another package. -/
  | ramoor (xd : Reg) (xa : Reg) (xb : Reg)
  /-- RAMOXOR (R260): Performs an atomic XOR at another package. -/
  | ramoxor (xd : Reg) (xa : Reg) (xb : Reg)
  /-- RCOPY (R261): Reads a descriptor and starts a bulk copy to another package with an optional completion flag. -/
  | rcopy (xa : Reg)
  /-- COLL (R262): Reads a collective descriptor and joins the next instance of its group's collective, returning a handle. -/
  | coll (xd : Reg) (xa : Reg) (scope : BitVec 3)
  /-- COLLWAIT (R263): Stalls until the named collective instance has completed at every member and acquires it. -/
  | collwait (xa : Reg) (scope : BitVec 3)
  /-- FENCE (R129): Stalls until earlier accesses and read stores are performed at the named scope. -/
  | fence (scope : BitVec 3)
  /-- MONWAIT (R189): Arms a monitor on the line at Xa, reads the doubleword, and stalls until it fires if the value equals Xb. -/
  | monwait (xd : Reg) (xa : Reg) (xb : Reg)
  /-- GETS (R190): Reads a user state register into Xd, waiting for earlier blocks where R83 requires. -/
  | gets (xd : Reg) (num : BitVec 12)
  /-- SETS (R190): Writes Xs into a user state register, with the checks and waits of R80–R83. -/
  | sets (xs : Reg) (num : BitVec 12)
  /-- LOCQ (R191): Reports the physical location of this core and the hops to a target logical core. -/
  | locq (xd : Reg) (xa : Reg)
  /-- TRAP (R192): Raises a software trap with an 8-bit code, resuming at A + 4. -/
  | trap (code : BitVec 8)
  /-- BREAK (R192): Raises a breakpoint trap with an 8-bit code, resuming at A. -/
  | break_ (code : BitVec 8)
  /-- GETP (R331): Reads the privileged state register and instance named by Xa into Xd. -/
  | getp (xd : Reg) (xa : Reg)
  /-- SETP (R332): Waits for earlier stores at package scope, then writes Xb into a privileged register without its own row, refusing reserved values. -/
  | setp (xa : Reg) (xb : Reg)
  /-- TLBINV (R312): Invalidates every TLB entry of a tag covering a virtual address, package-wide, and waits for the old translation to drain. -/
  | tlbinv (xa : Reg) (xb : Reg)
  /-- TLBINVA (R312): Invalidates every TLB entry of a tag, package-wide. -/
  | tlbinva (xa : Reg)
  /-- CTXSAVE (R324): Pre-empts the strand placed on a span into a kennel and returns its task handle. -/
  | ctxsave (xd : Reg) (xa : Reg) (xb : Reg)
  /-- CTXLD (R327): Restores a strand from a kennel onto a free span of the same size. -/
  | ctxld (xd : Reg) (xa : Reg) (xb : Reg)
  /-- QDRAIN (R300): Drives a partition into DRAIN and waits until the drain log and status lines are written. -/
  | qdrain (xa : Reg)
  /-- PARTRST (R300): Drives a partition through DRAIN if needed and RESET, back to RUN. -/
  | partrst (xa : Reg)
  /-- CVAULT (R347): Vaults a logical core to a named or free reserve slot of its ring, returning 0, 1 or 2. -/
  | cvault (xd : Reg) (xa : Reg) (xb : Reg)
  /-- CKSYNC (R353): Starts a checkpoint pass of a partition once earlier stores are performed at package scope. -/
  | cksync (xa : Reg)
  /-- ELRD (R332): Reads a doubleword of the oldest unread error record. -/
  | elrd (xd : Reg) (xa : Reg)
  /-- ELRD_POP (R332): Reads a doubleword of the oldest error record and removes the record. -/
  | elrdPop (xd : Reg) (xa : Reg)
  /-- HCALL (R332): Queues two words to the host mailbox and returns the message sequence number, stalling while it is full. -/
  | hcall (xd : Reg) (xa : Reg) (xb : Reg)
  /-- WFE (R332): Stalls until an event bit of the die is pending, then returns and clears the pending bits. -/
  | wfe (xd : Reg)
  /-- RINGOWN_WRITE (R287): A write of RINGOWN that assigns or moves a ring, refused when the ring is occupied or the partition's tag is taken. -/
  | ringownWrite (ring : Nat) (value : Word)
  /-- ASTAG_WRITE (R303): A write of ASTAG, refused when the tag is held by another partition that owns a ring. -/
  | astagWrite (part : Nat) (value : Word)
  /-- ILLEGAL_ENCODING (R154): A fetched control or block word that is not an instruction (reserved or always-illegal opcode, bad selector or field) raises the illegal-instruction trap before any state changes. -/
  | illegalEncoding (w : BadWord)
  /-- VSTOP (R198): Ends the block and frees its fetch-queue entry once every instruction has issued. -/
  | vstop (f : BlockFields)
  /-- VNOP (R198): Does nothing. -/
  | vnop (f : BlockFields)
  /-- VLOOP_SET (R199): Sets a sequencer loop counter from an X register. -/
  | vloopSet (f : BlockFields)
  /-- VLOOP (R199): Decrements a loop counter and branches back while it exceeds 1. -/
  | vloop (f : BlockFields)
  /-- VREGION (R200): Skips forward when the governing predicate has no active bit. -/
  | vregion (f : BlockFields)
  /-- VREPLY (R201): Appends one element to the reply queue, stalling the sequencer while it is full. -/
  | vreply (f : BlockFields)
  /-- VADD (R202): Adds integer elements, wrapped. -/
  | vadd (f : BlockFields)
  /-- VSUB (R202): Subtracts integer elements, wrapped. -/
  | vsub (f : BlockFields)
  /-- VMUL (R202): Writes the low half of each integer product. -/
  | vmul (f : BlockFields)
  /-- VMULH (R202): Writes the high half of each integer product. -/
  | vmulh (f : BlockFields)
  /-- VMADD (R204): Adds the product of va and the second source into vd, wrapped. -/
  | vmadd (f : BlockFields)
  /-- VDIV (R203): Divides integer elements without trapping. -/
  | vdiv (f : BlockFields)
  /-- VMIN (R202): Writes the lesser integer element. -/
  | vmin (f : BlockFields)
  /-- VMAX (R202): Writes the greater integer element. -/
  | vmax (f : BlockFields)
  /-- VAND (R202): Bitwise AND of elements. -/
  | vand (f : BlockFields)
  /-- VOR (R202): Bitwise OR of elements. -/
  | vor (f : BlockFields)
  /-- VXOR (R202): Bitwise XOR of elements. -/
  | vxor (f : BlockFields)
  /-- VSHL (R202): Shifts elements left. -/
  | vshl (f : BlockFields)
  /-- VSHR (R202): Shifts elements right logically. -/
  | vshr (f : BlockFields)
  /-- VSAR (R202): Shifts elements right arithmetically. -/
  | vsar (f : BlockFields)
  /-- VADDC (R205): Adds elements with carry-in and carry-out predicates. -/
  | vaddc (f : BlockFields)
  /-- VSUBB (R205): Subtracts elements with borrow-in and borrow-out predicates. -/
  | vsubb (f : BlockFields)
  /-- VABSD (R202): Writes the absolute difference of elements. -/
  | vabsd (f : BlockFields)
  /-- VADDS (R202): Adds elements with saturation. -/
  | vadds (f : BlockFields)
  /-- VSUBS (R202): Subtracts elements with saturation. -/
  | vsubs (f : BlockFields)
  /-- VCMP (R206): Compares elements under a relation and writes a predicate. -/
  | vcmp (f : BlockFields)
  /-- VSEL (R207): Selects elements from va or vb by a predicate. -/
  | vsel (f : BlockFields)
  /-- VMOV (R207): Copies elements, and MX scale bytes with their blocks. -/
  | vmov (f : BlockFields)
  /-- VBCAST (R207): Broadcasts an X register into every active element. -/
  | vbcast (f : BlockFields)
  /-- VIOTA (R207): Writes X register plus element index into each element. -/
  | viota (f : BlockFields)
  /-- VFADD (R208): Floating-point add, rounded once. -/
  | vfadd (f : BlockFields)
  /-- VFSUB (R208): Floating-point subtract. -/
  | vfsub (f : BlockFields)
  /-- VFMUL (R208): Floating-point multiply. -/
  | vfmul (f : BlockFields)
  /-- VFMA (R208): Fused multiply-add into vd with one rounding. -/
  | vfma (f : BlockFields)
  /-- VFNMA (R208): Fused negated multiply-add into vd with one rounding. -/
  | vfnma (f : BlockFields)
  /-- VFDIV (R208): Floating-point divide. -/
  | vfdiv (f : BlockFields)
  /-- VFSQRT (R209): Floating-point square root. -/
  | vfsqrt (f : BlockFields)
  /-- VFMIN (R208): Floating-point minimum under the NaN rules of R93. -/
  | vfmin (f : BlockFields)
  /-- VFMAX (R208): Floating-point maximum under the NaN rules of R93. -/
  | vfmax (f : BlockFields)
  /-- VFSGN (R210): Combines the magnitude of a with a sign chosen from b. -/
  | vfsgn (f : BlockFields)
  /-- VFCLASS (R210): Writes a one-hot class mask of each element. -/
  | vfclass (f : BlockFields)
  /-- VEXP2 (R209): Computes 2 to the power of each element. -/
  | vexp2 (f : BlockFields)
  /-- VLOG2 (R209): Computes the base-2 logarithm of each element. -/
  | vlog2 (f : BlockFields)
  /-- VRCP (R209): Computes the reciprocal of each element. -/
  | vrcp (f : BlockFields)
  /-- VCVT (R211): Converts elements between integer, IEEE and unscaled FP8 types. -/
  | vcvt (f : BlockFields)
  /-- VQUANT (R212): Quantises each 32-element block into an MX type with its scale byte. -/
  | vquant (f : BlockFields)
  /-- VDEQ (R213): Dequantises MX elements with their scales into an IEEE type. -/
  | vdeq (f : BlockFields)
  /-- PAND (R214): Bitwise AND of predicates. -/
  | pand (f : BlockFields)
  /-- POR (R214): Bitwise OR of predicates. -/
  | por (f : BlockFields)
  /-- PXOR (R214): Bitwise XOR of predicates. -/
  | pxor (f : BlockFields)
  /-- PNOT (R214): Bitwise NOT of a predicate. -/
  | pnot (f : BlockFields)
  /-- PMOV (R214): Copies a predicate. -/
  | pmov (f : BlockFields)
  /-- PANY (R214): Writes 1 into a vector register if any active bit is set. -/
  | pany (f : BlockFields)
  /-- PCNT (R214): Writes the count of active set bits into a vector register. -/
  | pcnt (f : BlockFields)
  /-- PFIRST (R214): Writes the index of the first active set bit. -/
  | pfirst (f : BlockFields)
  /-- PBRKB (R214): Sets bits below the first active set bit. -/
  | pbrkb (f : BlockFields)
  /-- PBRKA (R214): Sets bits up to and including the first active set bit. -/
  | pbrka (f : BlockFields)
  /-- PSHL (R214): Shifts a predicate up or down by k bits. -/
  | pshl (f : BlockFields)
  /-- VPERM (R216): Permutes elements or MX blocks by an index operand. -/
  | vperm (f : BlockFields)
  /-- VSLIDE (R217): Slides elements up or down by X register count. -/
  | vslide (f : BlockFields)
  /-- VXPOSE (R218): Transposes a square register shape. -/
  | vxpose (f : BlockFields)
  /-- VEXTR (R217): Broadcasts one indexed element into every active element. -/
  | vextr (f : BlockFields)
  /-- VCOMPR (R219): Compresses selected elements to the front. -/
  | vcompr (f : BlockFields)
  /-- VEXPND (R219): Expands leading elements into selected positions. -/
  | vexpnd (f : BlockFields)
  /-- XSEND (R220): Waits for a neighbour's exchange buffer to empty and copies a register into it. -/
  | xsend (f : BlockFields)
  /-- XRECV (R220): Waits for the inbound exchange buffer to fill, writes it into a register and empties it. -/
  | xrecv (f : BlockFields)
  /-- VREDSUM (R101): Sums active elements through a fixed pairwise tree plus v0. -/
  | vredsum (f : BlockFields)
  /-- VREDOSUM (R100): Sums active elements in ascending order from v0. -/
  | vredosum (f : BlockFields)
  /-- VREDMIN (R102): Reduces active elements and v0 to their minimum. -/
  | vredmin (f : BlockFields)
  /-- VREDMAX (R102): Reduces active elements and v0 to their maximum. -/
  | vredmax (f : BlockFields)
  /-- VREDAND (R102): Reduces active elements and v0 by AND. -/
  | vredand (f : BlockFields)
  /-- VREDOR (R102): Reduces active elements and v0 by OR. -/
  | vredor (f : BlockFields)
  /-- VLD (R223): Loads elements from memory in contiguous, strided or pitched mode, optionally acquiring chunks. -/
  | vld (f : BlockFields)
  /-- VLD_SCL (R223): Loads the scale bytes bound to a vector register from memory. -/
  | vldScl (f : BlockFields)
  /-- VST (R223): Stores elements to memory. -/
  | vst (f : BlockFields)
  /-- VST_SCL (R223): Stores the scale bytes bound to a vector register to memory. -/
  | vstScl (f : BlockFields)
  /-- VLDX (R224): Gathers elements from memory by an index vector. -/
  | vldx (f : BlockFields)
  /-- VSTX (R224): Scatters elements to memory by an index vector. -/
  | vstx (f : BlockFields)
  /-- VLDFF (R225): Loads elements, stopping early at a fault after the first active element. -/
  | vldff (f : BlockFields)
  /-- VLDS (R226): Loads elements from the core's scratchpad, optionally chained or acquiring. -/
  | vlds (f : BlockFields)
  /-- VLDS_SCL (R226): Loads bound scale bytes from the scratchpad. -/
  | vldsScl (f : BlockFields)
  /-- VSTS (R226): Stores elements into the core's scratchpad. -/
  | vsts (f : BlockFields)
  /-- VSTS_SCL (R226): Stores bound scale bytes into the scratchpad. -/
  | vstsScl (f : BlockFields)
  /-- VLDSEG (R227): Loads indivisible segments into consecutive registers. -/
  | vldseg (f : BlockFields)
  /-- VSTSEG (R227): Stores indivisible segments from consecutive registers. -/
  | vstseg (f : BlockFields)
  /-- VSCADD (R228): Sends each active element's add to the home slice of its indexed address. -/
  | vscadd (f : BlockFields)
  /-- LSYNC (R126): Orders the context's vector accesses at core scope across lane-group queues. -/
  | lsync (f : BlockFields)
  /-- LSYNC_SCOPED (R126): Orders the context's vector accesses cumulatively at the named scope. -/
  | lsyncScoped (f : BlockFields)
  /-- MSHAPE (R232): Writes an X register into MSHAPE for later matrix instructions. -/
  | mshape (f : BlockFields)
  /-- MTLD (R233): Fills a tile from a vector register pair with its scales. -/
  | mtld (f : BlockFields)
  /-- MTLDM (R234): Fills a tile's rows from memory or scratchpad. -/
  | mtldm (f : BlockFields)
  /-- MTLDM_SCL (R234): Fills a tile's scale area from memory or scratchpad. -/
  | mtldmScl (f : BlockFields)
  /-- MTST (R234): Writes a tile's rows to memory or scratchpad. -/
  | mtst (f : BlockFields)
  /-- MTST_SCL (R234): Writes a tile's scale area to memory or scratchpad. -/
  | mtstScl (f : BlockFields)
  /-- MMA_IP (R239): Inner-product matrix multiply of A rows against a latched tile into destination rows. -/
  | mmaIp (f : BlockFields)
  /-- MMA_OP (R240): Outer-product steps of A and B panels into an accumulator. -/
  | mmaOp (f : BlockFields)
  /-- MMA_RW (R241): Row-wise product of a sparse A row and a tile over a window. -/
  | mmaRw (f : BlockFields)
  /-- MMA_RW_SP (R242): Row-wise sparse-by-sparse product into the merge buffer. -/
  | mmaRwSp (f : BlockFields)
  /-- MACCZ (R235): Zeroes an accumulator, KPOS and OPEN. -/
  | maccz (f : BlockFields)
  /-- MACCRD (R236): Moves accumulator rows into a vector register. -/
  | maccrd (f : BlockFields)
  /-- MACCWR (R236): Moves vector register rows into an accumulator. -/
  | maccwr (f : BlockFields)
  /-- MMRD (R243): Reads merge-buffer entries into an index and value register pair, optionally clearing it. -/
  | mmrd (f : BlockFields)
  /-- VMERGE (R246): Merges two sorted coordinate streams, adding equal indices. -/
  | vmerge (f : BlockFields)
  /-- VTOPK (R247): Writes the k largest active entries of each row. -/
  | vtopk (f : BlockFields)
  /-- VSORTK (R248): Stably sorts key-index pairs of each row. -/
  | vsortk (f : BlockFields)
  /-- VCSRX (R249): Expands compressed rows into dense rows. -/
  | vcsrx (f : BlockFields)
  /-- READ_REGISTER (R369): Mailbox command 0xC000 returns a privileged register as GETP would. -/
  | readRegister (port : Port) (num : BitVec 12) (inst : Nat)
  /-- WRITE_REGISTER (R369): Mailbox command 0xC001 writes a privileged register as SETP would, returning Invalid Input on refusal. -/
  | writeRegister (num : BitVec 12) (inst : Nat) (value : Word)
  /-- START_DISPATCHER_STRAND (R289): Mailbox command 0xC002 starts a dispatcher strand for a queue in LAUNCH mode 10. -/
  | startDispatcherStrand (part queue : Nat) (image : Word)
  /-- RESUME_AFTER_PAGE_FAULT (R370): Mailbox command 0xC003 resolves an open page-fault record, resuming or aborting the faulting party. -/
  | resumeAfterPageFault (record : Nat) (action : Word)
  /-- ORDER_VAULT (R369): Mailbox command 0xC004 orders a vault as CVAULT would. -/
  | orderVault (core slot : Nat)
  /-- DRAIN_PARTITION (R369): Mailbox command 0xC005 drains a partition as QDRAIN would. -/
  | drainPartition (part : Nat)
  /-- RESET_PARTITION (R369): Mailbox command 0xC006 resets a partition as PARTRST would. -/
  | resetPartition (part : Nat)
  /-- READ_ERROR_RECORD (R369): Mailbox command 0xC007 returns a partition's oldest error record, optionally popping it. -/
  | readErrorRecord (port : Port) (part : Nat) (pop : Bool)
  /-- REQUEST_CHECKPOINT_PASS (R369): Mailbox command 0xC008 requests a checkpoint pass as CKSYNC would. -/
  | requestCheckpointPass (part : Nat)
  /-- READ_LINK_CONFIGURATION (R367): Mailbox command 0xC009 returns the link configuration record. -/
  | readLinkConfiguration (port : Port)
  /-- MESSAGE_TO_FIRMWARE (R369): Mailbox command 0xC00A passes two doublewords to firmware and sets event bit 3. -/
  | messageToFirmware (w0 w1 : Word)
  /-- READ_DEVICE_MESSAGE (R370): Mailbox command 0xC00B removes the oldest outbound message from the outbound queue. -/
  | readDeviceMessage
  /-- SEND_QUEUE_TRANSFER (R31): A message leaves a send queue for the destination's inbound queue once an entry is free. -/
  | sendQueueTransfer (unit ctx : Nat)
  /-- MESSAGE_START (R32): The core starts the highest-priority startable message in the lowest free handler context. -/
  | messageStart (unit : Nat)
  /-- BLOCK_START (R25): The vector sequencer takes the next block from the fetch queue and begins fetching it. -/
  | blockStart (unit : Nat)
  /-- LEG_START (R14): A leg starts in context 0 of its core once the core is free, with the state of R43. -/
  | legStart (strand : Nat)
  /-- BATON_DELIVERY (R45): A carried-register value arrives at the next leg, ending a pending stall or squashing a leg that read a different value. -/
  | batonDelivery (unit : Nat)
  /-- STORE_BROADCAST (R52): A store broadcast reaches a younger leg and squashes it if the sector is exposed or watched. -/
  | storeBroadcast (unit : Nat)
  /-- FORWARDING_REQUEST (R50): A leg load miss is answered by the newest older leg holding the sector dirty, or by the L2 or RDC. -/
  | forwardingRequest (unit ctx : Nat)
  /-- COMMIT_BATON (R55): The commit baton arrives and the leg becomes the runner, releasing its held actions in order. -/
  | commitBaton (strand : Nat)
  /-- CACHE_MISS_FILL (R106): Data for a cache or scratchpad miss returns and the stalled context becomes ready. -/
  | cacheMissFill (unit ctx : Nat) (bad : BitVec 4)
  /-- HEADER_RETRY (R109): A refused request header is sent again after the hinted number of control cycles. -/
  | headerRetry (unit ctx : Nat)
  /-- COHERENCE_INVALIDATION (R110): A directory invalidation reaches a leg-cache line, squashing a leg whose line is exposed. -/
  | coherenceInvalidation (unit line : Nat)
  /-- LEASE_EXPIRY (R111): An RDC line and leg-cache lines filled from it become invalid at the lease expiry. -/
  | leaseExpiry (die line : Nat)
  /-- LEASE_WAIT_WRITE (R112): A write to a leased line is performed at the home slice at TIME E + 1. -/
  | leaseWaitWrite (idx : Nat)
  /-- LINE_WRITEBACK (R343): A dirty line is written back to its home, poisoned and charged if an uncorrectable error is found. -/
  | lineWriteback (at_ : LineAt) (line : Nat) (bad forced : Bool)
  /-- POWER_GATE (R110): A cache about to be power-gated pushes its dirty lines home. -/
  | powerGate (agent : Agent)
  /-- SCATTER_ADD_APPLY (R115): The home slice applies a scatter-add through its combining buffer. -/
  | scatterAddApply (idx : Nat)
  /-- MONITOR_FIRE (R189): A write, snoop, eviction or full table fires a monitor and the MONWAIT rereads its location. -/
  | monitorFire (unit ctx : Nat)
  /-- CHUNK_LANDING (R135): A copy chunk lands and ORs its bit into the chunk predicate. -/
  | chunkLanding (copy : CopyRef) (chunk : Nat)
  /-- COPY_COMPLETION (R259): A retriever copy completes and frees its slot, releasing RTWAIT. -/
  | copyCompletion (unit : Nat) (handle : BitVec 32)
  /-- RETRIEVER_PAGE_FAULT (R258): A copy meets a page fault and pauses for the PFAULT duty, or aborts with a pending trap. -/
  | retrieverPageFault (unit : Nat) (handle : BitVec 32) (chunk : Nat)
  /-- REMOTE_REQUEST (R365): A remote request arrives and is served by the paired partition at the target's home slice. -/
  | remoteRequest (src : Nat) (pod : BitVec 4) (va : Word) (op : RemoteOp)
  /-- REMOTE_REPLY (R260): A remote load or atomic reply returns and completes the stalled instruction. -/
  | remoteReply (unit ctx id : Nat) (value : Word) (ok : Bool)
  /-- REMOTE_ERROR (R260): An error response for an RSTORE or RCOPY becomes pending in the issuing context. -/
  | remoteError (unit ctx id : Nat)
  /-- RCOPY_FLAG_WRITE (R143): After every chunk has landed the completion flag is written as a system-scope release. -/
  | rcopyFlagWrite (unit ctx id : Nat)
  /-- COLLECTIVE_COMPLETE (R368): A collective instance completes at every member with identical results, or flags a mismatch. -/
  | collectiveComplete (part entry inst : Nat) (others : List (Nat × Option (Word × List Byte)))
  /-- TASK_ORDER_POINT (R293): A TSPAWN reaches its queue's order point and receives its predecessor count. -/
  | taskOrderPoint (die node : Nat)
  /-- TASK_PLACEMENT (R294): The scheduler places a ready node on the first free span by effective priority and age. -/
  | taskPlacement (die part : Nat)
  /-- TASK_COMPLETION (R18): A task completes once its stores are performed, freeing its node, releasing successors and increasing DONE. -/
  | taskCompletion (strand : Nat)
  /-- LAUNCH_PICKUP (R289): The launch unit spawns the next launch-area image, or rejects it with a kind-16 record. -/
  | launchPickup (part queue : Nat)
  /-- WATCHDOG_EXPIRY (R298): A queue's watchdog count reaches its limit and raises the partition's watchdog event. -/
  | watchdogExpiry (part queue : Nat)
  /-- HANDLER_STALL_EXPIRY (R299): A handler context's stall count reaches queue 0's limit and raises the watchdog event. -/
  | handlerStallExpiry (unit ctx : Nat)
  /-- RECOVERY_WAIT_TIMEOUT (R300): A partition left in WAIT for 2^24 ticks without QDRAIN enters DRAIN. -/
  | recoveryWaitTimeout (part : Nat)
  /-- PARTITION_DRAIN (R301): DRAIN stops the partition, completes its copies, discards nodes and writes the drain logs and status lines. -/
  | partitionDrain (part : Nat)
  /-- TABLE_WALK (R305): A walker translates a missing page through three levels of tables, or produces a fault status. -/
  | tableWalk (unit ctx : Nat) (va : Word) (level : Nat) (bad : Bool)
  /-- BLOCK_FAULT_TAKE (R316): A pending block fault is taken at the first instruction boundary after the handler returns. -/
  | blockFaultTake (unit : Nat)
  /-- VAULT_DRAIN (R348): Once every context has stopped, store queues drain, pre-Q transfers complete and dirty lines are written back. -/
  | vaultDrain (ring : Nat)
  /-- VAULT_COPY (R348): The core's contexts, scratchpad, queues and tables are copied to the target slot. -/
  | vaultCopy (ring : Nat)
  /-- VAULT_COPY_FAILURE (R348): A failing target is marked faulty and the copy restarts on the next reserve, or the vault is refused. -/
  | vaultCopyFailure (ring : Nat)
  /-- VAULT_FLIP (R348): When the copy completes, the remap record names the target and routes pass through it. -/
  | vaultFlip (ring : Nat)
  /-- CHECKPOINT_TIMER (R297): In CKPT mode 00 a checkpoint pass starts every CKINTERVAL ticks. -/
  | checkpointTimer (part : Nat)
  /-- CHECKPOINT_PASS (R353): A pass copies every written granule of the ranges into the image and closes if none was copied. -/
  | checkpointPass (part : Nat)
  /-- REJOIN_ADMISSION (R344): A rejoining agent is admitted after the sweep and invalidation, writing a kind-15 record. -/
  | rejoinAdmission (agent : Agent)
  /-- THROTTLE_UPDATE (R375): Once per microsecond the power controller raises, lowers or keeps the throttle level. -/
  | throttleUpdate (power : BitVec 16) (temp : BitVec 8)
  /-- PACKAGE_FAULT (R376): A thermal fault or out-of-range input fails every partition and removes power from the compute dies. -/
  | packageFault
  /-- PACKAGE_RESET (R372): A package reset restarts bring-up at phase 1. -/
  | packageReset
  /-- BRINGUP_PHASE (R372): A bring-up phase completes and the next begins, or the package fails with a code. -/
  | bringupPhase (result : PhaseResult)
  /-- HOST_ACCESS (R363): A host access to device memory enters the home slice as an access from outside the package. -/
  | hostAccess (pa : Nat) (op : HostOp)
  /-- BACK_INVALIDATION (R363): The host's response to a back-invalidation snoop arrives and the waiting write is performed. -/
  | backInvalidation (line : Nat) (data : Option (List Byte))
  /-- HOST_SNOOP (R364): A host snoop of a host-memory line is answered within the line's leg cache. -/
  | hostSnoop (unit line : Nat) (kind : SnoopKind)
  /-- HOST_LINK_FAILURE (R364): Outstanding host accesses complete with poison and their partitions take the unrecoverable path. -/
  | hostLinkFailure
  /-- HOST_LINK_RESTORED (R364): The restored host link raises MSI-X vector 3. -/
  | hostLinkRestored
  /-- STATION_FAILURE (R366): A UALink station fails, and its paired station carries its requests, or requests that would cross both raise the remote-access trap. -/
  | stationFailure (station : BitVec 4)
  /-- CACHE_POWER_UP (R344): A power-gated cache, a slot returned to service or a retrained LLC becomes active again, empty, and starts the rejoin sweep while probes are answered not present. -/
  | cachePowerUp (agent : Agent)
  /-- PAGE_FAULT_SERVICE (R297): In PFAULT mode 01 the management core finishes serving an engine fault from its tables and resumes the faulting party, or leaves it unserved. -/
  | pageFaultService (record : Nat) (served : Bool)
  /-- CORRECTED_EVENT_WINDOW (R346): At each multiple of CETHRESH.WINDOW TIME ticks every core's corrected-event count restarts at zero and the threshold may be raised again. -/
  | correctedEventWindow (part : Nat)
  /-- JOIN (R178): Adds step to xind and either loops, pops an inner region, or ends the leg with its implicit sends and commit. -/
  | join
  /-- BAR (R63): Waits for the leg's earlier blocks and for every leg of the FORKI region to arrive, then orders accesses at ring scope. -/
  | bar
  /-- VWAIT (R181): Stalls until every earlier block has completed in both queues. -/
  | vwait
  /-- HEXIT (R254): Frees a handler context, or waits for the strand's work and ends the strand. -/
  | hexit
  /-- SHSYNC (R184): Stalls until the context's writes to XS0–XS7 are visible to every context of the core. -/
  | shsync
  /-- YIELD (R185): Offers the context's next own slot for lending. -/
  | yield
  /-- SPLOCK (R186): Takes the core's scratchpad lock, or stalls in issue order until it is free. -/
  | splock
  /-- SPUNLK (R186): Frees the scratchpad lock held by the context as a release at core scope. -/
  | spunlk
  /-- ERET (R322): Reloads X29–X31 from the current trap record, leaves trap mode and continues at EPC. -/
  | eret
  deriving DecidableEq, Repr, Inhabited

end Sys2Proof
end

