-- ==== Sys2Proof/WellFormed.lean ====
section
/-!
DEFINITION. Which instructions have an encoding: the value rules of R147, R149 to R154 and of the
instruction entries, each broken rule with a name of its own.
-/
namespace Sys2Proof

/-- Why a word is not an instruction (R154). -/
inductive Reject where
  /-- op 0x00 or 0x3F, block op 0x00 or 0xFF -/
  | alwaysIllegal
  /-- an opcode reserved by R148 or R153 -/
  | reservedOpcode
  /-- an unassigned value of a selecting field -/
  | selector
  /-- an unused field that is not zero -/
  | unusedField
  /-- a field value that R147, R151 or the entry marks illegal -/
  | fieldValue
  /-- a type code that the instruction does not accept -/
  | elementType
  /-- a shape or slice that the instruction does not accept -/
  | shape
  /-- a rounding code that the instruction does not accept -/
  | rounding
  /-- a predicate field that breaks R151 -/
  | predicate
  /-- a register, scale, tile or accumulator number beyond its range -/
  | register
  deriving DecidableEq, Repr

/-! ## Element-type classes (R194), as sets of type codes -/

def clsNone : BitVec 32 := 0x1#32
def clsI : BitVec 32 := 0xFF#32
def clsF : BitVec 32 := 0xF00#32
def clsM : BitVec 32 := 0x3F000#32
def clsE : BitVec 32 := 0x40000#32
def clsQ : BitVec 32 := 0x180000#32
def clsAll : BitVec 32 := 0x1FFFFF#32
/-- Accumulator types f32 and f64 (R236, R243). -/
def clsAcc : BitVec 32 := 0xC00#32

/-- What a register field of a block word may name. -/
inductive RegUse where
  /-- not used: must be zero -/
  | u
  /-- any of 32 registers, or an offset bit field -/
  | r
  /-- a number below this bound -/
  | lt (n : Nat)

def RegUse.bad (use : RegUse) (x : BitVec 5) : Option Reject :=
  match use with
  | .u => if x = 0 then none else some .unusedField
  | .r => none
  | .lt n => if x.toNat < n then none else some .register

/-- How a block word uses pm, zm and PINV. -/
inductive PredUse where
  /-- not governed: all three must be zero -/
  | no
  /-- governed, but zm must be 0 -/
  | noZm
  /-- governed under R77 -/
  | full

def PredUse.bad (u : PredUse) (f : BlockFields) : Bool :=
  match u with
  | .no => f.pm != 0 || f.zm || f.pinv
  | .noZm => f.zm || (f.pinv && f.pm == 0)
  | .full => f.pinv && f.pm == 0

/-- Which shapes a block word accepts (R71, R151). -/
inductive ShapeUse where
  | whole
  | any
  | row
  | wholeRow

def ShapeUse.bad (u : ShapeUse) (f : BlockFields) : Bool :=
  f.sh == 3 || (f.sh == 0 && f.slice != 0) ||
    match u with
    | .whole => f.sh != 0
    | .any => false
    | .row => f.sh != 1
    | .wholeRow => f.sh == 2

/-- Which rounding codes a block word accepts (R90, R151). -/
inductive RndUse where
  | zero
  | any
  /-- any for class F, 000 otherwise -/
  | float

def RndUse.bad (u : RndUse) (f : BlockFields) : Bool :=
  f.rnd == 5 || f.rnd == 6 ||
    match u with
    | .zero => f.rnd != 0
    | .any => false
    | .float => f.rnd != 0 && !clsF.getLsbD f.ty.toNat

/-- The rules of one block instruction. -/
structure BlockRule where
  vd : RegUse
  va : RegUse
  vb : RegUse
  vc : RegUse
  pred : PredUse
  types : BitVec 32
  shapes : ShapeUse
  rnd : RndUse
  /-- FUNC bits that the instruction uses -/
  func : BitVec 9

/-- OFF of R199 and R200: bits [50:36], signed. -/
def BlockFields.off (f : BlockFields) : BitVec 15 := f.va ++ f.vb ++ f.vc

/-- The second type code, in FUNC[4:0] (R211 to R213). -/
def BlockFields.ty2 (f : BlockFields) : BitVec 5 := f.func.extractLsb' 0 5

/-- With SX, vb must be 0; without it, vc must be 0 (R194). -/
def BlockFields.sxOk (f : BlockFields) : Bool :=
  if f.func.getLsbD 0 then f.vb == 0 else f.vc == 0

/-- The addressing mode of R222 and R223, for a word that does not transfer scale bytes. -/
def BlockFields.modeOk (f : BlockFields) : Bool :=
  let mode := f.func.extractLsb' 0 2
  mode != 3 && (mode != 0 || f.vb == 0) && !(mode == 1 && clsM.getLsbD f.ty.toNat)

/-- A transfer of scale bytes (R223): FUNC[4] set, mode 00 or 10, no governing predicate. -/
def BlockFields.sclOk (f : BlockFields) : Bool :=
  let mode := f.func.extractLsb' 0 2
  f.func.getLsbD 4 && (mode == 2 || (mode == 0 && f.vb == 0))

/-- The register list of a segment instruction ends by V31, and is one register for M types (R227). -/
def BlockFields.segOk (f : BlockFields) (v : BitVec 5) : Bool :=
  let n := (f.func.extractLsb' 0 3).toNat
  decide (v.toNat + n ≤ 31) && (n == 0 || !clsM.getLsbD f.ty.toNat)

/-- The type pair and the saturation bits of VCVT (R211). -/
def BlockFields.cvtOk (f : BlockFields) : Bool :=
  (clsI ||| clsF ||| clsQ).getLsbD f.ty2.toNat && f.ty2 != f.ty &&
    (!f.func.getLsbD 5 || (clsI.getLsbD f.ty.toNat && clsI.getLsbD f.ty2.toNat)) &&
    (!f.func.getLsbD 8 || clsQ.getLsbD f.ty.toNat)

/-- The checks of R151 and R152 that a rule states, in order; `extra` is what the entry adds. -/
def BlockRule.check (r : BlockRule) (f : BlockFields) (extra : Bool) : Option Reject :=
  (r.vd.bad f.vd).or <| (r.va.bad f.va).or <| (r.vb.bad f.vb).or <| (r.vc.bad f.vc).or <|
    if r.pred.bad f then some .predicate
    else if !r.types.getLsbD f.ty.toNat then some .elementType
    else if r.shapes.bad f then some .shape
    else if r.rnd.bad f then some .rounding
    else if f.func &&& ~~~r.func != 0 then some .unusedField
    else if extra then none else some .fieldValue

/-- A register field of the ALU opcode: when it is marked shared it names XS0 to XS7 (R147). -/
def xsOk (shared : Bool) (r : Reg) : Bool := !shared || decide (r.toNat < 8)

/-- A scope code of R119. -/
def scopeOk (s : BitVec 3) : Bool := decide (s.toNat ≤ 4)

/-- The address pair of a remote operation: xa even, from 2 to 30 (R260). -/
def pairOk (xa : Reg) : Bool := decide (2 ≤ xa.toNat) && !xa.getLsbD 0

/-- `none` when the condition holds. -/
def need (c : Bool) (r : Reject) : Option Reject := if c then none else some r

/-- Why an instruction has no encoding, or `none` for a well-formed one. A step of the table that is
no instruction word carries no encoding rule. -/
def Instr.check : Instr → Option Reject
  | .add xd xa xb sd sa sb => need (xsOk sd xd && xsOk sa xa && xsOk sb xb) .fieldValue
  | .sub xd xa xb sd sa sb => need (xsOk sd xd && xsOk sa xa && xsOk sb xb) .fieldValue
  | .and_ xd xa xb sd sa sb => need (xsOk sd xd && xsOk sa xa && xsOk sb xb) .fieldValue
  | .or_ xd xa xb sd sa sb => need (xsOk sd xd && xsOk sa xa && xsOk sb xb) .fieldValue
  | .xor xd xa xb sd sa sb => need (xsOk sd xd && xsOk sa xa && xsOk sb xb) .fieldValue
  | .andn xd xa xb sd sa sb => need (xsOk sd xd && xsOk sa xa && xsOk sb xb) .fieldValue
  | .shl xd xa xb sd sa sb => need (xsOk sd xd && xsOk sa xa && xsOk sb xb) .fieldValue
  | .shr xd xa xb sd sa sb => need (xsOk sd xd && xsOk sa xa && xsOk sb xb) .fieldValue
  | .sar xd xa xb sd sa sb => need (xsOk sd xd && xsOk sa xa && xsOk sb xb) .fieldValue
  | .rol xd xa xb sd sa sb => need (xsOk sd xd && xsOk sa xa && xsOk sb xb) .fieldValue
  | .mul xd xa xb sd sa sb => need (xsOk sd xd && xsOk sa xa && xsOk sb xb) .fieldValue
  | .mulh xd xa xb sd sa sb => need (xsOk sd xd && xsOk sa xa && xsOk sb xb) .fieldValue
  | .mulhn xd xa xb sd sa sb => need (xsOk sd xd && xsOk sa xa && xsOk sb xb) .fieldValue
  | .div xd xa xb sd sa sb => need (xsOk sd xd && xsOk sa xa && xsOk sb xb) .fieldValue
  | .divn xd xa xb sd sa sb => need (xsOk sd xd && xsOk sa xa && xsOk sb xb) .fieldValue
  | .rem xd xa xb sd sa sb => need (xsOk sd xd && xsOk sa xa && xsOk sb xb) .fieldValue
  | .remn xd xa xb sd sa sb => need (xsOk sd xd && xsOk sa xa && xsOk sb xb) .fieldValue
  | .min xd xa xb sd sa sb => need (xsOk sd xd && xsOk sa xa && xsOk sb xb) .fieldValue
  | .max xd xa xb sd sa sb => need (xsOk sd xd && xsOk sa xa && xsOk sb xb) .fieldValue
  | .minn xd xa xb sd sa sb => need (xsOk sd xd && xsOk sa xa && xsOk sb xb) .fieldValue
  | .maxn xd xa xb sd sa sb => need (xsOk sd xd && xsOk sa xa && xsOk sb xb) .fieldValue
  | .cmpeq xd xa xb sd sa sb => need (xsOk sd xd && xsOk sa xa && xsOk sb xb) .fieldValue
  | .cmplt xd xa xb sd sa sb => need (xsOk sd xd && xsOk sa xa && xsOk sb xb) .fieldValue
  | .cmpltn xd xa xb sd sa sb => need (xsOk sd xd && xsOk sa xa && xsOk sb xb) .fieldValue
  | .clz xd xa sd sa => need (xsOk sd xd && xsOk sa xa) .fieldValue
  | .ctz xd xa sd sa => need (xsOk sd xd && xsOk sa xa) .fieldValue
  | .popc xd xa sd sa => need (xsOk sd xd && xsOk sa xa) .fieldValue
  | .bswap xd xa sd sa => need (xsOk sd xd && xsOk sa xa) .fieldValue
  | .sext xd xa sd sa w => need (xsOk sd xd && xsOk sa xa && w != 3) .fieldValue
  | .zext xd xa sd sa w => need (xsOk sd xd && xsOk sa xa && w != 3) .fieldValue
  | .addi _ _ _ => none
  | .andi _ _ _ => none
  | .ori _ _ _ => none
  | .xori _ _ _ => none
  | .shli _ _ _ => none
  | .shri _ _ _ => none
  | .sari _ _ _ => none
  | .cmplti _ _ _ => none
  | .ldhi _ _ => none
  | .addpc _ _ => none
  | .ldb _ _ _ => none
  | .ldh _ _ _ => none
  | .ldw _ _ _ => none
  | .ldd _ _ _ => none
  | .ldbn _ _ _ => none
  | .ldhn _ _ _ => none
  | .ldwn _ _ _ => none
  | .stb _ _ _ => none
  | .sth _ _ _ => none
  | .stw _ _ _ => none
  | .std _ _ _ => none
  | .lds _ _ _ _ => none
  | .sts _ _ _ _ => none
  | .lda _ _ scope => need (scopeOk scope) .fieldValue
  | .stl _ _ scope => need (scopeOk scope) .fieldValue
  | .amoadd _ _ _ scope => need (scopeOk scope) .fieldValue
  | .amoswp _ _ _ scope => need (scopeOk scope) .fieldValue
  | .amocas _ _ _ scope => need (scopeOk scope) .fieldValue
  | .amomin _ _ _ scope => need (scopeOk scope) .fieldValue
  | .amomax _ _ _ scope => need (scopeOk scope) .fieldValue
  | .amominn _ _ _ scope => need (scopeOk scope) .fieldValue
  | .amomaxn _ _ _ scope => need (scopeOk scope) .fieldValue
  | .amoand _ _ _ scope => need (scopeOk scope) .fieldValue
  | .amoor _ _ _ scope => need (scopeOk scope) .fieldValue
  | .amoxor _ _ _ scope => need (scopeOk scope) .fieldValue
  | .beq _ _ _ => none
  | .bne _ _ _ => none
  | .blt _ _ _ => none
  | .bltn _ _ _ => none
  | .bge _ _ _ => none
  | .bgen _ _ _ => none
  | .jmp _ => none
  | .call _ => none
  | .jr _ => none
  | .callr _ _ => none
  | .fork _ _ _ fn => need (fn != 0) .fieldValue
  | .forki _ _ _ fn => need (fn != 0) .fieldValue
  | .bsend _ => none
  | .legid _ => none
  | .vfetch _ => none
  | .vfetchx _ => none
  | .rdreply _ => none
  | .vset _ _ _ => none
  | .send _ xb _ n => need (n != 7 && (n != 0 || xb == 0) && decide (xb.toNat + n.toNat ≤ 32)) .fieldValue
  | .chset _ _ => none
  | .chblk _ => none
  | .chblkRem _ _ => none
  | .chunb _ => none
  | .chunbRem _ _ => none
  | .tspawn _ _ => none
  | .twait _ => none
  | .rtcopy _ _ => none
  | .rtgath _ _ => none
  | .rtwait _ => none
  | .rload _ xa _ => need (pairOk xa) .fieldValue
  | .rstore _ xa _ => need (pairOk xa) .fieldValue
  | .ramoadd _ xa _ => need (pairOk xa) .fieldValue
  | .ramoswp _ xa _ => need (pairOk xa) .fieldValue
  | .ramocas _ xa _ => need (pairOk xa) .fieldValue
  | .ramomin _ xa _ => need (pairOk xa) .fieldValue
  | .ramomax _ xa _ => need (pairOk xa) .fieldValue
  | .ramominn _ xa _ => need (pairOk xa) .fieldValue
  | .ramomaxn _ xa _ => need (pairOk xa) .fieldValue
  | .ramoand _ xa _ => need (pairOk xa) .fieldValue
  | .ramoor _ xa _ => need (pairOk xa) .fieldValue
  | .ramoxor _ xa _ => need (pairOk xa) .fieldValue
  | .rcopy _ => none
  | .coll _ _ scope => need (scopeOk scope) .fieldValue
  | .collwait _ scope => need (scopeOk scope) .fieldValue
  | .fence scope => need (scopeOk scope) .fieldValue
  | .monwait _ _ _ => none
  | .gets _ _ => none
  | .sets _ _ => none
  | .locq _ _ => none
  | .trap _ => none
  | .break_ _ => none
  | .getp _ _ => none
  | .setp _ _ => none
  | .tlbinv _ _ => none
  | .tlbinva _ => none
  | .ctxsave _ _ _ => none
  | .ctxld _ _ _ => none
  | .qdrain _ => none
  | .partrst _ => none
  | .cvault _ _ _ => none
  | .cksync _ => none
  | .elrd _ _ => none
  | .elrdPop _ _ => none
  | .hcall _ _ _ => none
  | .wfe _ => none
  | .ringownWrite _ _ => none
  | .astagWrite _ _ => none
  | .illegalEncoding _ => none
  | .vstop f => BlockRule.check ⟨.u, .u, .u, .u, .no, clsNone, .whole, .zero, 0x0#9⟩ f true
  | .vnop f => BlockRule.check ⟨.u, .u, .u, .u, .no, clsNone, .whole, .zero, 0x0#9⟩ f true
  | .vloopSet f => BlockRule.check ⟨(.lt 4), .u, .u, .r, .no, clsNone, .whole, .zero, 0x1#9⟩ f (f.func.getLsbD 0)
  | .vloop f => BlockRule.check ⟨(.lt 4), .r, .r, .r, .no, clsNone, .whole, .zero, 0x1#9⟩ f (!f.func.getLsbD 0)
  | .vregion f => BlockRule.check ⟨.u, .r, .r, .r, .noZm, clsNone, .whole, .zero, 0x0#9⟩ f (f.pm != 0 && decide (0 < f.off.toInt))
  | .vreply f => BlockRule.check ⟨.u, .r, .u, .r, .no, (clsI ||| clsF ||| clsQ ||| clsE), .any, .zero, 0x1#9⟩ f ((f.func.getLsbD 0 || f.vc == 0))
  | .vadd f => BlockRule.check ⟨.r, .r, .r, .r, .full, clsI, .any, .zero, 0x1#9⟩ f (f.sxOk)
  | .vsub f => BlockRule.check ⟨.r, .r, .r, .r, .full, clsI, .any, .zero, 0x1#9⟩ f (f.sxOk)
  | .vmul f => BlockRule.check ⟨.r, .r, .r, .r, .full, clsI, .any, .zero, 0x1#9⟩ f (f.sxOk)
  | .vmulh f => BlockRule.check ⟨.r, .r, .r, .r, .full, clsI, .any, .zero, 0x1#9⟩ f (f.sxOk)
  | .vmadd f => BlockRule.check ⟨.r, .r, .r, .r, .full, clsI, .any, .zero, 0x1#9⟩ f (f.sxOk)
  | .vdiv f => BlockRule.check ⟨.r, .r, .r, .r, .full, clsI, .any, .zero, 0x1#9⟩ f (f.sxOk)
  | .vmin f => BlockRule.check ⟨.r, .r, .r, .r, .full, clsI, .any, .zero, 0x1#9⟩ f (f.sxOk)
  | .vmax f => BlockRule.check ⟨.r, .r, .r, .r, .full, clsI, .any, .zero, 0x1#9⟩ f (f.sxOk)
  | .vand f => BlockRule.check ⟨.r, .r, .r, .r, .full, clsI, .any, .zero, 0x1#9⟩ f (f.sxOk)
  | .vor f => BlockRule.check ⟨.r, .r, .r, .r, .full, clsI, .any, .zero, 0x1#9⟩ f (f.sxOk)
  | .vxor f => BlockRule.check ⟨.r, .r, .r, .r, .full, clsI, .any, .zero, 0x1#9⟩ f (f.sxOk)
  | .vshl f => BlockRule.check ⟨.r, .r, .r, .r, .full, clsI, .any, .zero, 0x1#9⟩ f (f.sxOk)
  | .vshr f => BlockRule.check ⟨.r, .r, .r, .r, .full, clsI, .any, .zero, 0x1#9⟩ f (f.sxOk)
  | .vsar f => BlockRule.check ⟨.r, .r, .r, .r, .full, clsI, .any, .zero, 0x1#9⟩ f (f.sxOk)
  | .vaddc f => BlockRule.check ⟨.r, .r, .r, .r, .full, clsI, .any, .zero, 0x1F#9⟩ f true
  | .vsubb f => BlockRule.check ⟨.r, .r, .r, .r, .full, clsI, .any, .zero, 0x1F#9⟩ f true
  | .vabsd f => BlockRule.check ⟨.r, .r, .r, .r, .full, clsI, .any, .zero, 0x1#9⟩ f (f.sxOk)
  | .vadds f => BlockRule.check ⟨.r, .r, .r, .r, .full, clsI, .any, .zero, 0x1#9⟩ f (f.sxOk)
  | .vsubs f => BlockRule.check ⟨.r, .r, .r, .r, .full, clsI, .any, .zero, 0x1#9⟩ f (f.sxOk)
  | .vcmp f => BlockRule.check ⟨.r, .r, .r, .r, .full, (clsI ||| clsF), .any, .zero, 0xF#9⟩ f (f.sxOk && decide ((f.func.extractLsb' 1 3).toNat ≤ 5))
  | .vsel f => BlockRule.check ⟨.r, .r, .r, .r, .full, (clsI ||| clsF ||| clsQ ||| clsE), .any, .zero, 0x0#9⟩ f true
  | .vmov f => BlockRule.check ⟨.r, .r, .u, .u, .full, clsAll, .any, .zero, 0x0#9⟩ f true
  | .vbcast f => BlockRule.check ⟨.r, .u, .u, .r, .full, (clsI ||| clsF ||| clsQ ||| clsE), .any, .zero, 0x0#9⟩ f true
  | .viota f => BlockRule.check ⟨.r, .u, .u, .r, .full, clsI, .any, .zero, 0x0#9⟩ f true
  | .vfadd f => BlockRule.check ⟨.r, .r, .r, .r, .full, clsF, .any, .any, 0x1#9⟩ f (f.sxOk)
  | .vfsub f => BlockRule.check ⟨.r, .r, .r, .r, .full, clsF, .any, .any, 0x1#9⟩ f (f.sxOk)
  | .vfmul f => BlockRule.check ⟨.r, .r, .r, .r, .full, clsF, .any, .any, 0x1#9⟩ f (f.sxOk)
  | .vfma f => BlockRule.check ⟨.r, .r, .r, .r, .full, clsF, .any, .any, 0x1#9⟩ f (f.sxOk)
  | .vfnma f => BlockRule.check ⟨.r, .r, .r, .r, .full, clsF, .any, .any, 0x1#9⟩ f (f.sxOk)
  | .vfdiv f => BlockRule.check ⟨.r, .r, .r, .r, .full, clsF, .any, .any, 0x1#9⟩ f (f.sxOk)
  | .vfsqrt f => BlockRule.check ⟨.r, .r, .u, .u, .full, clsF, .any, .any, 0x0#9⟩ f true
  | .vfmin f => BlockRule.check ⟨.r, .r, .r, .r, .full, clsF, .any, .zero, 0x1#9⟩ f (f.sxOk)
  | .vfmax f => BlockRule.check ⟨.r, .r, .r, .r, .full, clsF, .any, .zero, 0x1#9⟩ f (f.sxOk)
  | .vfsgn f => BlockRule.check ⟨.r, .r, .r, .r, .full, clsF, .any, .zero, 0x7#9⟩ f (f.sxOk && f.func.extractLsb' 1 2 != 3)
  | .vfclass f => BlockRule.check ⟨.r, .r, .u, .u, .full, clsF, .any, .zero, 0x0#9⟩ f true
  | .vexp2 f => BlockRule.check ⟨.r, .r, .u, .u, .full, clsF, .any, .any, 0x0#9⟩ f true
  | .vlog2 f => BlockRule.check ⟨.r, .r, .u, .u, .full, clsF, .any, .any, 0x0#9⟩ f true
  | .vrcp f => BlockRule.check ⟨.r, .r, .u, .u, .full, clsF, .any, .any, 0x0#9⟩ f true
  | .vcvt f => BlockRule.check ⟨.r, .r, .u, .u, .full, (clsI ||| clsF ||| clsQ), .any, .any, 0x13F#9⟩ f (f.cvtOk)
  | .vquant f => BlockRule.check ⟨.r, .r, .u, .u, .full, clsM, .any, .any, 0x11F#9⟩ f (clsF.getLsbD f.ty2.toNat)
  | .vdeq f => BlockRule.check ⟨.r, .r, .u, .u, .full, clsF, .any, .any, 0x1F#9⟩ f (clsM.getLsbD f.ty2.toNat)
  | .pand f => BlockRule.check ⟨.r, .r, .r, .u, .full, clsNone, .whole, .zero, 0x0#9⟩ f true
  | .por f => BlockRule.check ⟨.r, .r, .r, .u, .full, clsNone, .whole, .zero, 0x0#9⟩ f true
  | .pxor f => BlockRule.check ⟨.r, .r, .r, .u, .full, clsNone, .whole, .zero, 0x0#9⟩ f true
  | .pnot f => BlockRule.check ⟨.r, .r, .u, .u, .full, clsNone, .whole, .zero, 0x0#9⟩ f true
  | .pmov f => BlockRule.check ⟨.r, .r, .u, .u, .full, clsNone, .whole, .zero, 0x0#9⟩ f true
  | .pany f => BlockRule.check ⟨.r, .r, .u, .u, .noZm, clsNone, .whole, .zero, 0x0#9⟩ f true
  | .pcnt f => BlockRule.check ⟨.r, .r, .u, .u, .noZm, clsNone, .whole, .zero, 0x0#9⟩ f true
  | .pfirst f => BlockRule.check ⟨.r, .r, .u, .u, .noZm, clsNone, .whole, .zero, 0x0#9⟩ f true
  | .pbrkb f => BlockRule.check ⟨.r, .r, .u, .u, .full, clsNone, .whole, .zero, 0x0#9⟩ f true
  | .pbrka f => BlockRule.check ⟨.r, .r, .u, .u, .full, clsNone, .whole, .zero, 0x0#9⟩ f true
  | .pshl f => BlockRule.check ⟨.r, .r, .u, .u, .full, clsNone, .whole, .zero, 0x1FF#9⟩ f true
  | .vperm f => BlockRule.check ⟨.r, .r, .r, .u, .full, clsAll, .any, .zero, 0x0#9⟩ f true
  | .vslide f => BlockRule.check ⟨.r, .r, .u, .r, .full, clsAll, .any, .zero, 0x1#9⟩ f true
  | .vxpose f => BlockRule.check ⟨.r, .r, .u, .u, .full, (clsI ||| clsF ||| clsQ), .whole, .zero, 0x0#9⟩ f true
  | .vextr f => BlockRule.check ⟨.r, .r, .u, .r, .full, (clsI ||| clsF ||| clsQ ||| clsE), .any, .zero, 0x0#9⟩ f true
  | .vcompr f => BlockRule.check ⟨.r, .r, .u, .u, .full, clsAll, .any, .zero, 0x0#9⟩ f true
  | .vexpnd f => BlockRule.check ⟨.r, .r, .u, .u, .full, clsAll, .any, .zero, 0x0#9⟩ f true
  | .xsend f => BlockRule.check ⟨.u, .r, .u, .u, .no, clsAll, .whole, .zero, 0x1#9⟩ f true
  | .xrecv f => BlockRule.check ⟨.r, .u, .u, .u, .full, clsAll, .whole, .zero, 0x1#9⟩ f true
  | .vredsum f => BlockRule.check ⟨.r, .r, .r, .u, .noZm, (clsI ||| clsF), .any, .float, 0x0#9⟩ f true
  | .vredosum f => BlockRule.check ⟨.r, .r, .r, .u, .noZm, (clsI ||| clsF), .any, .float, 0x0#9⟩ f true
  | .vredmin f => BlockRule.check ⟨.r, .r, .r, .u, .noZm, (clsI ||| clsF), .any, .zero, 0x0#9⟩ f true
  | .vredmax f => BlockRule.check ⟨.r, .r, .r, .u, .noZm, (clsI ||| clsF), .any, .zero, 0x0#9⟩ f true
  | .vredand f => BlockRule.check ⟨.r, .r, .r, .u, .noZm, clsI, .any, .zero, 0x0#9⟩ f true
  | .vredor f => BlockRule.check ⟨.r, .r, .r, .u, .noZm, clsI, .any, .zero, 0x0#9⟩ f true
  | .vld f => BlockRule.check ⟨.r, .u, .r, .r, .full, clsAll, .any, .zero, 0x43#9⟩ f (f.modeOk)
  | .vldScl f => BlockRule.check ⟨.r, .u, .r, .r, .no, clsE, .any, .zero, 0x5B#9⟩ f (f.sclOk)
  | .vst f => BlockRule.check ⟨.u, .r, .r, .r, .noZm, clsAll, .any, .zero, 0x3#9⟩ f (f.modeOk)
  | .vstScl f => BlockRule.check ⟨.u, .r, .r, .r, .no, clsE, .any, .zero, 0x1B#9⟩ f (f.sclOk)
  | .vldx f => BlockRule.check ⟨.r, .u, .r, .r, .full, (clsI ||| clsF ||| clsQ), .any, .zero, 0x1F#9⟩ f (f.func.extractLsb' 0 2 != 0)
  | .vstx f => BlockRule.check ⟨.u, .r, .r, .r, .noZm, (clsI ||| clsF ||| clsQ), .any, .zero, 0x1F#9⟩ f (f.func.extractLsb' 0 2 != 0)
  | .vldff f => BlockRule.check ⟨.r, .u, .r, .r, .full, (clsI ||| clsF ||| clsQ), .any, .zero, 0x3#9⟩ f (f.modeOk)
  | .vlds f => BlockRule.check ⟨.r, .u, .r, .r, .full, clsAll, .any, .zero, 0x63#9⟩ f (f.modeOk)
  | .vldsScl f => BlockRule.check ⟨.r, .u, .r, .r, .no, clsE, .any, .zero, 0x7B#9⟩ f (f.sclOk)
  | .vsts f => BlockRule.check ⟨.u, .r, .r, .r, .noZm, clsAll, .any, .zero, 0x3#9⟩ f (f.modeOk)
  | .vstsScl f => BlockRule.check ⟨.u, .r, .r, .r, .no, clsE, .any, .zero, 0x1B#9⟩ f (f.sclOk)
  | .vldseg f => BlockRule.check ⟨.r, .u, .r, .r, .full, (clsI ||| clsF ||| clsQ ||| clsM), .any, .zero, 0x7#9⟩ f (f.segOk f.vd)
  | .vstseg f => BlockRule.check ⟨.u, .r, .r, .r, .noZm, (clsI ||| clsF ||| clsQ ||| clsM), .any, .zero, 0x7#9⟩ f (f.segOk f.va)
  | .vscadd f => BlockRule.check ⟨.u, .r, .r, .r, .noZm, (clsI ||| clsF), .any, .zero, 0x1F#9⟩ f (f.func.extractLsb' 0 2 != 0)
  | .lsync f => BlockRule.check ⟨.u, .u, .u, .u, .no, clsNone, .whole, .zero, 0x0#9⟩ f true
  | .lsyncScoped f => BlockRule.check ⟨.u, .u, .u, .u, .no, clsNone, .whole, .zero, 0xF#9⟩ f (f.func.getLsbD 3 && decide ((f.func.extractLsb' 0 3).toNat ≤ 4))
  | .mshape f => BlockRule.check ⟨.u, .u, .u, .r, .no, clsNone, .whole, .zero, 0x0#9⟩ f true
  | .mtld f => BlockRule.check ⟨(.lt 8), (.lt 31), .u, .u, .no, (clsF ||| clsQ ||| clsM), .whole, .zero, 0x0#9⟩ f true
  | .mtldm f => BlockRule.check ⟨(.lt 8), .u, .r, .r, .no, (clsF ||| clsQ ||| clsM), .whole, .zero, 0x3#9⟩ f (!f.func.getLsbD 1)
  | .mtldmScl f => BlockRule.check ⟨(.lt 8), .u, .r, .r, .no, clsM, .whole, .zero, 0x3#9⟩ f (f.func.getLsbD 1)
  | .mtst f => BlockRule.check ⟨(.lt 8), .u, .r, .r, .no, (clsF ||| clsQ ||| clsM), .whole, .zero, 0x3#9⟩ f (!f.func.getLsbD 1)
  | .mtstScl f => BlockRule.check ⟨(.lt 8), .u, .r, .r, .no, clsM, .whole, .zero, 0x3#9⟩ f (f.func.getLsbD 1)
  | .mmaIp f => BlockRule.check ⟨.r, .r, .u, (.lt 8), .no, (clsF ||| clsQ ||| clsM), .row, .zero, 0x3F#9⟩ f (f.func.extractLsb' 0 2 == 0)
  | .mmaOp f => BlockRule.check ⟨(.lt 2), .r, .r, (.lt 8), .no, (clsF ||| clsQ ||| clsM), .row, .zero, 0x3F#9⟩ f (f.func.extractLsb' 0 2 == 1 && (f.vc == 0 || clsM.getLsbD f.ty.toNat))
  | .mmaRw f => BlockRule.check ⟨.r, .r, .r, (.lt 8), .no, (clsF ||| clsQ ||| clsM), .row, .zero, 0x1FF#9⟩ f (f.func.extractLsb' 0 2 == 2)
  | .mmaRwSp f => BlockRule.check ⟨.u, .r, .r, (.lt 8), .no, (clsF ||| clsQ), .row, .zero, 0x1C3#9⟩ f (f.func.extractLsb' 0 2 == 3 && !f.vc.getLsbD 0)
  | .maccz f => BlockRule.check ⟨(.lt 2), .u, .u, .u, .no, clsNone, .whole, .zero, 0x0#9⟩ f true
  | .maccrd f => BlockRule.check ⟨.r, (.lt 2), .u, .u, .no, clsAcc, .row, .zero, 0x1FF#9⟩ f true
  | .maccwr f => BlockRule.check ⟨(.lt 2), .r, .u, .u, .no, clsAcc, .row, .zero, 0x1FF#9⟩ f true
  | .mmrd f => BlockRule.check ⟨(.lt 31), .u, .u, .r, .no, clsAcc, .whole, .zero, 0x1#9⟩ f true
  | .vmerge f => BlockRule.check ⟨(.lt 31), (.lt 31), (.lt 31), .u, .no, (clsI ||| clsF), .wholeRow, .float, 0x1#9⟩ f true
  | .vtopk f => BlockRule.check ⟨(.lt 31), .r, .u, .r, .noZm, (clsI ||| clsF), .whole, .zero, 0x1#9⟩ f true
  | .vsortk f => BlockRule.check ⟨(.lt 31), .r, .r, .u, .noZm, (clsI ||| clsF), .whole, .zero, 0x3#9⟩ f true
  | .vcsrx f => BlockRule.check ⟨.r, .r, .r, .u, .noZm, (clsI ||| clsF ||| clsQ), .whole, .zero, 0x1#9⟩ f true
  | .readRegister _ _ _ => none
  | .writeRegister _ _ _ => none
  | .startDispatcherStrand _ _ _ => none
  | .resumeAfterPageFault _ _ => none
  | .orderVault _ _ => none
  | .drainPartition _ => none
  | .resetPartition _ => none
  | .readErrorRecord _ _ _ => none
  | .requestCheckpointPass _ => none
  | .readLinkConfiguration _ => none
  | .messageToFirmware _ _ => none
  | .readDeviceMessage => none
  | .sendQueueTransfer _ _ => none
  | .messageStart _ => none
  | .blockStart _ => none
  | .legStart _ => none
  | .batonDelivery _ => none
  | .storeBroadcast _ => none
  | .forwardingRequest _ _ => none
  | .commitBaton _ => none
  | .cacheMissFill _ _ _ => none
  | .headerRetry _ _ => none
  | .coherenceInvalidation _ _ => none
  | .leaseExpiry _ _ => none
  | .leaseWaitWrite _ => none
  | .lineWriteback _ _ _ _ => none
  | .powerGate _ => none
  | .scatterAddApply _ => none
  | .monitorFire _ _ => none
  | .chunkLanding _ _ => none
  | .copyCompletion _ _ => none
  | .retrieverPageFault _ _ _ => none
  | .remoteRequest _ _ _ _ => none
  | .remoteReply _ _ _ _ _ => none
  | .remoteError _ _ _ => none
  | .rcopyFlagWrite _ _ _ => none
  | .collectiveComplete _ _ _ _ => none
  | .taskOrderPoint _ _ => none
  | .taskPlacement _ _ => none
  | .taskCompletion _ => none
  | .launchPickup _ _ => none
  | .watchdogExpiry _ _ => none
  | .handlerStallExpiry _ _ => none
  | .recoveryWaitTimeout _ => none
  | .partitionDrain _ => none
  | .tableWalk _ _ _ _ _ => none
  | .blockFaultTake _ => none
  | .vaultDrain _ => none
  | .vaultCopy _ => none
  | .vaultCopyFailure _ => none
  | .vaultFlip _ => none
  | .checkpointTimer _ => none
  | .checkpointPass _ => none
  | .rejoinAdmission _ => none
  | .throttleUpdate _ _ => none
  | .packageFault => none
  | .packageReset => none
  | .bringupPhase _ => none
  | .hostAccess _ _ => none
  | .backInvalidation _ _ => none
  | .hostSnoop _ _ _ => none
  | .hostLinkFailure => none
  | .hostLinkRestored => none
  | .stationFailure _ => none
  | .cachePowerUp _ => none
  | .pageFaultService _ _ => none
  | .correctedEventWindow _ => none
  | .join => none
  | .bar => none
  | .vwait => none
  | .hexit => none
  | .shsync => none
  | .yield => none
  | .splock => none
  | .spunlk => none
  | .eret => none

/-- The instruction keeps every rule of its encoding. -/
def WellFormed (i : Instr) : Bool := i.check.isNone

end Sys2Proof
end

