-- ==== Sys2Proof/Decode.lean ====
section
/-!
DEFINITION. The decoder (R145 to R155): total on words and on bytes, refusing by name; and the
encoder, written from the same formats.
-/
namespace Sys2Proof

/-! ## Formats of control words (R146) -/

def Ctl.op (w : Ctl) : BitVec 6 := w.extractLsb' 26 6
def Ctl.d (w : Ctl) : Reg := w.extractLsb' 21 5
def Ctl.a (w : Ctl) : Reg := w.extractLsb' 16 5
def Ctl.b (w : Ctl) : Reg := w.extractLsb' 11 5
def Ctl.fn (w : Ctl) : BitVec 11 := w.extractLsb' 0 11
def Ctl.imm16 (w : Ctl) : BitVec 16 := w.extractLsb' 0 16
def Ctl.imm21 (w : Ctl) : BitVec 21 := w.extractLsb' 0 21
def Ctl.off26 (w : Ctl) : BitVec 26 := w.extractLsb' 0 26

/-- R format. -/
def encR (op : BitVec 6) (d a b : Reg) (fn : BitVec 11) : Ctl := op ++ d ++ a ++ b ++ fn
/-- I, S and B formats: two register fields and 16 bits. -/
def encI (op : BitVec 6) (d a : Reg) (imm : BitVec 16) : Ctl := op ++ d ++ a ++ imm
/-- J format. -/
def encJ (op : BitVec 6) (off : BitVec 26) : Ctl := op ++ off
/-- L format. -/
def encL (op : BitVec 6) (d : Reg) (imm : BitVec 21) : Ctl := op ++ d ++ imm

/-- The instruction when the condition holds, otherwise the named refusal. -/
def ifOk (c : Bool) (r : Reject) (i : Instr) : Except Reject Instr := if c then .ok i else .error r

/-- The ALU opcode 0x01 (R147, R166). -/
def parseAlu (w : Ctl) : Except Reject Instr :=
  let d := w.d
  let a := w.a
  let b := w.b
  let fn := w.fn
  let sd := fn.getLsbD 10
  let sa := fn.getLsbD 9
  let sb := fn.getLsbD 8
  let wd := fn.extractLsb' 6 2
  let un := b == 0 && !sb
  match (fn.extractLsb' 0 6).toNat with
  | 0x00 => ifOk (wd == 0) .unusedField (.add d a b sd sa sb)
  | 0x01 => ifOk (wd == 0) .unusedField (.sub d a b sd sa sb)
  | 0x02 => ifOk (wd == 0) .unusedField (.and_ d a b sd sa sb)
  | 0x03 => ifOk (wd == 0) .unusedField (.or_ d a b sd sa sb)
  | 0x04 => ifOk (wd == 0) .unusedField (.xor d a b sd sa sb)
  | 0x05 => ifOk (wd == 0) .unusedField (.andn d a b sd sa sb)
  | 0x06 => ifOk (wd == 0) .unusedField (.shl d a b sd sa sb)
  | 0x07 => ifOk (wd == 0) .unusedField (.shr d a b sd sa sb)
  | 0x08 => ifOk (wd == 0) .unusedField (.sar d a b sd sa sb)
  | 0x09 => ifOk (wd == 0) .unusedField (.rol d a b sd sa sb)
  | 0x0A => ifOk (wd == 0) .unusedField (.mul d a b sd sa sb)
  | 0x0B => ifOk (wd == 0) .unusedField (.mulh d a b sd sa sb)
  | 0x0C => ifOk (wd == 0) .unusedField (.mulhn d a b sd sa sb)
  | 0x0D => ifOk (wd == 0) .unusedField (.div d a b sd sa sb)
  | 0x0E => ifOk (wd == 0) .unusedField (.divn d a b sd sa sb)
  | 0x0F => ifOk (wd == 0) .unusedField (.rem d a b sd sa sb)
  | 0x10 => ifOk (wd == 0) .unusedField (.remn d a b sd sa sb)
  | 0x11 => ifOk (wd == 0) .unusedField (.min d a b sd sa sb)
  | 0x12 => ifOk (wd == 0) .unusedField (.max d a b sd sa sb)
  | 0x13 => ifOk (wd == 0) .unusedField (.minn d a b sd sa sb)
  | 0x14 => ifOk (wd == 0) .unusedField (.maxn d a b sd sa sb)
  | 0x15 => ifOk (wd == 0) .unusedField (.cmpeq d a b sd sa sb)
  | 0x16 => ifOk (wd == 0) .unusedField (.cmplt d a b sd sa sb)
  | 0x17 => ifOk (wd == 0) .unusedField (.cmpltn d a b sd sa sb)
  | 0x18 => ifOk (un && wd == 0) .unusedField (.clz d a sd sa)
  | 0x19 => ifOk (un && wd == 0) .unusedField (.ctz d a sd sa)
  | 0x1A => ifOk (un && wd == 0) .unusedField (.popc d a sd sa)
  | 0x1B => ifOk (un && wd == 0) .unusedField (.bswap d a sd sa)
  | 0x1C => ifOk un .unusedField (.sext d a sd sa wd)
  | 0x1D => ifOk un .unusedField (.zext d a sd sa wd)
  | _ => .error .selector

/-- The AMO family (R173). -/
def parseAmo (w : Ctl) : Except Reject Instr :=
  let s := w.fn.extractLsb' 0 3
  let ok := w.fn.extractLsb' 7 4 == 0
  match (w.fn.extractLsb' 3 4).toNat with
  | 0 => ifOk ok .unusedField (.amoadd w.d w.a w.b s)
  | 1 => ifOk ok .unusedField (.amoswp w.d w.a w.b s)
  | 2 => ifOk ok .unusedField (.amocas w.d w.a w.b s)
  | 3 => ifOk ok .unusedField (.amomin w.d w.a w.b s)
  | 4 => ifOk ok .unusedField (.amomax w.d w.a w.b s)
  | 5 => ifOk ok .unusedField (.amominn w.d w.a w.b s)
  | 6 => ifOk ok .unusedField (.amomaxn w.d w.a w.b s)
  | 7 => ifOk ok .unusedField (.amoand w.d w.a w.b s)
  | 8 => ifOk ok .unusedField (.amoor w.d w.a w.b s)
  | 9 => ifOk ok .unusedField (.amoxor w.d w.a w.b s)
  | _ => .error .selector

/-- The remote atomics (R250). -/
def parseRamo (w : Ctl) : Except Reject Instr :=
  let ok := w.fn.extractLsb' 7 4 == 0 && w.fn.extractLsb' 0 3 == 0
  match (w.fn.extractLsb' 3 4).toNat with
  | 0 => ifOk ok .unusedField (.ramoadd w.d w.a w.b)
  | 1 => ifOk ok .unusedField (.ramoswp w.d w.a w.b)
  | 2 => ifOk ok .unusedField (.ramocas w.d w.a w.b)
  | 3 => ifOk ok .unusedField (.ramomin w.d w.a w.b)
  | 4 => ifOk ok .unusedField (.ramomax w.d w.a w.b)
  | 5 => ifOk ok .unusedField (.ramominn w.d w.a w.b)
  | 6 => ifOk ok .unusedField (.ramomaxn w.d w.a w.b)
  | 7 => ifOk ok .unusedField (.ramoand w.d w.a w.b)
  | 8 => ifOk ok .unusedField (.ramoor w.d w.a w.b)
  | 9 => ifOk ok .unusedField (.ramoxor w.d w.a w.b)
  | _ => .error .selector

/-- The privileged opcode 0x3B (R330). -/
def parsePriv (w : Ctl) : Except Reject Instr :=
  let d := w.d
  let a := w.a
  let b := w.b
  let hi := w.fn.extractLsb' 6 5 == 0
  let p := w.fn.getLsbD 5
  let ok := hi && !p
  match (w.fn.extractLsb' 0 5).toNat with
  | 0x00 => ifOk (ok && b == 0) .unusedField (.getp d a)
  | 0x01 => ifOk (ok && d == 0) .unusedField (.setp a b)
  | 0x02 => ifOk (ok && d == 0 && a == 0 && b == 0) .unusedField .eret
  | 0x03 => ifOk (ok && d == 0) .unusedField (.tlbinv a b)
  | 0x04 => ifOk (ok && d == 0 && b == 0) .unusedField (.tlbinva a)
  | 0x05 => ifOk ok .unusedField (.ctxsave d a b)
  | 0x06 => ifOk ok .unusedField (.ctxld d a b)
  | 0x07 => ifOk (ok && d == 0 && b == 0) .unusedField (.qdrain a)
  | 0x08 => ifOk (ok && d == 0 && b == 0) .unusedField (.partrst a)
  | 0x09 => ifOk ok .unusedField (.cvault d a b)
  | 0x0A => ifOk (ok && d == 0 && b == 0) .unusedField (.cksync a)
  | 0x0B => ifOk (hi && b == 0) .unusedField (if p then .elrdPop d a else .elrd d a)
  | 0x0C => ifOk ok .unusedField (.hcall d a b)
  | 0x0D => ifOk (ok && a == 0 && b == 0) .unusedField (.wfe d)
  | _ => .error .selector

/-- The instruction that a control word holds by its opcode and selectors (R148, R149); its value
rules are those of `Instr.check`. -/
def parseCtl (w : Ctl) : Except Reject Instr :=
  let d := w.d
  let a := w.a
  let b := w.b
  let fn := w.fn
  let imm := w.imm16
  let o14 := imm.extractLsb' 2 14
  let sz := imm.extractLsb' 0 2
  let o15 := imm.extractLsb' 1 15
  let un := imm.getLsbD 0
  let shOk := imm.extractLsb' 6 10 == 0
  let n6 := imm.extractLsb' 0 6
  match w.op.toNat with
  | 0x00 => .error .alwaysIllegal
  | 0x01 => parseAlu w
  | 0x02 => .ok (.addi d a imm)
  | 0x03 => .ok (.andi d a imm)
  | 0x04 => .ok (.ori d a imm)
  | 0x05 => .ok (.xori d a imm)
  | 0x06 => ifOk shOk .fieldValue (.shli d a n6)
  | 0x07 => ifOk shOk .fieldValue (.shri d a n6)
  | 0x08 => ifOk shOk .fieldValue (.sari d a n6)
  | 0x09 => .ok (.cmplti d a imm)
  | 0x0A => .ok (.ldhi d w.imm21)
  | 0x0B => .ok (.addpc d w.imm21)
  | 0x10 =>
    match sz.toNat with
    | 0 => .ok (.ldb d a o14)
    | 1 => .ok (.ldh d a o14)
    | 2 => .ok (.ldw d a o14)
    | _ => .ok (.ldd d a o14)
  | 0x11 =>
    match sz.toNat with
    | 0 => .ok (.ldbn d a o14)
    | 1 => .ok (.ldhn d a o14)
    | 2 => .ok (.ldwn d a o14)
    | _ => .error .selector
  | 0x12 =>
    match sz.toNat with
    | 0 => .ok (.stb d a o14)
    | 1 => .ok (.sth d a o14)
    | 2 => .ok (.stw d a o14)
    | _ => .ok (.std d a o14)
  | 0x13 => .ok (.lds d a o14 sz)
  | 0x14 => .ok (.sts d a o14 sz)
  | 0x15 => ifOk (b == 0 && fn.extractLsb' 3 8 == 0) .unusedField (.lda d a (fn.extractLsb' 0 3))
  | 0x16 => ifOk (d == 0 && fn.extractLsb' 3 8 == 0) .unusedField (.stl a b (fn.extractLsb' 0 3))
  | 0x18 => parseAmo w
  | 0x1C => ifOk (!un) .fieldValue (.beq d a o15)
  | 0x1D => ifOk (!un) .fieldValue (.bne d a o15)
  | 0x1E => .ok (if un then .bltn d a o15 else .blt d a o15)
  | 0x1F => .ok (if un then .bgen d a o15 else .bge d a o15)
  | 0x20 => .ok (.jmp w.off26)
  | 0x21 => .ok (.call w.off26)
  | 0x22 => ifOk (d == 0 && b == 0 && fn == 0) .unusedField (.jr a)
  | 0x23 => ifOk (b == 0 && fn == 0) .unusedField (.callr d a)
  | 0x24 => .ok (.fork d a b fn)
  | 0x25 => .ok (.forki d a b fn)
  | 0x26 =>
    match fn.toNat with
    | 0 => ifOk (d == 0 && a == 0 && b == 0) .unusedField .join
    | 1 => ifOk (d == 0 && b == 0) .unusedField (.bsend a)
    | 2 => ifOk (d == 0 && a == 0 && b == 0) .unusedField .bar
    | 3 => ifOk (a == 0 && b == 0) .unusedField (.legid d)
    | _ => .error .selector
  | 0x28 => .ok (.vfetch w.off26)
  | 0x29 => ifOk (d == 0 && b == 0 && fn == 0) .unusedField (.vfetchx a)
  | 0x2A =>
    match fn.toNat with
    | 0 => ifOk (d == 0 && a == 0 && b == 0) .unusedField .vwait
    | 1 => ifOk (a == 0 && b == 0) .unusedField (.rdreply d)
    | _ => .error .selector
  | 0x2B => ifOk (fn == 0) .unusedField (.vset d a b)
  | 0x2C => ifOk (d == 0 && fn.extractLsb' 9 2 == 0) .unusedField (.send a b (fn.extractLsb' 3 6) (fn.extractLsb' 0 3))
  | 0x2D =>
    match fn.toNat with
    | 0 => ifOk (d == 0) .unusedField (.chset a b)
    | 1 => ifOk (d == 0 && b == 0) .unusedField (.chblk a)
    | 2 => ifOk (d == 0 && b == 0) .unusedField (.chunb a)
    | 5 => ifOk (d == 0) .unusedField (.chblkRem a b)
    | 6 => ifOk (d == 0) .unusedField (.chunbRem a b)
    | _ => .error .selector
  | 0x2E =>
    match fn.toNat with
    | 0 => ifOk (b == 0) .unusedField (.tspawn d a)
    | 1 => ifOk (d == 0 && b == 0) .unusedField (.twait a)
    | _ => .error .selector
  | 0x2F => ifOk (d == 0 && a == 0 && b == 0 && fn == 0) .unusedField .hexit
  | 0x30 =>
    match fn.toNat with
    | 0 => ifOk (b == 0) .unusedField (.rtcopy d a)
    | 1 => ifOk (b == 0) .unusedField (.rtgath d a)
    | 2 => ifOk (d == 0 && b == 0) .unusedField (.rtwait a)
    | _ => .error .selector
  | 0x31 =>
    ifOk (b == 0 && fn.extractLsb' 3 8 == 0) .unusedField
      (if fn.getLsbD 2 then .rstore d a (fn.extractLsb' 0 2) else .rload d a (fn.extractLsb' 0 2))
  | 0x32 => parseRamo w
  | 0x33 =>
    let s := fn.extractLsb' 2 3
    let hi := fn.extractLsb' 5 6 == 0
    match (fn.extractLsb' 0 2).toNat with
    | 0 => ifOk (hi && s == 0 && d == 0 && b == 0) .unusedField (.rcopy a)
    | 1 => ifOk (hi && b == 0) .unusedField (.coll d a s)
    | 2 => ifOk (hi && d == 0 && b == 0) .unusedField (.collwait a s)
    | _ => .error .selector
  | 0x34 => ifOk (d == 0 && a == 0 && b == 0 && fn.extractLsb' 3 8 == 0) .unusedField (.fence (fn.extractLsb' 0 3))
  | 0x35 => ifOk (fn == 0) .unusedField (.monwait d a b)
  | 0x36 =>
    let z := d == 0 && a == 0 && b == 0
    match fn.toNat with
    | 0 => ifOk z .unusedField .shsync
    | 1 => ifOk z .unusedField .yield
    | 2 => ifOk z .unusedField .splock
    | 3 => ifOk z .unusedField .spunlk
    | _ => .error .selector
  | 0x38 => ifOk (a == 0 && imm.extractLsb' 12 4 == 0) .unusedField (.gets d (imm.extractLsb' 0 12))
  | 0x39 => ifOk (a == 0 && imm.extractLsb' 12 4 == 0) .unusedField (.sets d (imm.extractLsb' 0 12))
  | 0x3A =>
    match (fn.extractLsb' 9 2).toNat with
    | 0 => ifOk (b == 0 && fn.extractLsb' 0 9 == 0) .unusedField (.locq d a)
    | 1 => ifOk (d == 0 && a == 0 && b == 0 && !fn.getLsbD 8) .unusedField (.trap (fn.extractLsb' 0 8))
    | 2 => ifOk (d == 0 && a == 0 && b == 0 && !fn.getLsbD 8) .unusedField (.break_ (fn.extractLsb' 0 8))
    | _ => .error .selector
  | 0x3B => parsePriv w
  | 0x3F => .error .alwaysIllegal
  | _ => .error .reservedOpcode

/-- The instruction of a control word, or why it is none (R154, R155). -/
def decodeCtl (w : Ctl) : Except Reject Instr :=
  match parseCtl w with
  | .error r => .error r
  | .ok i =>
    match i.check with
    | some r => .error r
    | none => .ok i

/-! ## Block words (R150) -/

/-- The fields of a block word. -/
def Blk.fields (w : Blk) : BlockFields where
  vd := w.extractLsb' 51 5
  va := w.extractLsb' 46 5
  vb := w.extractLsb' 41 5
  vc := w.extractLsb' 36 5
  pm := w.extractLsb' 31 5
  zm := w.getLsbD 30
  ty := w.extractLsb' 25 5
  sh := w.extractLsb' 23 2
  rnd := w.extractLsb' 20 3
  pinv := w.getLsbD 19
  slice := w.extractLsb' 9 10
  func := w.extractLsb' 0 9

def Blk.op (w : Blk) : Byte := w.extractLsb' 56 8

/-- The block word with this opcode and these fields. -/
def encB (op : Byte) (f : BlockFields) : Blk :=
  op ++ f.vd ++ f.va ++ f.vb ++ f.vc ++ f.pm ++ BitVec.ofBool f.zm ++ f.ty ++ f.sh ++ f.rnd ++
    BitVec.ofBool f.pinv ++ f.slice ++ f.func

/-- A transfer of scale bytes (R223, R226): type E8M0 with FUNC[4] set. -/
def BlockFields.scl (f : BlockFields) : Bool := f.ty == 18 && f.func.getLsbD 4

/-- The instruction that a block word holds by its opcode and selectors (R153). -/
def parseBlk (w : Blk) : Except Reject Instr :=
  let f := w.fields
  match w.op.toNat with
  | 0x00 => .error .alwaysIllegal
  | 0x01 => .ok (.vstop f)
  | 0x02 => .ok (if f.func.getLsbD 0 then .vloopSet f else .vloop f)
  | 0x03 => .ok (.vregion f)
  | 0x04 => .ok (.vreply f)
  | 0x05 => .ok (.vnop f)
  | 0x10 => .ok (.vadd f)
  | 0x11 => .ok (.vsub f)
  | 0x12 => .ok (.vmul f)
  | 0x13 => .ok (.vmulh f)
  | 0x14 => .ok (.vmadd f)
  | 0x15 => .ok (.vdiv f)
  | 0x16 => .ok (.vmin f)
  | 0x17 => .ok (.vmax f)
  | 0x18 => .ok (.vand f)
  | 0x19 => .ok (.vor f)
  | 0x1A => .ok (.vxor f)
  | 0x1B => .ok (.vshl f)
  | 0x1C => .ok (.vshr f)
  | 0x1D => .ok (.vsar f)
  | 0x1E => .ok (.vaddc f)
  | 0x1F => .ok (.vsubb f)
  | 0x20 => .ok (.vabsd f)
  | 0x21 => .ok (.vadds f)
  | 0x22 => .ok (.vsubs f)
  | 0x23 => .ok (.vcmp f)
  | 0x24 => .ok (.vsel f)
  | 0x25 => .ok (.vmov f)
  | 0x26 => .ok (.vbcast f)
  | 0x27 => .ok (.viota f)
  | 0x40 => .ok (.vfadd f)
  | 0x41 => .ok (.vfsub f)
  | 0x42 => .ok (.vfmul f)
  | 0x43 => .ok (.vfma f)
  | 0x44 => .ok (.vfnma f)
  | 0x45 => .ok (.vfdiv f)
  | 0x46 => .ok (.vfsqrt f)
  | 0x47 => .ok (.vfmin f)
  | 0x48 => .ok (.vfmax f)
  | 0x49 => .ok (.vfsgn f)
  | 0x4A => .ok (.vfclass f)
  | 0x4B => .ok (.vexp2 f)
  | 0x4C => .ok (.vlog2 f)
  | 0x4D => .ok (.vrcp f)
  | 0x70 => .ok (.vcvt f)
  | 0x71 => .ok (.vquant f)
  | 0x72 => .ok (.vdeq f)
  | 0x80 => .ok (.pand f)
  | 0x81 => .ok (.por f)
  | 0x82 => .ok (.pxor f)
  | 0x83 => .ok (.pnot f)
  | 0x84 => .ok (.pmov f)
  | 0x85 => .ok (.pany f)
  | 0x86 => .ok (.pcnt f)
  | 0x87 => .ok (.pfirst f)
  | 0x88 => .ok (.pbrkb f)
  | 0x89 => .ok (.pbrka f)
  | 0x8A => .ok (.pshl f)
  | 0x90 => .ok (.vperm f)
  | 0x91 => .ok (.vslide f)
  | 0x92 => .ok (.vxpose f)
  | 0x93 => .ok (.vextr f)
  | 0x94 => .ok (.vcompr f)
  | 0x95 => .ok (.vexpnd f)
  | 0x96 => .ok (.xsend f)
  | 0x97 => .ok (.xrecv f)
  | 0xA0 => .ok (.vredsum f)
  | 0xA1 => .ok (.vredosum f)
  | 0xA2 => .ok (.vredmin f)
  | 0xA3 => .ok (.vredmax f)
  | 0xA4 => .ok (.vredand f)
  | 0xA5 => .ok (.vredor f)
  | 0xB0 => .ok (if f.scl then .vldScl f else .vld f)
  | 0xB1 => .ok (.vldx f)
  | 0xB2 => .ok (if f.scl then .vstScl f else .vst f)
  | 0xB3 => .ok (.vstx f)
  | 0xB4 => .ok (.vldff f)
  | 0xB5 => .ok (if f.scl then .vldsScl f else .vlds f)
  | 0xB6 => .ok (if f.scl then .vstsScl f else .vsts f)
  | 0xB7 => .ok (.vldseg f)
  | 0xB8 => .ok (.vstseg f)
  | 0xB9 => .ok (.vscadd f)
  | 0xBA => .ok (if f.func.getLsbD 3 then .lsyncScoped f else .lsync f)
  | 0xD0 => .ok (.mshape f)
  | 0xD1 => .ok (.mtld f)
  | 0xD2 => .ok (if f.func.getLsbD 1 then .mtldmScl f else .mtldm f)
  | 0xD3 => .ok (if f.func.getLsbD 1 then .mtstScl f else .mtst f)
  | 0xD4 =>
    match (f.func.extractLsb' 0 2).toNat with
    | 0 => .ok (.mmaIp f)
    | 1 => .ok (.mmaOp f)
    | 2 => .ok (.mmaRw f)
    | _ => .ok (.mmaRwSp f)
  | 0xD5 => .ok (.maccz f)
  | 0xD6 => .ok (.maccrd f)
  | 0xD7 => .ok (.maccwr f)
  | 0xD8 => .ok (.mmrd f)
  | 0xD9 => .ok (.vmerge f)
  | 0xDA => .ok (.vtopk f)
  | 0xDB => .ok (.vsortk f)
  | 0xDC => .ok (.vcsrx f)
  | 0xFF => .error .alwaysIllegal
  | _ => .error .reservedOpcode

/-- The instruction of a block word, or why it is none (R154, R155). -/
def decodeBlk (w : Blk) : Except Reject Instr :=
  match parseBlk w with
  | .error r => .error r
  | .ok i =>
    match i.check with
    | some r => .error r
    | none => .ok i

/-! ## Bytes (R5, R145) -/

/-- The little-endian number that a list of bytes holds. -/
def leNat : List Byte → Nat
  | [] => 0
  | b :: l => b.toNat + 256 * leNat l

/-- The `n` lowest bytes of a number, little-endian. -/
def leBytes : Nat → Nat → List Byte
  | 0, _ => []
  | n + 1, x => BitVec.ofNat 8 x :: leBytes n (x / 256)

/-- The instruction in the four bytes of a control word; none beyond them is read. -/
def decodeCtlBytes (bs : List Byte) : Except Reject Instr := decodeCtl (BitVec.ofNat 32 (leNat (bs.take 4)))

/-- The instruction in the eight bytes of a block word. -/
def decodeBlkBytes (bs : List Byte) : Except Reject Instr := decodeBlk (BitVec.ofNat 64 (leNat (bs.take 8)))

/-- The decoder on a word whose bits are numbered as the opcode table numbers them: 32 bits are a
control word, 64 bits a block word; a row without an encoding has no word. -/
def decodeTableWord (nbits w : Nat) : Option Instr :=
  let r :=
    if nbits = 64 then decodeBlkBytes (leBytes 8 w)
    else if nbits = 32 then decodeCtlBytes (leBytes 4 w)
    else .error .reservedOpcode
  match r with
  | .ok i => some i
  | .error _ => none

/-! ## The encoder -/

/-- An encoded word. A step of the table that is no instruction word has none. -/
inductive Encoded where
  | ctl (w : Ctl)
  | blk (w : Blk)
  | none
  deriving DecidableEq, Repr

/-- The fn field of an ALU word (R147). -/
def aluFn (sd sa sb : Bool) (w : BitVec 2) (op : BitVec 6) : BitVec 11 :=
  BitVec.ofBool sd ++ BitVec.ofBool sa ++ BitVec.ofBool sb ++ w ++ op

/-- The word of an instruction. -/
def encode : Instr → Encoded
  | .add xd xa xb sd sa sb => .ctl (encR 1 xd xa xb (aluFn sd sa sb 0 0x00#6))
  | .sub xd xa xb sd sa sb => .ctl (encR 1 xd xa xb (aluFn sd sa sb 0 0x01#6))
  | .and_ xd xa xb sd sa sb => .ctl (encR 1 xd xa xb (aluFn sd sa sb 0 0x02#6))
  | .or_ xd xa xb sd sa sb => .ctl (encR 1 xd xa xb (aluFn sd sa sb 0 0x03#6))
  | .xor xd xa xb sd sa sb => .ctl (encR 1 xd xa xb (aluFn sd sa sb 0 0x04#6))
  | .andn xd xa xb sd sa sb => .ctl (encR 1 xd xa xb (aluFn sd sa sb 0 0x05#6))
  | .shl xd xa xb sd sa sb => .ctl (encR 1 xd xa xb (aluFn sd sa sb 0 0x06#6))
  | .shr xd xa xb sd sa sb => .ctl (encR 1 xd xa xb (aluFn sd sa sb 0 0x07#6))
  | .sar xd xa xb sd sa sb => .ctl (encR 1 xd xa xb (aluFn sd sa sb 0 0x08#6))
  | .rol xd xa xb sd sa sb => .ctl (encR 1 xd xa xb (aluFn sd sa sb 0 0x09#6))
  | .mul xd xa xb sd sa sb => .ctl (encR 1 xd xa xb (aluFn sd sa sb 0 0x0A#6))
  | .mulh xd xa xb sd sa sb => .ctl (encR 1 xd xa xb (aluFn sd sa sb 0 0x0B#6))
  | .mulhn xd xa xb sd sa sb => .ctl (encR 1 xd xa xb (aluFn sd sa sb 0 0x0C#6))
  | .div xd xa xb sd sa sb => .ctl (encR 1 xd xa xb (aluFn sd sa sb 0 0x0D#6))
  | .divn xd xa xb sd sa sb => .ctl (encR 1 xd xa xb (aluFn sd sa sb 0 0x0E#6))
  | .rem xd xa xb sd sa sb => .ctl (encR 1 xd xa xb (aluFn sd sa sb 0 0x0F#6))
  | .remn xd xa xb sd sa sb => .ctl (encR 1 xd xa xb (aluFn sd sa sb 0 0x10#6))
  | .min xd xa xb sd sa sb => .ctl (encR 1 xd xa xb (aluFn sd sa sb 0 0x11#6))
  | .max xd xa xb sd sa sb => .ctl (encR 1 xd xa xb (aluFn sd sa sb 0 0x12#6))
  | .minn xd xa xb sd sa sb => .ctl (encR 1 xd xa xb (aluFn sd sa sb 0 0x13#6))
  | .maxn xd xa xb sd sa sb => .ctl (encR 1 xd xa xb (aluFn sd sa sb 0 0x14#6))
  | .cmpeq xd xa xb sd sa sb => .ctl (encR 1 xd xa xb (aluFn sd sa sb 0 0x15#6))
  | .cmplt xd xa xb sd sa sb => .ctl (encR 1 xd xa xb (aluFn sd sa sb 0 0x16#6))
  | .cmpltn xd xa xb sd sa sb => .ctl (encR 1 xd xa xb (aluFn sd sa sb 0 0x17#6))
  | .clz xd xa sd sa => .ctl (encR 1 xd xa 0 (aluFn sd sa false 0 0x18#6))
  | .ctz xd xa sd sa => .ctl (encR 1 xd xa 0 (aluFn sd sa false 0 0x19#6))
  | .popc xd xa sd sa => .ctl (encR 1 xd xa 0 (aluFn sd sa false 0 0x1A#6))
  | .bswap xd xa sd sa => .ctl (encR 1 xd xa 0 (aluFn sd sa false 0 0x1B#6))
  | .sext xd xa sd sa w => .ctl (encR 1 xd xa 0 (aluFn sd sa false w 0x1C#6))
  | .zext xd xa sd sa w => .ctl (encR 1 xd xa 0 (aluFn sd sa false w 0x1D#6))
  | .addi xd xa imm => .ctl (encI 0x02 xd xa imm)
  | .andi xd xa imm => .ctl (encI 0x03 xd xa imm)
  | .ori xd xa imm => .ctl (encI 0x04 xd xa imm)
  | .xori xd xa imm => .ctl (encI 0x05 xd xa imm)
  | .shli xd xa n => .ctl (encI 0x06 xd xa (0#10 ++ n))
  | .shri xd xa n => .ctl (encI 0x07 xd xa (0#10 ++ n))
  | .sari xd xa n => .ctl (encI 0x08 xd xa (0#10 ++ n))
  | .cmplti xd xa imm => .ctl (encI 0x09 xd xa imm)
  | .ldhi xd imm => .ctl (encL 0x0A xd imm)
  | .addpc xd imm => .ctl (encL 0x0B xd imm)
  | .ldb xd xa off => .ctl (encI 0x10 xd xa (off ++ 0#2))
  | .ldh xd xa off => .ctl (encI 0x10 xd xa (off ++ 1#2))
  | .ldw xd xa off => .ctl (encI 0x10 xd xa (off ++ 2#2))
  | .ldd xd xa off => .ctl (encI 0x10 xd xa (off ++ 3#2))
  | .ldbn xd xa off => .ctl (encI 0x11 xd xa (off ++ 0#2))
  | .ldhn xd xa off => .ctl (encI 0x11 xd xa (off ++ 1#2))
  | .ldwn xd xa off => .ctl (encI 0x11 xd xa (off ++ 2#2))
  | .stb xs xa off => .ctl (encI 0x12 xs xa (off ++ 0#2))
  | .sth xs xa off => .ctl (encI 0x12 xs xa (off ++ 1#2))
  | .stw xs xa off => .ctl (encI 0x12 xs xa (off ++ 2#2))
  | .std xs xa off => .ctl (encI 0x12 xs xa (off ++ 3#2))
  | .lds xd xa off sz => .ctl (encI 0x13 xd xa (off ++ sz))
  | .sts xs xa off sz => .ctl (encI 0x14 xs xa (off ++ sz))
  | .lda xd xa scope => .ctl (encR 0x15 xd xa 0 (0#8 ++ scope))
  | .stl xa xb scope => .ctl (encR 0x16 0 xa xb (0#8 ++ scope))
  | .amoadd xd xa xb scope => .ctl (encR 0x18 xd xa xb (0#4 ++ 0#4 ++ scope))
  | .amoswp xd xa xb scope => .ctl (encR 0x18 xd xa xb (0#4 ++ 1#4 ++ scope))
  | .amocas xd xa xb scope => .ctl (encR 0x18 xd xa xb (0#4 ++ 2#4 ++ scope))
  | .amomin xd xa xb scope => .ctl (encR 0x18 xd xa xb (0#4 ++ 3#4 ++ scope))
  | .amomax xd xa xb scope => .ctl (encR 0x18 xd xa xb (0#4 ++ 4#4 ++ scope))
  | .amominn xd xa xb scope => .ctl (encR 0x18 xd xa xb (0#4 ++ 5#4 ++ scope))
  | .amomaxn xd xa xb scope => .ctl (encR 0x18 xd xa xb (0#4 ++ 6#4 ++ scope))
  | .amoand xd xa xb scope => .ctl (encR 0x18 xd xa xb (0#4 ++ 7#4 ++ scope))
  | .amoor xd xa xb scope => .ctl (encR 0x18 xd xa xb (0#4 ++ 8#4 ++ scope))
  | .amoxor xd xa xb scope => .ctl (encR 0x18 xd xa xb (0#4 ++ 9#4 ++ scope))
  | .beq xa xb off => .ctl (encI 0x1C xa xb (off ++ 0#1))
  | .bne xa xb off => .ctl (encI 0x1D xa xb (off ++ 0#1))
  | .blt xa xb off => .ctl (encI 0x1E xa xb (off ++ 0#1))
  | .bltn xa xb off => .ctl (encI 0x1E xa xb (off ++ 1#1))
  | .bge xa xb off => .ctl (encI 0x1F xa xb (off ++ 0#1))
  | .bgen xa xb off => .ctl (encI 0x1F xa xb (off ++ 1#1))
  | .jmp off => .ctl (encJ 0x20 off)
  | .call off => .ctl (encJ 0x21 off)
  | .jr xa => .ctl (encR 0x22 0 xa 0 0x0#11)
  | .callr xd xa => .ctl (encR 0x23 xd xa 0 0x0#11)
  | .fork xd xa xb fn => .ctl (encR 0x24 xd xa xb fn)
  | .forki xd xa xb fn => .ctl (encR 0x25 xd xa xb fn)
  | .bsend xa => .ctl (encR 0x26 0 xa 0 0x1#11)
  | .legid xd => .ctl (encR 0x26 xd 0 0 0x3#11)
  | .vfetch off => .ctl (encJ 0x28 off)
  | .vfetchx xa => .ctl (encR 0x29 0 xa 0 0x0#11)
  | .rdreply xd => .ctl (encR 0x2A xd 0 0 0x1#11)
  | .vset xd xa xb => .ctl (encR 0x2B xd xa xb 0x0#11)
  | .send xa xb chan n => .ctl (encR 0x2C 0 xa xb (0#2 ++ chan ++ n))
  | .chset xa xb => .ctl (encR 0x2D 0 xa xb 0x0#11)
  | .chblk xa => .ctl (encR 0x2D 0 xa 0 0x1#11)
  | .chblkRem xa xb => .ctl (encR 0x2D 0 xa xb 0x5#11)
  | .chunb xa => .ctl (encR 0x2D 0 xa 0 0x2#11)
  | .chunbRem xa xb => .ctl (encR 0x2D 0 xa xb 0x6#11)
  | .tspawn xd xa => .ctl (encR 0x2E xd xa 0 0x0#11)
  | .twait xa => .ctl (encR 0x2E 0 xa 0 0x1#11)
  | .rtcopy xd xa => .ctl (encR 0x30 xd xa 0 0x0#11)
  | .rtgath xd xa => .ctl (encR 0x30 xd xa 0 0x1#11)
  | .rtwait xa => .ctl (encR 0x30 0 xa 0 0x2#11)
  | .rload xd xa sz => .ctl (encR 0x31 xd xa 0 (0#9 ++ sz))
  | .rstore xd xa sz => .ctl (encR 0x31 xd xa 0 (0#8 ++ 1#1 ++ sz))
  | .ramoadd xd xa xb => .ctl (encR 0x32 xd xa xb (0#4 ++ 0#4 ++ 0#3))
  | .ramoswp xd xa xb => .ctl (encR 0x32 xd xa xb (0#4 ++ 1#4 ++ 0#3))
  | .ramocas xd xa xb => .ctl (encR 0x32 xd xa xb (0#4 ++ 2#4 ++ 0#3))
  | .ramomin xd xa xb => .ctl (encR 0x32 xd xa xb (0#4 ++ 3#4 ++ 0#3))
  | .ramomax xd xa xb => .ctl (encR 0x32 xd xa xb (0#4 ++ 4#4 ++ 0#3))
  | .ramominn xd xa xb => .ctl (encR 0x32 xd xa xb (0#4 ++ 5#4 ++ 0#3))
  | .ramomaxn xd xa xb => .ctl (encR 0x32 xd xa xb (0#4 ++ 6#4 ++ 0#3))
  | .ramoand xd xa xb => .ctl (encR 0x32 xd xa xb (0#4 ++ 7#4 ++ 0#3))
  | .ramoor xd xa xb => .ctl (encR 0x32 xd xa xb (0#4 ++ 8#4 ++ 0#3))
  | .ramoxor xd xa xb => .ctl (encR 0x32 xd xa xb (0#4 ++ 9#4 ++ 0#3))
  | .rcopy xa => .ctl (encR 0x33 0 xa 0 0x0#11)
  | .coll xd xa scope => .ctl (encR 0x33 xd xa 0 (0#6 ++ scope ++ 1#2))
  | .collwait xa scope => .ctl (encR 0x33 0 xa 0 (0#6 ++ scope ++ 2#2))
  | .fence scope => .ctl (encR 0x34 0 0 0 (0#8 ++ scope))
  | .monwait xd xa xb => .ctl (encR 0x35 xd xa xb 0x0#11)
  | .gets xd num => .ctl (encI 0x38 xd 0 (0#4 ++ num))
  | .sets xs num => .ctl (encI 0x39 xs 0 (0#4 ++ num))
  | .locq xd xa => .ctl (encR 0x3A xd xa 0 0x0#11)
  | .trap code => .ctl (encR 0x3A 0 0 0 (1#2 ++ 0#1 ++ code))
  | .break_ code => .ctl (encR 0x3A 0 0 0 (2#2 ++ 0#1 ++ code))
  | .getp xd xa => .ctl (encR 0x3B xd xa 0 0x0#11)
  | .setp xa xb => .ctl (encR 0x3B 0 xa xb 0x1#11)
  | .tlbinv xa xb => .ctl (encR 0x3B 0 xa xb 0x3#11)
  | .tlbinva xa => .ctl (encR 0x3B 0 xa 0 0x4#11)
  | .ctxsave xd xa xb => .ctl (encR 0x3B xd xa xb 0x5#11)
  | .ctxld xd xa xb => .ctl (encR 0x3B xd xa xb 0x6#11)
  | .qdrain xa => .ctl (encR 0x3B 0 xa 0 0x7#11)
  | .partrst xa => .ctl (encR 0x3B 0 xa 0 0x8#11)
  | .cvault xd xa xb => .ctl (encR 0x3B xd xa xb 0x9#11)
  | .cksync xa => .ctl (encR 0x3B 0 xa 0 0xA#11)
  | .elrd xd xa => .ctl (encR 0x3B xd xa 0 0xB#11)
  | .elrdPop xd xa => .ctl (encR 0x3B xd xa 0 0x2B#11)
  | .hcall xd xa xb => .ctl (encR 0x3B xd xa xb 0xC#11)
  | .wfe xd => .ctl (encR 0x3B xd 0 0 0xD#11)
  | .ringownWrite _ _ => .none
  | .astagWrite _ _ => .none
  | .illegalEncoding _ => .none
  | .vstop f => .blk (encB 0x01#8 f)
  | .vnop f => .blk (encB 0x05#8 f)
  | .vloopSet f => .blk (encB 0x02#8 f)
  | .vloop f => .blk (encB 0x02#8 f)
  | .vregion f => .blk (encB 0x03#8 f)
  | .vreply f => .blk (encB 0x04#8 f)
  | .vadd f => .blk (encB 0x10#8 f)
  | .vsub f => .blk (encB 0x11#8 f)
  | .vmul f => .blk (encB 0x12#8 f)
  | .vmulh f => .blk (encB 0x13#8 f)
  | .vmadd f => .blk (encB 0x14#8 f)
  | .vdiv f => .blk (encB 0x15#8 f)
  | .vmin f => .blk (encB 0x16#8 f)
  | .vmax f => .blk (encB 0x17#8 f)
  | .vand f => .blk (encB 0x18#8 f)
  | .vor f => .blk (encB 0x19#8 f)
  | .vxor f => .blk (encB 0x1A#8 f)
  | .vshl f => .blk (encB 0x1B#8 f)
  | .vshr f => .blk (encB 0x1C#8 f)
  | .vsar f => .blk (encB 0x1D#8 f)
  | .vaddc f => .blk (encB 0x1E#8 f)
  | .vsubb f => .blk (encB 0x1F#8 f)
  | .vabsd f => .blk (encB 0x20#8 f)
  | .vadds f => .blk (encB 0x21#8 f)
  | .vsubs f => .blk (encB 0x22#8 f)
  | .vcmp f => .blk (encB 0x23#8 f)
  | .vsel f => .blk (encB 0x24#8 f)
  | .vmov f => .blk (encB 0x25#8 f)
  | .vbcast f => .blk (encB 0x26#8 f)
  | .viota f => .blk (encB 0x27#8 f)
  | .vfadd f => .blk (encB 0x40#8 f)
  | .vfsub f => .blk (encB 0x41#8 f)
  | .vfmul f => .blk (encB 0x42#8 f)
  | .vfma f => .blk (encB 0x43#8 f)
  | .vfnma f => .blk (encB 0x44#8 f)
  | .vfdiv f => .blk (encB 0x45#8 f)
  | .vfsqrt f => .blk (encB 0x46#8 f)
  | .vfmin f => .blk (encB 0x47#8 f)
  | .vfmax f => .blk (encB 0x48#8 f)
  | .vfsgn f => .blk (encB 0x49#8 f)
  | .vfclass f => .blk (encB 0x4A#8 f)
  | .vexp2 f => .blk (encB 0x4B#8 f)
  | .vlog2 f => .blk (encB 0x4C#8 f)
  | .vrcp f => .blk (encB 0x4D#8 f)
  | .vcvt f => .blk (encB 0x70#8 f)
  | .vquant f => .blk (encB 0x71#8 f)
  | .vdeq f => .blk (encB 0x72#8 f)
  | .pand f => .blk (encB 0x80#8 f)
  | .por f => .blk (encB 0x81#8 f)
  | .pxor f => .blk (encB 0x82#8 f)
  | .pnot f => .blk (encB 0x83#8 f)
  | .pmov f => .blk (encB 0x84#8 f)
  | .pany f => .blk (encB 0x85#8 f)
  | .pcnt f => .blk (encB 0x86#8 f)
  | .pfirst f => .blk (encB 0x87#8 f)
  | .pbrkb f => .blk (encB 0x88#8 f)
  | .pbrka f => .blk (encB 0x89#8 f)
  | .pshl f => .blk (encB 0x8A#8 f)
  | .vperm f => .blk (encB 0x90#8 f)
  | .vslide f => .blk (encB 0x91#8 f)
  | .vxpose f => .blk (encB 0x92#8 f)
  | .vextr f => .blk (encB 0x93#8 f)
  | .vcompr f => .blk (encB 0x94#8 f)
  | .vexpnd f => .blk (encB 0x95#8 f)
  | .xsend f => .blk (encB 0x96#8 f)
  | .xrecv f => .blk (encB 0x97#8 f)
  | .vredsum f => .blk (encB 0xA0#8 f)
  | .vredosum f => .blk (encB 0xA1#8 f)
  | .vredmin f => .blk (encB 0xA2#8 f)
  | .vredmax f => .blk (encB 0xA3#8 f)
  | .vredand f => .blk (encB 0xA4#8 f)
  | .vredor f => .blk (encB 0xA5#8 f)
  | .vld f => .blk (encB 0xB0#8 f)
  | .vldScl f => .blk (encB 0xB0#8 f)
  | .vst f => .blk (encB 0xB2#8 f)
  | .vstScl f => .blk (encB 0xB2#8 f)
  | .vldx f => .blk (encB 0xB1#8 f)
  | .vstx f => .blk (encB 0xB3#8 f)
  | .vldff f => .blk (encB 0xB4#8 f)
  | .vlds f => .blk (encB 0xB5#8 f)
  | .vldsScl f => .blk (encB 0xB5#8 f)
  | .vsts f => .blk (encB 0xB6#8 f)
  | .vstsScl f => .blk (encB 0xB6#8 f)
  | .vldseg f => .blk (encB 0xB7#8 f)
  | .vstseg f => .blk (encB 0xB8#8 f)
  | .vscadd f => .blk (encB 0xB9#8 f)
  | .lsync f => .blk (encB 0xBA#8 f)
  | .lsyncScoped f => .blk (encB 0xBA#8 f)
  | .mshape f => .blk (encB 0xD0#8 f)
  | .mtld f => .blk (encB 0xD1#8 f)
  | .mtldm f => .blk (encB 0xD2#8 f)
  | .mtldmScl f => .blk (encB 0xD2#8 f)
  | .mtst f => .blk (encB 0xD3#8 f)
  | .mtstScl f => .blk (encB 0xD3#8 f)
  | .mmaIp f => .blk (encB 0xD4#8 f)
  | .mmaOp f => .blk (encB 0xD4#8 f)
  | .mmaRw f => .blk (encB 0xD4#8 f)
  | .mmaRwSp f => .blk (encB 0xD4#8 f)
  | .maccz f => .blk (encB 0xD5#8 f)
  | .maccrd f => .blk (encB 0xD6#8 f)
  | .maccwr f => .blk (encB 0xD7#8 f)
  | .mmrd f => .blk (encB 0xD8#8 f)
  | .vmerge f => .blk (encB 0xD9#8 f)
  | .vtopk f => .blk (encB 0xDA#8 f)
  | .vsortk f => .blk (encB 0xDB#8 f)
  | .vcsrx f => .blk (encB 0xDC#8 f)
  | .readRegister _ _ _ => .none
  | .writeRegister _ _ _ => .none
  | .startDispatcherStrand _ _ _ => .none
  | .resumeAfterPageFault _ _ => .none
  | .orderVault _ _ => .none
  | .drainPartition _ => .none
  | .resetPartition _ => .none
  | .readErrorRecord _ _ _ => .none
  | .requestCheckpointPass _ => .none
  | .readLinkConfiguration _ => .none
  | .messageToFirmware _ _ => .none
  | .readDeviceMessage => .none
  | .sendQueueTransfer _ _ => .none
  | .messageStart _ => .none
  | .blockStart _ => .none
  | .legStart _ => .none
  | .batonDelivery _ => .none
  | .storeBroadcast _ => .none
  | .forwardingRequest _ _ => .none
  | .commitBaton _ => .none
  | .cacheMissFill _ _ _ => .none
  | .headerRetry _ _ => .none
  | .coherenceInvalidation _ _ => .none
  | .leaseExpiry _ _ => .none
  | .leaseWaitWrite _ => .none
  | .lineWriteback _ _ _ _ => .none
  | .powerGate _ => .none
  | .scatterAddApply _ => .none
  | .monitorFire _ _ => .none
  | .chunkLanding _ _ => .none
  | .copyCompletion _ _ => .none
  | .retrieverPageFault _ _ _ => .none
  | .remoteRequest _ _ _ _ => .none
  | .remoteReply _ _ _ _ _ => .none
  | .remoteError _ _ _ => .none
  | .rcopyFlagWrite _ _ _ => .none
  | .collectiveComplete _ _ _ _ => .none
  | .taskOrderPoint _ _ => .none
  | .taskPlacement _ _ => .none
  | .taskCompletion _ => .none
  | .launchPickup _ _ => .none
  | .watchdogExpiry _ _ => .none
  | .handlerStallExpiry _ _ => .none
  | .recoveryWaitTimeout _ => .none
  | .partitionDrain _ => .none
  | .tableWalk _ _ _ _ _ => .none
  | .blockFaultTake _ => .none
  | .vaultDrain _ => .none
  | .vaultCopy _ => .none
  | .vaultCopyFailure _ => .none
  | .vaultFlip _ => .none
  | .checkpointTimer _ => .none
  | .checkpointPass _ => .none
  | .rejoinAdmission _ => .none
  | .throttleUpdate _ _ => .none
  | .packageFault => .none
  | .packageReset => .none
  | .bringupPhase _ => .none
  | .hostAccess _ _ => .none
  | .backInvalidation _ _ => .none
  | .hostSnoop _ _ _ => .none
  | .hostLinkFailure => .none
  | .hostLinkRestored => .none
  | .stationFailure _ => .none
  | .cachePowerUp _ => .none
  | .pageFaultService _ _ => .none
  | .correctedEventWindow _ => .none
  | .join => .ctl (encR 0x26 0 0 0 0x0#11)
  | .bar => .ctl (encR 0x26 0 0 0 0x2#11)
  | .vwait => .ctl (encR 0x2A 0 0 0 0x0#11)
  | .hexit => .ctl (encR 0x2F 0 0 0 0x0#11)
  | .shsync => .ctl (encR 0x36 0 0 0 0x0#11)
  | .yield => .ctl (encR 0x36 0 0 0 0x1#11)
  | .splock => .ctl (encR 0x36 0 0 0 0x2#11)
  | .spunlk => .ctl (encR 0x36 0 0 0 0x3#11)
  | .eret => .ctl (encR 0x3B 0 0 0 0x2#11)

end Sys2Proof
end

