-- ==== Sys2Proof/Machine/Maps.lean ====
section
/-!
DEFINITION. Finite maps as plain data: lists of key and value in ascending key order. A key that is
not listed holds the default its reader names, so that state with many instances (cores, partitions,
nodes) lists only what has changed since reset.
-/
namespace Sys2Proof.Machine

/-- A finite map from numbers, ascending keys, no repeats. -/
abbrev FMap (α : Type) := List (Nat × α)

/-- The entry at `k`, if listed. -/
def FMap.find? {α : Type} : FMap α → Nat → Option α
  | [], _ => none
  | (j, a) :: m, k => if j = k then some a else FMap.find? m k

/-- The entry at `k`, or the default. -/
def FMap.get {α : Type} (m : FMap α) (d : α) (k : Nat) : α :=
  match FMap.find? m k with
  | some a => a
  | none => d

/-- `m` with `a` at `k`; ascending order is kept. -/
def FMap.set {α : Type} : FMap α → Nat → α → FMap α
  | [], k, a => [(k, a)]
  | (j, b) :: m, k, a =>
    if k = j then (k, a) :: m
    else if k < j then (k, a) :: (j, b) :: m
    else (j, b) :: FMap.set m k a

/-- `m` without `k`. -/
def FMap.del {α : Type} : FMap α → Nat → FMap α
  | [], _ => []
  | (j, b) :: m, k => if j = k then FMap.del m k else (j, b) :: FMap.del m k

/-- `m` with the entry at `k` changed by `f`, the default standing for an unlisted one. -/
def FMap.upd {α : Type} (m : FMap α) (d : α) (k : Nat) (f : α → α) : FMap α :=
  FMap.set m k (f (FMap.get m d k))

/-- Every listed value changed by `f`. -/
def FMap.mapVals {α : Type} (f : Nat → α → α) : FMap α → FMap α
  | [] => []
  | (j, b) :: m => (j, f j b) :: FMap.mapVals f m

/-- The list with entry `i` replaced; unchanged when `i` is beyond its end. -/
def listSet {α : Type} : List α → Nat → α → List α
  | [], _, _ => []
  | _ :: l, 0, a => a :: l
  | b :: l, i + 1, a => b :: listSet l i a

/-- The list without entry `i`. -/
def listDel {α : Type} : List α → Nat → List α
  | [], _ => []
  | _ :: l, 0 => l
  | b :: l, i + 1 => b :: listDel l i

/-- The list without the first entry that satisfies `p`. -/
def listDelFirst {α : Type} (p : α → Bool) : List α → List α
  | [] => []
  | b :: l => if p b then l else b :: listDelFirst p l

/-- The position of the first entry that satisfies `p`. -/
def listIndex {α : Type} (p : α → Bool) : List α → Option Nat
  | [] => none
  | b :: l => if p b then some 0 else (listIndex p l).map (· + 1)

/-- Insert a number into an ascending list without repeats. -/
def insertNat (k : Nat) : List Nat → List Nat
  | [] => [k]
  | j :: l => if k = j then j :: l else if k < j then k :: j :: l else j :: insertNat k l

end Sys2Proof.Machine
end

