-- ==== Sys2Proof/Machine/Bits.lean ====
section
/-!
DEFINITION. Bit-field helpers: slices of bit vectors, sign extension, counting, and the little-endian
view of bytes (R5).
-/
namespace Sys2Proof.Machine

/-- The `w` bits of `x` from bit `lo` up, as a number. -/
def bits {n : Nat} (x : BitVec n) (lo w : Nat) : Nat := x.toNat / 2 ^ lo % 2 ^ w

/-- `x` with the bits from `lo` up replaced by `v`; bits of `v` beyond the end of `x` are lost. -/
def putBits {n w : Nat} (x : BitVec n) (lo : Nat) (v : BitVec w) : BitVec n :=
  (x &&& ~~~((BitVec.allOnes w).setWidth n <<< lo)) ||| (v.setWidth n <<< lo)

/-- `x` with bit `i` set to `b`. -/
def putBit {n : Nat} (x : BitVec n) (i : Nat) (b : Bool) : BitVec n := putBits x i (BitVec.ofBool b)

/-- Bits `lo` to `lo + w - 1` all zero. -/
def zeroBits {n : Nat} (x : BitVec n) (lo w : Nat) : Bool := bits x lo w == 0

/-- Sign-extension of the low `w` bits to 64 (R147, R170). -/
def sext (w : Nat) (x : Nat) : Word := (BitVec.ofNat w x).signExtend 64

/-- Zero-extension of the low `w` bits to 64. -/
def zext (w : Nat) (x : Nat) : Word := BitVec.ofNat 64 (x % 2 ^ w)

/-- Number of 1 bits among the low `n`. -/
def popc : Nat → Nat → Nat
  | 0, _ => 0
  | n + 1, x => x % 2 + popc n (x / 2)

/-- Number of zero bits below the lowest 1 bit of the low `n`; `n` when there is none. -/
def ctz : Nat → Nat → Nat
  | 0, _ => 0
  | n + 1, x => if x % 2 = 1 then 0 else 1 + ctz n (x / 2)

/-- Number of zero bits above the highest 1 bit of the low `n`. -/
def clz (n x : Nat) : Nat := if x % 2 ^ n = 0 then n else n - 1 - Nat.log2 (x % 2 ^ n)

/-- Quotient rounded up. -/
def ceilDiv (a b : Nat) : Nat := (a + b - 1) / b

/-- The bytes of a word in reverse order (R166). -/
def bswap64 (x : Word) : Word :=
  x.extractLsb' 0 8 ++ x.extractLsb' 8 8 ++ x.extractLsb' 16 8 ++ x.extractLsb' 24 8 ++
    x.extractLsb' 32 8 ++ x.extractLsb' 40 8 ++ x.extractLsb' 48 8 ++ x.extractLsb' 56 8

/-- Little-endian bytes as a word of `w` bits. -/
def bytesBV (w : Nat) : List Byte → BitVec w
  | [] => 0
  | b :: l => (bytesBV w l <<< 8) ||| b.setWidth w

/-- The `n` lowest bytes of a bit vector, lowest first. -/
def bvBytes {w : Nat} : Nat → BitVec w → List Byte
  | 0, _ => []
  | n + 1, x => x.setWidth 8 :: bvBytes n (x >>> 8)

/-- All `n`-element ranges used as loops of R8: 0 up to `n - 1`. -/
def upTo (n : Nat) : List Nat := List.range n

end Sys2Proof.Machine
end

