-- ==== Sys2Proof/Config.lean ====
section
/-!
DEFINITION. What the specification leaves open, as constants with no body: no proof can see a value
of them, so a claim holds whatever they are. A step applies them to the counter `State.fresh`, which
it then advances. Also the type of a turn: which agent moves next.
-/
namespace Sys2Proof

/-- One turn of the package. The agents of the part act concurrently (R27, R38); a step of the model
is one turn of one of them. -/
inductive Turn where
  /-- one control cycle of a core's barrel: the rotation of R20 to R23 picks the context that issues -/
  | cycle (unit : Nat)
  /-- the vector sequencer of a core issues one block word (R25) -/
  | word (unit : Nat)
  /-- one of the events or management commands of the opcode table happens -/
  | event (e : Instr)
  deriving DecidableEq, Repr, Inhabited

/-- A turn, and how many control cycles pass by its end (R4). -/
structure Slot where
  dt : Nat
  turn : Turn
  deriving DecidableEq, Repr, Inhabited

/-- The order in which agents move, and the time that passes, wherever `State.agenda` does not say:
the specification gives no timing that fixes it (R38, R118). Free; see log entry 1. -/
opaque Config.schedule : Nat → Slot

/-- A free 64-bit value: a result that the specification does not give, such as a poisoned load (R170) or
a collective's handle (R262). See log entry 2. -/
opaque Config.freeWord : Nat → BitVec 64

/-- A free number: the victim of a replacement (R307), the retry hint of R109. See log entry 4. -/
opaque Config.freeNat : Nat → Nat

/-- The partition for which a context of a management core dispatches tasks (R289), by unit x 8 +
context: firmware decides it. See log entry 5. -/
opaque Config.firmwarePart : Nat → Nat

end Sys2Proof
end

