-- ==== Sys2Proof/Machine/State.lean ====
section
/-!
DEFINITION. The state of one package of the pod, as plain data, and the state right after package
reset (R372 to R374). Everything the specification gives the machine is here; what a field stands
for, and the rule that names it, stands beside it. Numbers that software never sees as bits (core
numbers, counts, physical addresses) are `Nat`; what software reads or writes as a word is a bit
vector.

A core is named by its unit number: 0 to 1,023 are the logical cores of R2, and 1,024 + 2 x die + j is
management core j of a die (R318).
-/
namespace Sys2Proof.Machine

/-- Sparse memory: physical byte addresses with their bytes, strictly rising, no byte listed that
equals what an unlisted address reads as (`Memory.unlisted`). Also used for scratchpads. -/
abbrev Memory := List Host.Cell

/-- Page attributes of R116. -/
inductive Attr where
  | cacheable
  | errorTolerant
  | uncacheable
  | device
  deriving DecidableEq, Repr, Inhabited

/-- The path a store takes to its home (R124, R125): the scalar store queue of its context, the queue
of one lane group to one L2 slice, the retriever, or a party outside the package. -/
inductive Path where
  | scalar
  | lane (group slice : Nat)
  deriving DecidableEq, Repr, Inhabited

/-- A store, or an add of a VSCADD, that its context has made and that is not yet performed at its home
(R112, R115, R120). -/
structure PStore where
  unit : Nat
  ctx : Nat
  path : Path
  pa : Nat
  bytes : List Byte
  /-- partition of the writer (R343) -/
  part : Nat
  /-- number of LSYNCs its context had issued before it (R126): orders the lane queues among themselves -/
  epoch : Nat
  /-- key of the program-order stream: the strand's first core for a strand context (R15, R123) -/
  owner : Nat
  /-- on a cacheable page: other contexts of the core see it before it is performed (R120) -/
  cached : Bool
  /-- write of an AMO of core scope: no other store to the line falls between its read and it (R130) -/
  locked : Bool
  /-- on an error-tolerant page (R117) -/
  et : Bool
  /-- other contexts that have read it, by context number and program-order stream (R129) -/
  readers : List (Nat × Nat)
  /-- locations of the core-scope releases that it happens before: an acquire of one of them by another
  context of the core makes it a store that the context has read (R128) -/
  rel : List Nat
  /-- tag and virtual address by which it was translated (R312) -/
  tag : BitVec 12
  va : Word
  /-- an add of a VSCADD instead of a store: the element type (R115) -/
  add : Option (BitVec 5)
  /-- number of the instruction that made it; the adds of one VSCADD are unordered (R139) -/
  inst : Nat
  /-- to a device page: the accesses of one context are performed in program order (R141) -/
  dev : Bool
  deriving DecidableEq, Repr, Inhabited

/-- States of a leg-cache line (R48); a line that is not listed is invalid. -/
inductive LineState where
  | S
  | M
  | L
  deriving DecidableEq, Repr, Inhabited

/-- One leg-cache line (R48, R106). `line` is PA / 64. -/
structure Line where
  line : Nat
  st : LineState
  /-- leg number of the owner mod 32, in state L -/
  order : BitVec 5
  /-- per sector: written by the owning leg -/
  dirty : BitVec 4
  /-- per sector: read by the owning leg before it wrote it -/
  exposed : BitVec 4
  /-- bytes that the owning leg wrote, in state L, and their values -/
  mask : BitVec 64
  data : BitVec 512
  /-- the owning leg wrote it on an error-tolerant page (R117) -/
  et : Bool
  /-- false while the data of a leg's miss has not returned (R50) -/
  filled : Bool
  /-- lease of the RDC line it was filled from (R106, R111) -/
  lease : Option Nat
  /-- partition of the last writer, and its context (R343) -/
  writer : BitVec 4
  wctx : Nat
  /-- stamp of its last use, for replacement (R106) -/
  used : Nat
  /-- in state L, the tags and pages by which the leg has stored to it (R312) -/
  through : List (BitVec 12 × Word)
  /-- per sector: what the leg has written meets an uncorrectable error (R340, R343) -/
  bad : BitVec 4
  deriving DecidableEq, Repr, Inhabited

/-- What a request header asks for (R109). -/
inductive HeaderKind where
  | load
  | store
  | atomic
  deriving DecidableEq, Repr, Inhabited

/-- A request header (R109): access kind, lane group, base physical address, signed byte stride, element size and
element count. -/
structure Header where
  kind : HeaderKind
  lane : Nat
  base : Nat
  stride : Int
  size : Nat
  count : Nat
  deriving DecidableEq, Repr, Inhabited

/-- One outstanding request at a slice (R109). Context 8 is the vector sequencer: its request is one
header, for all lines that a word touches in the slice. -/
structure Miss where
  unit : Nat
  ctx : Nat
  line : Nat
  hdr : Header
  /-- the request goes to older legs first (R50) -/
  forward : Bool
  /-- it asks for ownership, for a store or an AMO (R110) -/
  own : Bool
  deriving DecidableEq, Repr, Inhabited

/-- One TLB entry (R307): the page, its tag, what the leaf allows. `size` is log2 of the page. -/
structure TlbEntry where
  tag : BitVec 12
  size : Nat
  vpage : Nat
  ppage : Nat
  attr : Attr
  priv : Bool
  x : Bool
  w : Bool
  deriving DecidableEq, Repr, Inhabited

/-- A message in a send queue or an inbound queue (R31, R33, R252). -/
structure Msg where
  /-- unit that sent it -/
  src : Nat
  dst : Nat
  chan : BitVec 6
  payload : List Word
  deriving DecidableEq, Repr, Inhabited

/-- A monitor of MONWAIT (R189). `line` is PA / 64. -/
structure Monitor where
  line : Nat
  /-- kept in the leg cache, for a host-memory line -/
  host : Bool
  fired : Bool
  /-- order of arming, for the slice's table of 64 -/
  seq : Nat
  deriving DecidableEq, Repr, Inhabited

/-- Why a context is stalled (R21, R165, R251). A stalled context issues its instruction again when
that would no longer stall. -/
inductive Stall where
  /-- a leg-cache miss on a line -/
  | miss (line : Nat)
  /-- a request header, perhaps for ownership, refused until this control cycle (R109) -/
  | refused (hdr : Header) (own : Bool) (ready : Nat)
  /-- a line in state L that a speculative leg may not evict (R53) -/
  | evict
  /-- a full send queue (R252) -/
  | sendFull
  /-- MONWAIT with its monitor armed (R189) -/
  | monwait
  /-- an empty reply queue (R28) -/
  | replyEmpty
  /-- a full fetch queue (R25) -/
  | fetchFull
  /-- blocks that have not completed (R27, R181, R377) -/
  | blocks
  /-- BAR, arrived (R63) -/
  | bar
  /-- a held action, or a deferred trap, of a speculative leg (R59, R61) -/
  | held
  /-- a pending carried register (R44) -/
  | carried (n : BitVec 5)
  /-- JOIN waiting to become the runner, or for its leg to finish (R55, R62) -/
  | join
  /-- the scratchpad lock: SPLOCK, or an access of R186 -/
  | lock
  /-- a full undo log (R58) -/
  | undoFull
  /-- ordering of earlier accesses (R129, R184, R377) -/
  | order
  /-- a remote reply (R260) -/
  | remote
  /-- a free engine slot (R257, R261, R262) -/
  | engine
  /-- a retriever copy, an RCOPY or a collective that has not completed (R254, R259, R263) -/
  | transfer
  /-- a scheduler node or range entry, or placement stopped by a drain (R37, R301) -/
  | scheduler
  /-- a task that has not completed (R255) -/
  | task
  /-- a full mailbox (R332) -/
  | mailbox
  /-- no pending event (R332) -/
  | event
  /-- a vault, a drain, a reset, a checkpoint pass or a pre-emption in progress (R330) -/
  | system
  deriving DecidableEq, Repr, Inhabited

/-- Trap mode of a context (R164, R320, R321). -/
inductive TrapMode where
  | none
  | handler
  | nested
  deriving DecidableEq, Repr, Inhabited

/-- One entry of the nest stack (R177). -/
structure Nest where
  forkPc : Word
  joinPc : Word
  step : Word
  endv : Word
  xind : BitVec 5
  i : Nat
  n : Nat
  deriving DecidableEq, Repr, Inhabited

/-- An RCOPY in flight (R261). -/
structure RCopy where
  id : Nat
  src : Nat
  dst : Word
  len : Nat
  pkg : Nat
  flagVa : Word
  flagVal : Word
  /-- chunks that have landed, ascending -/
  landed : List Nat
  /-- the handler that issued it has ended: an error of it is told to nobody -/
  orphan : Bool
  /-- POD of the issuing partition (R365) -/
  pod : BitVec 4
  /-- leg that issued it, in a forked region that is still open; order of issue; blocks of the core that its context
  enqueued earlier: those below this count (R123, R261) -/
  leg : Option Nat
  seq : Nat
  after : Nat
  deriving DecidableEq, Repr, Inhabited

/-- A collective in flight (R262, R263). -/
structure Coll where
  handle : Word
  entry : Nat
  inst : Nat
  scope : BitVec 3
  kind : Byte
  rop : Byte
  ty : Byte
  root : Byte
  count : BitVec 16
  dst : Word
  pkg : Bool
  members : List Nat
  /-- this member's own index -/
  me : Nat
  /-- the values this member brings -/
  data : List Byte
  done : Bool
  mismatch : Bool
  /-- it has ended in an error of the fabric between packages (R365, R366) -/
  failed : Bool
  /-- POD of the issuing partition (R365) -/
  pod : BitVec 4
  deriving DecidableEq, Repr, Inhabited

/-- An RSTORE, RLOAD, RAMO or RCOPY part that another package has not answered (R142, R260). -/
structure ROp where
  id : Nat
  store : Bool
  deriving DecidableEq, Repr, Inhabited

/-- A barrel context (R19, R67). -/
structure Ctx where
  resident : Bool := false
  /-- stopped by a double trap (R318, R321) or by a vault, a drain or a pre-emption in progress -/
  stopped : Bool := false
  pc : Word := 0
  x : Vector Word 32 := Vector.replicate 32 0
  /-- issue priority (R13, R22, R33) -/
  prio : BitVec 2 := 0
  /-- privileged mode (R320, R329) -/
  priv : Bool := false
  trap : TrapMode := .none
  stall : Option Stall := .none
  /-- offered its next own slot by YIELD (R185) -/
  yielded : Bool := false
  /-- control cycle after its last issue, 0 for never (R22) -/
  lastIssue : Nat := 0
  /-- TIME at which it last retired an instruction or started (R299) -/
  lastRetire : Nat := 0
  /-- SUBCNT of a handler context (R81); a strand context's stands in its strand (R82) -/
  subcnt : BitVec 32 := 0
  /-- leg count of SUBCNT (R82) -/
  legSub : BitVec 32 := 0
  /-- LEGSZ.COUNT, CARRYM, PREDM, VCARRY (R39) -/
  legsz : BitVec 32 := 1
  carrym : BitVec 32 := 0
  predm : BitVec 32 := 0
  vcarry : BitVec 32 := 0
  nest : List Nest := []
  /-- send queue of 4; belongs to the context slot (R252) -/
  sendq : List Msg := []
  rcopies : List RCopy := []
  rops : List ROp := []
  /-- number of remote operations and RCOPYs issued: names them -/
  ropNo : Nat := 0
  /-- the reply that has arrived for a stalled RLOAD or RAMO: its value, and whether it succeeded -/
  reply : Option (Word × Bool) := .none
  /-- a remote-access error pending in the context (R260) -/
  remErr : Bool := false
  colls : List Coll := []
  /-- handle of the task that the TSPAWN at `pc` spawns: it has been sent to the order point, and the TSPAWN completes
  once it has had its turn there (R37, R293) -/
  spawning : Option Word := .none
  monitor : Option Monitor := .none
  /-- BAR arrival counted (R63, R165) -/
  barArrived : Bool := false
  /-- takes the scratchpad lock again before it issues its first instruction after a restore (R187) -/
  relock : Bool := false
  /-- a trap or held action of a speculative leg is waiting (R61) -/
  deferred : Bool := false
  /-- number of LSYNCs issued (R126) -/
  epoch : Nat := 0
  /-- consecutive restarts after checking mismatches of the instruction at `restartAt` (R337) -/
  restarts : Nat := 0
  restartAt : Word := 0
  /-- an access that it has sent, or a reply that it waits for, completes before a vault or a pre-emption stops
  it (R165, R251) -/
  finishing : Bool := false
  deriving DecidableEq, Repr

/-- The open partial sum of one accumulator element (R235, R240): an exact value, (−1)^neg x m x 2^e, and
the special-value state of R98 for the products added so far. -/
structure Partial where
  neg : Bool := false
  m : Nat := 0
  e : Int := 0
  /-- a factor was a signaling NaN, a quiet NaN; a product was 0 x ∞, +∞, −∞ -/
  snan : Bool := false
  qnan : Bool := false
  zinf : Bool := false
  pinf : Bool := false
  ninf : Bool := false
  deriving DecidableEq, Repr, Inhabited

/-- The vector context of a core (R67, R84). Big registers are little-endian bit vectors (R5, R69). -/
structure VCtx where
  v : Vector (BitVec 65536) 32 := Vector.replicate 32 0
  p : Vector (BitVec 8192) 32 := Vector.replicate 32 0
  sc : Vector (BitVec 16384) 8 := Vector.replicate 8 0
  t : Vector (BitVec 131072) 8 := Vector.replicate 8 0
  tsc : Vector (BitVec 8192) 8 := Vector.replicate 8 0
  acc : Vector (BitVec 65536) 2 := Vector.replicate 2 0
  /-- KPOS, OPEN and the open partials of an accumulator, by 32 x row + column (R235) -/
  kpos : Vector (BitVec 11) 2 := Vector.replicate 2 0
  opn : Vector Bool 2 := Vector.replicate 2 false
  part : Vector (FMap Partial) 2 := Vector.replicate 2 []
  /-- merge buffer: columns ascending (R242) -/
  merge : List (BitVec 16 × Word) := []
  /-- poison bit per element group (R75) -/
  poison : Vector (BitVec 128) 32 := Vector.replicate 32 0
  /-- progress index of the in-flight producer, 128 for none (R73) -/
  prog : Vector (BitVec 8) 32 := Vector.replicate 32 128
  vdirty : BitVec 32 := 0
  validRows : Vector (BitVec 16) 32 := Vector.replicate 32 0
  pdirty : BitVec 32 := 0
  sdirty : BitVec 8 := 0
  tdirty : BitVec 8 := 0
  adirty : BitVec 2 := 0
  vrows : BitVec 5 := 16
  vcols : BitVec 11 := 64
  mshape : Word := 0x0020_2020#64
  /-- FLAGS, or the leg FLAGS inside a forked region (R81, R55) -/
  flags : BitVec 7 := 0
  rmode : BitVec 5 := 0
  vfstat : Word := 0
  vcm : BitVec 8192 := 0
  /-- kennel last saved to or restored from (R326), and the registers other than vectors that its save map
  marks (R325) -/
  kennel : Option Word := .none
  psaved : BitVec 32 := 0
  ssaved : BitVec 8 := 0
  tsaved : BitVec 8 := 0
  asaved : BitVec 2 := 0
  deriving DecidableEq, Repr

/-- An entry of the fetch queue (R25, R83): block address and the state a block keeps from its VFETCH.
`x` is what the block's vc fields name (R26). -/
structure Fetch where
  addr : Word
  vrows : BitVec 5
  vcols : BitVec 11
  rmode : BitVec 5
  x : Vector Word 32
  /-- carried registers that still held their start value: a word of the block that names one takes the
  value that the leg starts with, once it is known (R44) -/
  fresh : BitVec 32
  /-- the core's copy count at the VFETCH: which copies precede the block in program order (R108) -/
  mark : BitVec 32
  deriving DecidableEq, Repr, Inhabited

/-- The pending cause that a trap takes, and that is no longer pending once its handler is entered (R258,
R260, R262, R315). -/
inductive Pend where
  | none
  | copy (unit : Nat) (handle : BitVec 32)
  | remote
  | reply
  | coll (handle : Word)
  deriving DecidableEq, Repr, Inhabited

/-- What a trap reports (R314, R319). -/
structure TrapInfo where
  cause : Byte
  status : BitVec 16 := 0
  code : Byte := 0
  faddr : Word := 0
  elem : BitVec 16 := 0
  /-- address of the faulting block word, for a block fault -/
  block : Option Word := .none
  /-- resume address, when it is not the instruction's own (R192) -/
  epc : Option Word := .none
  /-- the pending cause that it takes -/
  clears : Pend := .none
  deriving DecidableEq, Repr, Inhabited

/-- The progress state of a reduction (R103): the next element or leaf, and the values so far: the sum of an
ordered reduction, or the completed subtrees of a tree that are not yet combined, oldest first, each with its
number of leaves, its value when it is present, and no value when it is absent. -/
structure RedState where
  next : Nat
  vals : List (Nat × Option Nat)
  deriving DecidableEq, Repr, Inhabited

/-- The vector sequencer of a core (R25 to R28). -/
structure Seqr where
  /-- pending blocks, oldest first, at most 16; the running block stays at the head until its VSTOP -/
  fq : List Fetch := []
  /-- the head block is being fetched -/
  active : Bool := false
  pc : Word := 0
  /-- loop counters L0 to L3 (R199) -/
  loops : Vector Word 4 := Vector.replicate 4 0
  /-- resume group of an in-order store (R196) -/
  resume : BitVec 8 := 0
  reply : List Word := []
  /-- a block fault that is ready to be taken (R316), or held in a speculative leg -/
  fault : Option TrapInfo := .none
  /-- the block fault has been taken; the sequencer waits for ERET (R322) -/
  frozen : Bool := false
  /-- consecutive restarts after checking mismatches of the word at `restartAt` (R337) -/
  restarts : Nat := 0
  restartAt : Word := 0
  /-- slices that have answered the headers of the word at `pc`, and headers refused, each with the control cycle
  from which it may be sent again (R109) -/
  answered : List (Nat × Nat) := []
  refused : List (Header × Nat) := []
  /-- this turn of the word at `pc` ends after so many of its elements, steps, rows or groups -/
  stop : Option Nat := .none
  /-- steps that the MMA.op at `pc` has performed (R231) -/
  step : Nat := 0
  /-- progress state of the reduction at `pc` (R103) -/
  red : Option RedState := .none
  /-- the indices of the gather at `pc` that a fault has stopped and whose destination holds them (R193, R224) -/
  idx : Option (BitVec 65536) := .none
  /-- blocks that have ended -/
  fin : Nat := 0
  deriving DecidableEq, Repr

/-- A retriever copy in flight (R256, R257). -/
structure Copy where
  handle : BitVec 32
  /-- issuing context; 8 once it has been freed; of a strand that has been pre-empted since, its park number
  (`parkUnit`) -/
  ctx : Nat
  part : Nat
  srck : BitVec 2
  dstk : BitVec 2
  score : Nat
  dcore : Nat
  src : Word
  dst : Word
  esize : Nat
  /-- dimensions 0, 1, ...: extent, source stride, destination stride -/
  dims : List (Nat × Word × Word)
  /-- index of each row, for RTGATH -/
  gather : Option (List (BitVec 32))
  pred : BitVec 5
  chunks : Nat
  landed : List Nat
  /-- waiting for the lock (R186), for the runner (R58) or for a page fault (R258) -/
  held : Bool
  paused : Option Nat
  /-- scratchpad bytes it has overwritten, with their values from before the copy (R257) -/
  before : FMap Byte
  /-- leg that issued it, in a forked region that is still open (R54, R58) -/
  leg : Option Nat
  /-- vault waits for it: issued before Q (R350) -/
  preQ : Bool
  /-- blocks of the core that its context enqueued earlier: those below this count (R134) -/
  after : Nat
  /-- order of issue among copies (R134) -/
  seq : Nat
  deriving DecidableEq, Repr, Inhabited

/-- An exchange buffer (R220). -/
structure XBuf where
  image : BitVec 65536
  poison : BitVec 128
  scales : BitVec 4096
  deriving DecidableEq, Repr, Inhabited

/-- What travels to a leg along the ring (R45, R51): a carried register, or a store broadcast. -/
inductive Parcel where
  | value (n : BitVec 5) (v : Word)
  /-- sectors (PA / 16) of a store by an older leg -/
  | store (sectors : List Nat)
  deriving DecidableEq, Repr, Inhabited

/-- One granule of an undo log (R58): its contents and poisoned sectors from before the leg's first write, and as
every other party sees it: with its own writes and without the leg's (R133). -/
structure Undo where
  granule : Nat
  old : BitVec 512
  poison : BitVec 4
  seen : BitVec 512
  seenBad : BitVec 4
  deriving DecidableEq, Repr, Inhabited

/-- The leg that runs on a core (R14, R44). -/
structure Leg where
  k : Nat
  /-- iteration within the region -/
  i : Nat
  read : BitVec 32
  written : BitVec 32
  pending : BitVec 32
  start : Vector Word 32
  /-- registers of which a delivery has arrived -/
  delivered : BitVec 32
  inbox : List Parcel
  /-- executed the JOIN of its last iteration (R55) -/
  joined : Bool
  /-- FORK: committed early (R56); FORKI: its finish has been counted (R62) -/
  early : Bool
  /-- squashes or replays for consumed errors without a commit (R341) -/
  replays : Nat
  /-- undo log, newest first (R58) -/
  undo : List Undo
  /-- copy-watch registers: copies whose source ranges are watched while the leg is speculative (R58) -/
  watches : List Copy
  deriving DecidableEq, Repr, Inhabited

/-- Units whose results are compared (R336). -/
inductive Checker where
  | lane
  | alu
  | adder
  | array
  deriving DecidableEq, Repr, Inhabited

/-- Storage with an error-correcting code (R336, R338): a core's own, and that of the package. -/
inductive Store where
  | regs
  | legCache
  | pad
  | l2
  | rdc
  | llc
  | hbm
  | link
  deriving DecidableEq, Repr, Inhabited

/-- What the checks of R336 find as an instruction issues, and whether a block word stops inside. -/
inductive Check where
  | good
  /-- a comparison fails in this unit: the work is done again (R337) -/
  | mismatch (unit : Checker)
  /-- a storage error is corrected, at this physical address or 0 -/
  | corrected (store : Store) (pa : Nat)
  /-- a sector of the scratchpad has an uncorrectable error (R340) -/
  | sector (k : Nat)
  /-- an element group of a vector register has an uncorrectable error (R340) -/
  | group (reg grp : Nat)
  /-- a register of another kind that the instruction reads has one (R340) -/
  | lost
  /-- a sector of memory, by PA / 16, or what the core's leg has written of it has one (R340) -/
  | memory (k : Nat)
  /-- the word stops for a while after so many more of its elements, steps, rows or groups (R103, R196, R231) -/
  | stop (n : Nat)
  deriving DecidableEq, Repr, Inhabited

/-- A core: what its contexts share (R67), its sequencer, engines and caches. It is the logical core's
state, which a vault moves (R348). -/
structure Core where
  ctxs : Vector Ctx 8 := Vector.replicate 8 {}
  /-- shared registers XS0 to XS7 (R68) -/
  xs : Vector Word 8 := Vector.replicate 8 0
  /-- writes of XS registers that other contexts may not see yet: register, old value, writer (R323) -/
  xsOld : List (BitVec 3 × Word × Nat) := []
  v : VCtx := {}
  seq : Seqr := {}
  /-- scratchpad (R107) and its poisoned 16-byte sectors -/
  sp : Memory := []
  spPoison : List Nat := []
  lock : Option Nat := .none
  lockQ : List Nat := []
  /-- task table (R30) -/
  table : Vector Word 64 := Vector.replicate 64 0
  inq : List Msg := []
  lines : List Line := []
  tlb : List TlbEntry := []
  copies : List Copy := []
  copyNo : BitVec 32 := 0
  /-- copies that aborted and whose trap is not yet taken: handle, issuing context (8 once it has been
  freed), faulting address (R258) -/
  aborted : List (BitVec 32 × Nat × Word) := []
  xfwd : Option XBuf := .none
  xbwd : Option XBuf := .none
  /-- span this core belongs to, by its first core (R11) -/
  strand : Option Nat := .none
  leg : Option Leg := .none
  /-- number of snapshot registers placed at the top of the scratchpad (R42) -/
  snaps : Nat := 0
  /-- rest of the current rotation, one entry per slot; `none` is the empty slot (R20) -/
  rot : List (Option Nat) := []
  /-- the rotation is gated by the throttle (R23) -/
  gatedRot : Bool := false
  /-- rotations into the run of 8, and the throttle level of the run (R375) -/
  run : Nat := 0
  runLevel : Nat := 0
  /-- context that issued in the last control cycle (R22) -/
  lastCtx : Option Nat := .none
  /-- outcomes of the next checks of R336, one for each instruction issued (the model's own field: the
  inputs); an empty tape is good -/
  checks : List Check := []
  deriving DecidableEq, Repr

/-- What the physical slot keeps (R82, R336, R346). -/
structure PSlot where
  /-- CYCLE while out of service, or the count at `since` -/
  cycle : Nat := 0
  since : Nat := 0
  /-- corrected events in window number `ceWin`, and whether the threshold was raised in it (R346) -/
  ce : Nat := 0
  ceRaised : Bool := false
  ceWin : Nat := 0
  /-- lane counter of the checking lane -/
  lane : BitVec 6 := 0
  deriving DecidableEq, Repr, Inhabited

/-- One entry of the stride predictor (R46). -/
structure Site where
  tag : BitVec 48
  strides : Vector Word 32
  deriving DecidableEq, Repr

/-- States of a vault (R348). -/
inductive VaultState where
  | quiesce
  | drain
  | copy
  | flip
  deriving DecidableEq, Repr, Inhabited

/-- Who ordered a vault (R346, R347, R369). -/
inductive VaultBy where
  | hardware
  | ctx (unit ctx : Nat)
  | mailbox
  deriving DecidableEq, Repr, Inhabited

/-- A request for a vault that waits for the die's vault engine (R347): slot 0x1F is any reserve slot. -/
structure VaultReq where
  core : Nat
  slot : Nat
  by_ : VaultBy
  deriving DecidableEq, Repr, Inhabited

/-- A vault in progress on a ring (R347, R348). -/
structure Vault where
  core : Nat
  old : Nat
  target : Nat
  st : VaultState
  /-- TIME of the quiesce point -/
  q : Nat
  /-- slots that failed during COPY -/
  failed : List Nat
  /-- messages held at ring ingress, in arrival order (R350) -/
  held : List Msg
  by_ : VaultBy
  deriving DecidableEq, Repr, Inhabited

/-- A ring: RINGOWN, its remap record, its stride predictor, its vault (R286, R345, R46). -/
structure Ring where
  own : Word := 0
  remap : BitVec 128
  sites : FMap Site := []
  vault : Option Vault := .none
  /-- results that a CVAULT has yet to take: its context and Xd -/
  vaultResults : List (Nat × Nat × Word) := []
  deriving DecidableEq, Repr

/-- States of a scheduler node (R292). -/
inductive NodeState where
  /-- sent to the order point, where its allocation as a task has still to have its turn (R293) -/
  | spawned
  | wait
  | ready
  | placed
  deriving DecidableEq, Repr, Inhabited

/-- What the model keeps of one core of a span while its strand is pre-empted, beside the kennel (log entry 41): span
index, core, the pending blocks as they were enqueued (R26), and the exchange buffers of a core for which the strand
has no kennel (R220). -/
structure Parked where
  idx : Nat
  core : Nat
  fq : List Fetch
  gather : Option (BitVec 65536)
  xfwd : Option XBuf
  xbwd : Option XBuf
  deriving DecidableEq, Repr, Inhabited

/-- A scheduler node that is not FREE (R292). Links name other nodes by die and index. -/
structure Node where
  st : NodeState
  entry : Word
  arg : Word
  ctrl : Word
  origin : Word
  seq : BitVec 32
  part : Nat
  /-- none for a dispatcher strand (R289) -/
  queue : Option Nat
  /-- ranges: write, base and length in granules -/
  ranges : List (Bool × Nat × Nat)
  /-- explicit predecessor handles of the image -/
  preds : List Word
  count : Nat
  succs : List (Nat × Nat)
  ready : Nat
  /-- extension nodes it occupies -/
  ext : Nat
  /-- the party that spawned it, in the order of R293: die, core, context -/
  from_ : Nat
  /-- while its strand is pre-empted: what the kennels do not hold of its cores -/
  parked : List Parked
  deriving DecidableEq, Repr, Inhabited

/-- An error record: eight doublewords (R338). -/
abbrev ErrRec := Vector Word 8

/-- An error log of 256 records (R338), oldest first, and the count of records dropped. -/
structure ErrLog where
  recs : List ErrRec := []
  dropped : Nat := 0
  deriving DecidableEq, Repr

/-- A compute die: its scheduler, RDC, shared TLB and event set, and the trap registers of its
management cores (R292, R104, R307, R332, R318). -/
structure Die where
  nodes : FMap Node := []
  /-- SEQ of each node's last allocation (R255) -/
  seqs : FMap (BitVec 32) := []
  /-- RDC: line and lease expiry (R111) -/
  rdc : FMap Nat := []
  tlb : List TlbEntry := []
  fwtvec : Word := 0
  fwkhead : Word := 0
  events : BitVec 7 := 0
  log : ErrLog := {}
  /-- control cycle of the last placement by this die (R294) -/
  lastPlace : Option Nat := .none
  /-- vaults that wait for the die's vault engine, in arrival order (R346, R347) -/
  vaultQ : List VaultReq := []
  deriving DecidableEq, Repr

/-- Recovery states of a partition (R300). -/
inductive Recovery where
  | run
  /-- since this TIME -/
  | wait (since : Nat)
  | drain
  /-- DRAIN has written its logs and waits for PARTRST -/
  | drained
  deriving DecidableEq, Repr, Inhabited

/-- A running checkpoint pass (R353): the granules still to be examined, in order. -/
structure Pass where
  number : BitVec 32
  dest : Nat
  next : Nat
  copied : Nat
  ranges : List (Nat × Nat)
  desc : Nat
  /-- stopped by a page fault that its duty serves -/
  paused : Bool
  deriving DecidableEq, Repr, Inhabited

/-- An entry of the outbound mailbox queue (R370): sequence number and two doublewords. -/
structure OutMsg where
  seq : Word
  w0 : Word
  w1 : Word
  deriving DecidableEq, Repr, Inhabited

/-- A partition's registers and state (R286, R303, R317, R334, R335, R300). -/
structure Part where
  fnmode : Word := 0x555#64
  ptbase : Word := 0
  astag : Word := 0
  tvec : Word := 0
  khead : Word := 0
  lease : Word := 2048#64
  ckint : Word := 0x800_0000#64
  cethresh : Word := 0x10_0000_0040#64
  podpair : Word := 0
  grpctl : FMap Word := []
  grplist : FMap Word := []
  /-- collective instances joined so far, by 2,048 x entry + member core, 1,024 for the package (R262) -/
  collNo : FMap Nat := []
  recov : Recovery := .run
  /-- WDOG mode under which the drain in progress was raised (R297) -/
  drainMode : BitVec 2 := 0
  /-- PARTRST has been asked for (R300) -/
  resetAsked : Bool := false
  /-- the mailbox waits for the end of DRAIN, or for RUN (R369) -/
  tellDrain : Bool := false
  tellReset : Bool := false
  log : ErrLog := {}
  pass : Option Pass := .none
  /-- the host has asked for a pass, which waits for the one that runs (R369) -/
  passAsked : Bool := false
  /-- TIME of the last timed start of a pass (R297) -/
  lastPass : Nat := 0
  /-- page-fault records and notifications that wait for room in the outbound queue (R370) -/
  notes : List (Word × Word) := []
  deriving DecidableEq, Repr

/-- States of a queue's watchdog (R298). -/
inductive WdState where
  | idle
  | armed
  | expired
  deriving DecidableEq, Repr, Inhabited

/-- A queue's registers (R286) and its watchdog. COUNT is TIME less `wdBase` while ARMED. -/
structure Queue where
  qctl : Word := 4#64
  qarea : Word := 0
  qlog : Word := 0
  wdlimit : Word := 0x800_0000#64
  wd : WdState := .idle
  wdBase : Nat := 0
  wdCount : Nat := 0
  /-- control cycle of the launch unit's last spawn (R289) -/
  lastLaunch : Option Nat := .none
  /-- the last TSPAWN that had its turn at the order point: control cycle and spawning party (R293) -/
  lastOrder : Option (Nat × Nat) := .none
  deriving DecidableEq, Repr

/-- A forked region of a strand (R40 to R46, R62 to R66). -/
structure Region where
  indep : Bool
  forkPc : Word
  joinPc : Word
  xind : BitVec 5
  base : Word
  step : Word
  endv : Word
  /-- iterations and legs -/
  n : Nat
  legs : Nat
  legsz : Nat
  carrym : BitVec 32
  predm : BitVec 32
  vcarry : BitVec 32
  /-- span index of the forking core, less the leg number that started there -/
  c0 : Nat
  forkX : Vector Word 32
  prio : BitVec 2
  vrows : BitVec 5
  vcols : BitVec 11
  mshape : Word
  rmode : BitVec 5
  strides : Vector Word 32
  /-- leg whose turn to commit it is, and whether the baton has reached it -/
  runner : Nat
  arrived : Bool
  /-- by span index: the next leg to start there (R14) -/
  next : FMap Nat
  /-- value parcels for legs that have not started (R45) -/
  early : List (Nat × Parcel)
  /-- BAR: arrivals and generation (R63) -/
  barCount : Nat
  barGen : Bool
  /-- legs that have finished (FORKI) -/
  finished : Nat
  deriving DecidableEq, Repr

/-- A placed strand (R11, R13, R18). Its key is the logical core of span index 0. -/
structure Strand where
  part : Nat
  /-- node of its task: die and index -/
  node : Nat × Nat
  size : Nat
  /-- logical core whose context 0 is the strand context, outside a region -/
  at_ : Nat
  /-- FLAGS outside legs (R55) -/
  flags : BitVec 7
  /-- SUBCNT of the strand context (R82) -/
  subcnt : BitVec 32
  region : Option Region
  /-- executed HEXIT: completes when its stores are performed (R18) -/
  ended : Bool
  /-- kennel that a pre-emption in progress writes, and who asked -/
  saving : Option (Word × Nat × Nat)
  deriving DecidableEq, Repr

/-- A page-fault record (R297, R370). -/
inductive Faulter where
  | copy (unit : Nat) (handle : BitVec 32)
  | pass (part : Nat)
  | remote (src : Nat)
  /-- a remote operation of a context on its own package -/
  | own (unit ctx : Nat)
  /-- an RSTORE on its own package, which has completed at its context -/
  | inside (unit ctx id : Nat)
  /-- the source of an RCOPY -/
  | rcopy (unit ctx id : Nat)
  deriving DecidableEq, Repr, Inhabited

structure PageFault where
  part : Nat
  va : Word
  status : BitVec 16
  who : Faulter
  /-- PFAULT mode in which it was raised -/
  mode : BitVec 2
  deriving DecidableEq, Repr, Inhabited

/-- A request that left for another package (R365). -/
structure Sent where
  unit : Nat
  ctx : Nat
  id : Nat
  pkg : Nat
  station : Nat
  pod : BitVec 4
  va : Word
  op : RemoteOp
  /-- order of issue among the transfers of its context; of an RSTORE on the own package, blocks of the core that its
  context enqueued earlier: those below this count (R123) -/
  seq : Nat
  after : Nat
  deriving DecidableEq, Repr, Inhabited

/-- What a management command answered (R369): status 0 success, 2 Invalid Input, 3 Busy, and words. -/
structure Reply where
  status : Nat
  words : List Word
  deriving DecidableEq, Repr, Inhabited

/-- A party whose write of a line waits for a lease (R112). -/
inductive Waiter where
  | ctx (unit ctx : Nat)
  | copy (unit : Nat) (handle : BitVec 32)
  | rcopy (unit ctx id : Nat)
  | host
  /-- a write of the host that came while the home waited for its own snoop of the line (R363) -/
  | hostFirst
  | remote (src : Nat)
  | pass (part : Nat)
  /-- the result of a collective of the context -/
  | coll (unit ctx : Nat)
  /-- a write that a scheduler or a duty makes for the partition -/
  | duty (part : Nat)
  deriving DecidableEq, Repr, Inhabited

/-- The memory fabric (R104 to R117). Lines are PA / 64, sectors PA / 16, granules PA / 4,096. -/
structure Fabric where
  pend : List PStore := []
  misses : List Miss := []
  /-- latest lease granted on a line (R112) -/
  leases : FMap Nat := []
  /-- writes other than pending stores that wait on a line: no new lease is granted on it (R112) -/
  waits : List (Nat × Waiter) := []
  /-- sectors that hold an uncorrectable error (R340, R343), ascending -/
  poison : List Nat := []
  /-- L2 lines and the partition of their last writer (R343) -/
  l2 : FMap (BitVec 4) := []
  /-- lines in the write-back buffers of the slices, and their last writers (R109) -/
  wb : FMap (BitVec 4) := []
  /-- device lines the host holds; true when modified (R363) -/
  hostLines : FMap Bool := []
  /-- granules whose bit of the write bitmap is clear, ascending: every bit is set at reset (R352, log entry 62) -/
  unwritten : List Nat := []
  gated : List Agent := []
  sweeping : List Agent := []
  monSeq : Nat := 0
  useSeq : Nat := 0
  deriving DecidableEq, Repr

/-- A write of a privileged register in the control cycle `at_`: number and instance, the value before the cycle's
first write, and the writer's place in the order of R332. -/
structure SetNote where
  num : Nat
  inst : Nat
  at_ : Nat
  old : Word
  key : Nat
  deriving DecidableEq, Repr, Inhabited

/-- Package-wide state (R362 to R376). -/
structure Pkg where
  /-- bring-up: PHASE, CODE (R373) -/
  phase : BitVec 4 := 1
  code : Byte := 0
  power : BitVec 16 := 0
  temp : Byte := 0
  throt : BitVec 3 := 0
  /-- link configuration record (R367) -/
  link : Word := 0x400_8000#64
  /-- stations that have failed (R366) -/
  downSt : BitVec 12 := 0
  /-- entry of the firmware image the management cores run; the image is that of slot 1 (R372) -/
  fwEntry : Word := 0
  slot1 : Bool := false
  /-- TIME of the last update of the throttle level (R375) -/
  lastThrot : Option Nat := .none
  /-- power removed from the compute dies (R376) -/
  faulted : Bool := false
  hostLink : Bool := true
  /-- the partitions' host accesses that were outstanding when the link failed are told at restore -/
  hostTell : Bool := false
  /-- sectors of host memory that accesses outstanding at the failure found poisoned, until the link is restored
  (R364) -/
  hostLost : List Nat := []
  /-- number of times each MSI-X vector was raised (R362) -/
  msix : Vector Nat 4 := Vector.replicate 4 0
  outq : List OutMsg := []
  outSeq : Word := 0
  /-- writes of privileged registers in the last control cycle that had one (R332) -/
  setps : List SetNote := []
  /-- doublewords of command 0xC00A that firmware has been told of -/
  inq : List (Word × Word) := []
  reply : Option Reply := .none
  /-- a command of the mailbox has not been answered yet: the next one waits (R369, R371) -/
  command : Bool := false
  pfaults : FMap PageFault := []
  /-- the host log ring: records of partitions in ELOG mode 00, oldest first (R297) -/
  hostLog : List ErrRec := []
  nextFault : Nat := 1
  sent : List Sent := []
  /-- RSTOREs on the own package that have yet to be performed at its home slices, oldest first (R260) -/
  inside : List Sent := []
  /-- what left for other packages, newest first: package, POD, address there, operation -/
  wire : List (Nat × BitVec 4 × Word × RemoteOp) := []
  /-- replies to other packages: package, ok, value -/
  answers : List (Nat × Bool × Word) := []
  deriving DecidableEq, Repr

/-- For whom an instruction executes: a context of a core. For a block word it is context 0. -/
structure Issuer where
  unit : Nat
  ctx : Nat
  deriving DecidableEq, Repr, Inhabited

/-- The state of the package. -/
structure State where
  mem : Memory
  fab : Fabric
  cores : FMap Core
  dies : FMap Die
  rings : FMap Ring
  /-- by ring x 18 + slot -/
  slots : FMap PSlot
  parts : FMap Part
  /-- by partition x 4 + queue -/
  queues : FMap Queue
  strands : FMap Strand
  pkg : Pkg
  /-- control cycles since package reset; TIME is this divided by 16 (R4, R374) -/
  now : Nat
  cur : Issuer
  /-- counter of the free values (the model's own field) -/
  fresh : Nat
  /-- turns to come, before those of `Config.schedule` (the model's own field: the inputs) -/
  agenda : List Slot
  deriving DecidableEq, Repr

/-- Why the model stops. No instruction and no event of the opcode table ends in one of these: they
are for turns that no agent of the part could take. -/
inductive Fault where
  /-- Raised by `step` for a turn of a core that does not exist. Safe: the part has no such core. -/
  | noSuchCore
  /-- Raised by `step` for an event turn that names a control or block instruction; those issue only
  through a core's own turn. Safe: no such event exists. -/
  | notAnEvent
  deriving DecidableEq, Repr

/-- Why the model refuses an instruction. -/
inductive Refusal where
  /-- Raised by an arm of `exec` for an instruction that has no meaning yet. Safe: nothing runs. -/
  | notModelled (mnemonic : String)
  deriving DecidableEq, Repr

/-- The remap record of a ring without repairs (R345): core c in slot c, slots 16 and 17 reserve. -/
def Ring.remapReset : BitVec 128 := 0x5000000007b9ac5a928398a418820#128

/-- A core, die, ring, slot, partition and queue after reset. -/
def Core.reset : Core := {}
def Die.reset : Die := {}
def Ring.reset : Ring := { remap := Ring.remapReset }
def PSlot.reset : PSlot := {}
def Part.reset : Part := {}
def Queue.reset : Queue := {}

/-- The package right after package reset: phase 1 begins (R372, R374). -/
def State.reset : State where
  mem := []
  fab := {}
  cores := []
  dies := []
  rings := []
  slots := []
  parts := []
  queues := []
  strands := []
  pkg := {}
  now := 0
  cur := ⟨0, 0⟩
  fresh := 0
  agenda := []

end Sys2Proof.Machine
end

