-- ==== Sys2Proof/Machine/Mem.lean ====
section
/-!
DEFINITION. Sparse memory (R105, R107, R302) in one canonical form, and its read and write. Byte order
is decided here (R5).
-/
namespace Sys2Proof.Machine

/-- What a byte reads as when nothing has been written to it: zero. Bring-up clears device memory to
zero (R372); for host memory and scratchpads see log entry 6. -/
def Memory.unlisted : Byte := 0

/-- The byte at `a`. -/
def Memory.read : Memory → Nat → Byte
  | [], _ => Memory.unlisted
  | (k, b) :: m, a => if k = a then b else Memory.read m a

/-- The `n` bytes from `a` up. -/
def Memory.readN (m : Memory) (a : Nat) : Nat → List Byte
  | 0 => []
  | n + 1 => m.read a :: Memory.readN m (a + 1) n

/-- The cells of a run of bytes from `a` up; bytes that equal the unlisted value are not listed. -/
def Memory.cells : Nat → List Byte → Memory
  | _, [] => []
  | a, b :: bs => if b = Memory.unlisted then Memory.cells (a + 1) bs else (a, b) :: Memory.cells (a + 1) bs

/-- `m` with `bytes` written from `a` up. -/
def Memory.writeN (m : Memory) (a : Nat) (bytes : List Byte) : Memory :=
  m.filter (fun c => decide (c.1 < a)) ++ Memory.cells a bytes ++
    m.filter (fun c => decide (a + bytes.length ≤ c.1))

/-- Every address is above `lo`, addresses rise strictly, and no byte equals the unlisted value. -/
def Memory.wfFrom : Nat → Memory → Bool
  | _, [] => true
  | lo, (a, b) :: m => decide (lo ≤ a) && decide (b ≠ Memory.unlisted) && Memory.wfFrom (a + 1) m

/-- The canonical form: equal memories are equal data. -/
def Memory.wf (m : Memory) : Bool := Memory.wfFrom 0 m

/-- The little-endian number in the `n` bytes from `a` up. -/
def Memory.readLe (m : Memory) (a n : Nat) : Nat := (bytesBV (8 * n) (m.readN a n)).toNat

end Sys2Proof.Machine
end

