-- ==== Sys2Proof/Machine/Access.lean ====
section
/-!
DEFINITION. Accessors: where each piece of state lives, one reader and one writer for it; the names of
cores, rings, slots and partitions (R2, R286, R345); TIME and CYCLE (R4, R82).
-/
namespace Sys2Proof.Machine

/-! ## Vectors indexed by number -/

/-- Entry `i`, or `d` beyond the end. -/
def vget {α : Type} {n : Nat} (v : Vector α n) (d : α) (i : Nat) : α := v[i]?.getD d

/-- `v` with entry `i` replaced; unchanged beyond the end. -/
def vset {α : Type} {n : Nat} (v : Vector α n) (i : Nat) (a : α) : Vector α n := v.setIfInBounds i a

/-! ## Top-level parts of the state -/

def State.setMem (s : State) (m : Memory) : State := { s with mem := m }
def State.setFab (s : State) (f : Fabric) : State := { s with fab := f }
def State.setPkg (s : State) (p : Pkg) : State := { s with pkg := p }
def State.setCur (s : State) (i : Issuer) : State := { s with cur := i }
def State.core (s : State) (u : Nat) : Core := s.cores.get Core.reset u
def State.setCore (s : State) (u : Nat) (c : Core) : State := { s with cores := s.cores.set u c }
def State.die (s : State) (d : Nat) : Die := s.dies.get Die.reset d
def State.setDie (s : State) (d : Nat) (x : Die) : State := { s with dies := s.dies.set d x }
def State.ring (s : State) (r : Nat) : Ring := s.rings.get Ring.reset r
def State.setRing (s : State) (r : Nat) (x : Ring) : State := { s with rings := s.rings.set r x }
def State.pslot (s : State) (k : Nat) : PSlot := s.slots.get PSlot.reset k
def State.setPslot (s : State) (k : Nat) (x : PSlot) : State := { s with slots := s.slots.set k x }
def State.part (s : State) (p : Nat) : Part := s.parts.get Part.reset p
def State.setPart (s : State) (p : Nat) (x : Part) : State := { s with parts := s.parts.set p x }
def State.queue (s : State) (q : Nat) : Queue := s.queues.get Queue.reset q
def State.setQueue (s : State) (q : Nat) (x : Queue) : State := { s with queues := s.queues.set q x }
def State.strand? (s : State) (h : Nat) : Option Strand := s.strands.find? h
def State.setStrand (s : State) (h : Nat) (x : Strand) : State := { s with strands := s.strands.set h x }
def State.delStrand (s : State) (h : Nat) : State := { s with strands := s.strands.del h }

/-- A fresh free value: the state with the counter advanced. -/
def State.tick (s : State) : State := { s with fresh := s.fresh + 1 }

/-! ## Contexts and cores -/

def Core.ctx (c : Core) (i : Nat) : Ctx := vget c.ctxs {} i
def Core.setCtx (c : Core) (i : Nat) (x : Ctx) : Core := { c with ctxs := vset c.ctxs i x }
def State.ctx (s : State) (u i : Nat) : Ctx := (s.core u).ctx i
def State.setCtx (s : State) (u i : Nat) (x : Ctx) : State := s.setCore u ((s.core u).setCtx i x)
def State.modCtx (s : State) (u i : Nat) (f : Ctx → Ctx) : State := s.setCtx u i (f (s.ctx u i))
def State.modCore (s : State) (u : Nat) (f : Core → Core) : State := s.setCore u (f (s.core u))
def State.modFab (s : State) (f : Fabric → Fabric) : State := s.setFab (f s.fab)
def State.modPart (s : State) (p : Nat) (f : Part → Part) : State := s.setPart p (f (s.part p))
def State.modDie (s : State) (d : Nat) (f : Die → Die) : State := s.setDie d (f (s.die d))
def State.modRing (s : State) (r : Nat) (f : Ring → Ring) : State := s.setRing r (f (s.ring r))
def State.modQueue (s : State) (q : Nat) (f : Queue → Queue) : State := s.setQueue q (f (s.queue q))
def State.modPslot (s : State) (k : Nat) (f : PSlot → PSlot) : State := s.setPslot k (f (s.pslot k))
def State.modPkg (s : State) (f : Pkg → Pkg) : State := s.setPkg (f s.pkg)
def State.modStrand (s : State) (h : Nat) (f : Strand → Strand) : State :=
  match s.strand? h with
  | some x => s.setStrand h (f x)
  | none => s

/-- The context for which an instruction executes. -/
def State.me (s : State) : Ctx := s.ctx s.cur.unit s.cur.ctx
def State.modMe (s : State) (f : Ctx → Ctx) : State := s.modCtx s.cur.unit s.cur.ctx f
/-- The core on which it executes. -/
def State.here (s : State) : Core := s.core s.cur.unit
def State.modHere (s : State) (f : Core → Core) : State := s.modCore s.cur.unit f
/-- The vector context of that core. -/
def State.vc (s : State) : VCtx := s.here.v
def State.setVc (s : State) (v : VCtx) : State := s.modHere fun c => { c with v := v }

/-- A register of a context: X0 reads as zero (R68). -/
def Ctx.reg (c : Ctx) (r : Nat) : Word := if r = 0 then 0 else vget c.x 0 r
/-- A write of a register: a write of X0 is discarded (R68). -/
def Ctx.setReg (c : Ctx) (r : Nat) (v : Word) : Ctx := if r = 0 then c else { c with x := vset c.x r v }

/-! ## Names of cores (R2, R318) -/

/-- Number of logical cores, and of units in all. -/
def numCores : Nat := 1024
def numUnits : Nat := 1040
def isMgmt (u : Nat) : Bool := decide (numCores ≤ u) && decide (u < numUnits)
/-- Where the transfers of a strand that has been pre-empted stand until it is restored, for each span
index: numbers above the units name no core (R251). -/
def parkUnit (die node i : Nat) : Nat := 2048 + (8192 * die + node) * 16 + i
/-- Die of a unit. -/
def dieOf (u : Nat) : Nat :=
  if u < numCores then u / 128 else if u < 2048 then (u - numCores) / 2 else (u - 2048) / 131072
/-- Ring of a logical core, 0 to 63. -/
def ringOf (u : Nat) : Nat := u / 16
/-- Physical slot that a remap record gives logical core `c` of its ring (R345). -/
def remapSlot (m : BitVec 128) (c : Nat) : Nat := bits m (5 * c) 5
/-- State of slot `k` in a remap record: 0 in service, 1 reserve, 2 faulty, 3 retired. -/
def remapState (m : BitVec 128) (k : Nat) : Nat := bits m (80 + 2 * k) 2
def State.slotOf (s : State) (u : Nat) : Nat := remapSlot (s.ring (ringOf u)).remap (u % 16)
/-- Key of a physical slot in `State.slots`; management cores have slots of their own. -/
def State.slotKey (s : State) (u : Nat) : Nat :=
  if u < numCores then ringOf u * 18 + s.slotOf u else 1152 + (u - numCores)
/-- Lowest-numbered reserve slot of a ring, if any (R347). -/
def reserveSlot (m : BitVec 128) (except : List Nat) : Option Nat :=
  (upTo 18).find? fun k => remapState m k == 1 && !except.contains k

/-! ## Partitions (R286) -/

/-- Partition that owns a ring. -/
def State.ringPart (s : State) (r : Nat) : Option Nat :=
  let o := (s.ring r).own
  if o.getLsbD 4 then some (bits o 0 4) else none
def State.partOf (s : State) (u : Nat) : Option Nat := if isMgmt u then none else s.ringPart (ringOf u)
/-- The rings a partition owns, ascending. -/
def State.ringsOf (s : State) (p : Nat) : List Nat := (upTo 64).filter fun r => s.ringPart r == some p
def State.ownsRing (s : State) (p : Nat) : Bool := (upTo 64).any fun r => s.ringPart r == some p
/-- The logical cores of a partition, ascending. -/
def State.coresOf (s : State) (p : Nat) : List Nat :=
  (s.ringsOf p).flatMap fun r => (upTo 16).map fun c => 16 * r + c
/-- The partition for which a context issues: its core's, or the one firmware dispatches for (R289). -/
def State.issuePart (s : State) (u c : Nat) : Nat :=
  if isMgmt u then Config.firmwarePart (8 * u + c) % 16
  else if u < 2048 then (s.partOf u).getD 0
  else
    match (s.die (dieOf u)).nodes.find? ((u - 2048) / 16 % 8192) with
    | some n => n.part
    | none => 0
/-- Duty modes of FNMODE (R286, R297). -/
def Part.launchMode (p : Part) : Nat := bits p.fnmode 0 2
def Part.pfaultMode (p : Part) : Nat := bits p.fnmode 2 2
def Part.evacMode (p : Part) : Nat := bits p.fnmode 4 2
def Part.wdogMode (p : Part) : Nat := bits p.fnmode 6 2
def Part.elogMode (p : Part) : Nat := bits p.fnmode 8 2
def Part.ckptMode (p : Part) : Nat := bits p.fnmode 10 2
def Part.tag (p : Part) : BitVec 12 := p.astag.setWidth 12

/-- The core is being vaulted: what is addressed to it is held (R348). -/
def State.vaulting (s : State) (u : Nat) : Bool :=
  !isMgmt u &&
    match (s.ring (ringOf u)).vault with
    | some v => v.core == u
    | none => false

/-- Placement and launch pickup run in the partition: it is in RUN or WAIT (R300, R301). -/
def State.placing (s : State) (p : Nat) : Bool :=
  match (s.part p).recov with
  | .run => true
  | .wait _ => true
  | .drain => false
  | .drained => false

/-! ## Time (R4, R82, R374) -/

/-- TIME in ticks. -/
def State.time (s : State) : Nat := s.now / 16
/-- CYCLE of a unit's slot: it counts while the slot is in service. -/
def State.cycleOf (s : State) (u : Nat) : Nat :=
  let p := s.pslot (s.slotKey u)
  p.cycle + (s.now - p.since)

/-! ## Spans and strands (R11) -/

/-- Key of the strand whose span includes the core. -/
def State.strandOf (s : State) (u : Nat) : Option Nat := (s.core u).strand
/-- Cores of a strand's span. -/
def Strand.cores (h : Nat) (x : Strand) : List Nat := (upTo x.size).map (h + ·)
/-- The region of the strand that owns the core, if it is inside one. -/
def State.regionOf (s : State) (u : Nat) : Option Region :=
  match (s.core u).strand with
  | none => none
  | some h =>
    match s.strand? h with
    | none => none
    | some x => x.region

/-- The core is inside a FORKI region, whose legs are contexts of their own (R62, R133). -/
def State.indepLeg (s : State) (u : Nat) : Bool :=
  (s.core u).leg.isSome &&
    match s.regionOf u with
    | some r => r.indep
    | none => false

/-- Key of a context's stream in program order: a strand context keeps it when the strand moves (R15). -/
def State.ownerOf (s : State) (u c : Nat) : Nat :=
  if c = 0 && !s.indepLeg u then ((s.core u).strand).getD u else u

/-- Context 0 of a core runs a leg of a FORK region that is not the runner (R59). -/
def State.speculative (s : State) (u c : Nat) : Bool :=
  c == 0 &&
    match (s.core u).leg, s.regionOf u with
    | some l, some r => !r.indep && !(l.k == r.runner && r.arrived)
    | _, _ => false

/-- Context 0 of a core runs the runner of a FORK region. -/
def State.isRunner (s : State) (u c : Nat) : Bool :=
  c == 0 &&
    match (s.core u).leg, s.regionOf u with
    | some l, some r => !r.indep && l.k == r.runner && r.arrived
    | _, _ => false

/-- Its stores go to lines of its own in the leg cache (R49): a leg that has not committed early. -/
def State.versioned (s : State) (u c : Nat) : Bool :=
  c == 0 &&
    match (s.core u).leg, s.regionOf u with
    | some l, some r => !r.indep && !l.early
    | _, _ => false

/-- Context 0 of a core runs a leg of a region. -/
def State.inLeg (s : State) (u c : Nat) : Bool := c == 0 && (s.core u).leg.isSome

/-! ## Events, interrupts and records -/

/-- Set a bit of a die's event set (R332). -/
def State.setEvent (s : State) (d : Nat) (bit : Nat) : State :=
  s.modDie d fun x => { x with events := putBit x.events bit true }

/-- Raise an MSI-X vector (R362). -/
def State.raiseMsix (s : State) (v : Nat) : State :=
  s.modPkg fun p => { p with msix := vset p.msix v (vget p.msix 0 v + 1) }

/-- Append a record to a log of 256; when it is full, drop it and count (R338). The count of dropped
records goes into word 6 of the next record that is stored. -/
def ErrLog.push (l : ErrLog) (r : ErrRec) : ErrLog :=
  if l.recs.length < 256 then
    { recs := l.recs ++ [if l.dropped = 0 then r else vset r 6 (BitVec.ofNat 64 l.dropped)], dropped := 0 }
  else { l with dropped := l.dropped + 1 }

/-- The first doubleword of an error record (R338). -/
def errWord0 (kind part die ring slot lcore unit : Nat) : Word :=
  1#1 ++ 0#15 ++ BitVec.ofNat 8 kind ++ BitVec.ofNat 4 part ++ BitVec.ofNat 3 die ++ BitVec.ofNat 3 ring ++
    BitVec.ofNat 5 slot ++ BitVec.ofNat 10 lcore ++ 0#7 ++ BitVec.ofNat 8 unit

/-- A record of eight doublewords; words 0, 1, 2, 3, 4, 5 and 7 (R339). -/
def errRec (w0 w1 w2 w3 w4 w5 w7 : Word) : ErrRec := #v[w0, w1, w2, w3, w4, w5, 0, w7]

/-- Write a record to the log of its partition, or in ELOG mode 00 to the host log ring (R297), when it
charges a partition, and to the log of its die; set bit 2 of the die's event set (R332, R338). -/
def State.logErr (s : State) (part : Option Nat) (d : Nat) (r : ErrRec) : State :=
  let s := match part with
    | some p =>
      if (s.part p).elogMode = 0 then s.modPkg fun k => { k with hostLog := k.hostLog ++ [r] }
      else s.modPart p fun x => { x with log := x.log.push r }
    | none => s
  (s.modDie d fun x => { x with log := x.log.push r }).setEvent d 2

/-- ORIGIN of the task of the strand on a core, or 0 (R339). -/
def State.originOf (s : State) (u : Nat) : Word :=
  match (s.core u).strand with
  | none => 0
  | some h =>
    match s.strand? h with
    | none => 0
    | some x =>
      match (s.die x.node.1).nodes.find? x.node.2 with
      | some n => n.origin
      | none => 0

/-- The record of an event on a core: kind, unit code and words 2, 3, 5 and 7. -/
def State.coreRec (s : State) (u kind unit : Nat) (w2 w3 w5 w7 : Word) : ErrRec :=
  let w0 :=
    if isMgmt u then errWord0 kind 0 (dieOf u) 0 0x1F 0x3FF unit
    else errWord0 kind ((s.partOf u).getD 0) (dieOf u) (ringOf u % 8) (s.slotOf u) u unit
  errRec w0 (BitVec.ofNat 64 s.time) w2 w3 (s.originOf u) w5 w7

/-! ## The outbound mailbox queue (R370) -/

/-- Queue two doublewords to the host when there is room; MSI-X vector 1 tells it. -/
def State.pushOut (s : State) (w0 w1 : Word) : State :=
  (s.modPkg fun p => { p with outq := p.outq ++ [⟨p.outSeq, w0, w1⟩], outSeq := p.outSeq + 1 }).raiseMsix 1

def State.outFull (s : State) : Bool := decide (16 ≤ s.pkg.outq.length)

/-- Notes of the partitions that wait for room enter the queue, lowest partition first (R370). -/
def State.flushNotes : Nat → State → State
  | 0, s => s
  | fuel + 1, s =>
    if s.outFull then s
    else
      match (upTo 16).find? fun p => !(s.part p).notes.isEmpty with
      | none => s
      | some p =>
        match (s.part p).notes with
        | [] => s
        | (a, b) :: rest => State.flushNotes fuel ((s.modPart p fun x => { x with notes := rest }).pushOut a b)

/-- A page-fault record or a notification: it enters the queue, or waits in its partition (R370). -/
def State.notify (s : State) (p : Nat) (w0 w1 : Word) : State :=
  State.flushNotes 17 (s.modPart p fun x => { x with notes := x.notes ++ [(w0, w1)] })

/-- Enter DRAIN, or WAIT for the watchdog's duty to be done (R300, R342). What is raised in RUN completes under
the WDOG mode of that moment (R297). -/
def State.setRecovery (s : State) (p : Nat) (r : Recovery) : State :=
  s.modPart p fun x =>
    { x with recov := r, drainMode := if x.recov = .run then BitVec.ofNat 2 x.wdogMode else x.drainMode }

/-- An unrecoverable error of a partition: DRAIN at once, from RUN or WAIT (R342), under the WDOG mode in which the
error is raised (R297). The partition event reaches the host through MSI-X vector 2 (R362). -/
def State.unrecoverable (s : State) (p : Nat) : State :=
  match (s.part p).recov with
  | .run => (s.setRecovery p .drain).raiseMsix 2
  | .wait _ => ((s.setRecovery p .drain).modPart p fun x => { x with drainMode := BitVec.ofNat 2 x.wdogMode }).raiseMsix 2
  | .drain => s
  | .drained => s

end Sys2Proof.Machine
end

