-- ==== Sys2Proof/Machine/Elements.lean ====
section
/-!
DEFINITION. The elements that block words work on (R69 to R79, R150 to R152, R193 to R195): element types and
shapes, reading and writing elements of vector registers with their poison and save tags, scale bytes,
governing predicates, and the scalar registers that a word names (R26, R44).
-/
namespace Sys2Proof.Machine

/-! ## Element types (R152, R194) -/

/-- Bits of an element, by type code; MXFP6 elements take a byte (R69). -/
def tyBits (ty : BitVec 5) : Nat :=
  match ty.toNat with
  | 2 | 3 | 8 | 9 => 16
  | 4 | 5 | 10 => 32
  | 6 | 7 | 11 => 64
  | 16 => 4
  | _ => 8

/-- Bytes of an element of a type that has whole bytes. -/
def tyBytes (ty : BitVec 5) : Nat := tyBits ty / 8

def isInt (ty : BitVec 5) : Bool := decide (ty.toNat < 8)
def isSigned (ty : BitVec 5) : Bool := isInt ty && ty.toNat % 2 == 0
def isFloat (ty : BitVec 5) : Bool := decide (8 ≤ ty.toNat) && decide (ty.toNat ≤ 11)
def isMx (ty : BitVec 5) : Bool := decide (12 ≤ ty.toNat) && decide (ty.toNat ≤ 17)
def isQ (ty : BitVec 5) : Bool := ty.toNat == 19 || ty.toNat == 20
def isFp4 (ty : BitVec 5) : Bool := ty.toNat == 16
/-- MXFP6: bits [7:6] of the byte are written as zero and ignored (R69). -/
def isFp6 (ty : BitVec 5) : Bool := ty.toNat == 14 || ty.toNat == 15

/-- Meaningful bits of an element. -/
def tyWidth (ty : BitVec 5) : Nat := if isFp6 ty then 6 else tyBits ty

/-- A type code as a field value. -/
def tyN64 : BitVec 5 := 7
def tyN16 : BitVec 5 := 3

/-! ## Shapes (R69 to R71) -/

/-- The active shape and what an operand selects of it. -/
structure Shape where
  rows : Nat
  cols : Nat
  sh : Nat
  slice : Nat
  deriving DecidableEq, Repr

/-- Number of elements of an operand (R71). -/
def Shape.count (h : Shape) : Nat :=
  match h.sh with
  | 1 => h.cols
  | 2 => h.rows
  | _ => h.rows * h.cols

/-- Row and column of element j (R69, R71). -/
def Shape.pos (h : Shape) (j : Nat) : Nat × Nat :=
  match h.sh with
  | 1 => (h.slice, j)
  | 2 => (j, h.slice)
  | _ => (j / h.cols, j % h.cols)

/-- The whole active shape. -/
def Shape.whole (h : Shape) : Shape := { h with sh := 0, slice := 0 }

/-- Operand checks of R70 and R71 for one type. -/
def Shape.bad (h : Shape) (ty : BitVec 5) : Bool :=
  decide (4096 < h.cols * tyBits ty) || (isMx ty && (h.cols % 32 != 0 || h.sh == 2)) ||
    (h.sh == 1 && decide (h.rows ≤ h.slice)) || (h.sh == 2 && decide (h.cols ≤ h.slice))

/-- The oldest block of the queue: the one that runs. -/
def State.block (s : State) : Fetch := s.here.seq.fq.headD default

/-- The shape of a block word: VROWS and VCOLS of its VFETCH (R83) and its sh and SLICE fields. -/
def blockShape (s : State) (f : BlockFields) : Shape :=
  ⟨s.block.vrows.toNat, s.block.vcols.toNat, f.sh.toNat, f.slice.toNat⟩

/-- X[n] as a block sees it: as it was at the block's VFETCH (R26); a carried register that still held its
start value then is the value the leg starts with, a later delivery included (R44). -/
def blockX (s : State) (n : Reg) : Word :=
  if n = 0 then 0
  else if s.block.fresh.getLsbD n.toNat then
    match s.here.leg with
    | some l => vget l.start 0 n.toNat
    | none => vget s.block.x 0 n.toNat
  else vget s.block.x 0 n.toNat

/-- X[vc] of the strand context. -/
def xOperand (s : State) (f : BlockFields) : Word := blockX s f.vc
/-- X[vb], a stride (R222). -/
def xStride (s : State) (f : BlockFields) : Word := blockX s f.vb

/-! ## Elements of a vector register -/

/-- First bit of the element at a row and column. -/
def elemBit (ty : BitVec 5) (p : Nat × Nat) : Nat := 4096 * p.1 + tyBits ty * p.2
/-- Element group of a bit position: 64 bytes of one row (R72). -/
def groupOfBit (b : Nat) : Nat := b / 512

/-- A register image and its poison bits. -/
def VCtx.reg (v : VCtx) (n : BitVec 5) : BitVec 65536 := vget v.v 0 n.toNat
def VCtx.poi (v : VCtx) (n : BitVec 5) : BitVec 128 := vget v.poison 0 n.toNat

/-- Element j of a register image; beyond the operand's count it reads as zero (R71, R215). -/
def elem (im : BitVec 65536) (h : Shape) (ty : BitVec 5) (j : Nat) : Nat :=
  if j < h.count then bits im (elemBit ty (h.pos j)) (tyWidth ty) else 0

/-- Element j lies in a poisoned group. -/
def elemBad (po : BitVec 128) (h : Shape) (ty : BitVec 5) (j : Nat) : Bool :=
  decide (j < h.count) && po.getLsbD (groupOfBit (elemBit ty (h.pos j)))

/-- One element to write: its index, its value, and whether it comes from a poisoned group. -/
structure Put where
  j : Nat
  val : Nat
  bad : Bool := false
  deriving DecidableEq, Repr

/-- Elements of the active shape that lie in a group, for elements of `w` bits. -/
def groupActive (h : Shape) (w g : Nat) : Nat :=
  if h.rows ≤ g / 8 then 0
  else (min (h.cols * w) (512 * (g % 8 + 1)) - 512 * (g % 8)) / w

/-- Groups that a list of elements touches, ascending. -/
def putGroups (h : Shape) (ty : BitVec 5) (l : List Put) : List Nat :=
  l.foldl (fun gs p => insertNat (groupOfBit (elemBit ty (h.pos p.j))) gs) []

/-- Poison bits after the writes (R75): a group that receives a poisoned element is poisoned; one whose
every active byte is written clean is clean; another keeps its bit. -/
def putPoison (h : Shape) (ty : BitVec 5) (l : List Put) (po : BitVec 128) : BitVec 128 :=
  (putGroups h ty l).foldl (fun po g =>
    let here := l.filter fun p => groupOfBit (elemBit ty (h.pos p.j)) == g
    if here.any (·.bad) then putBit po g true
    else if groupActive h (tyBits ty) g ≤ here.length then putBit po g false
    else po) po

/-- The register image after the writes. -/
def putImage (h : Shape) (ty : BitVec 5) (l : List Put) (im : BitVec 65536) : BitVec 65536 :=
  l.foldl (fun im p => putBits im (elemBit ty (h.pos p.j)) (BitVec.ofNat (tyBits ty) (p.val % 2 ^ tyWidth ty))) im

/-- Write elements of a vector register: its image, DIRTY and VALIDROWS (R76), and poison (R75). -/
def VCtx.put (v : VCtx) (n : BitVec 5) (h : Shape) (ty : BitVec 5) (l : List Put) : VCtx :=
  if l.isEmpty then v
  else
    let k := n.toNat
    { v with
      v := vset v.v k (putImage h ty l (v.reg n))
      poison := vset v.poison k (putPoison h ty l (v.poi n))
      vdirty := putBit v.vdirty k true
      validRows := vset v.validRows k (l.foldl (fun m p => putBit m (h.pos p.j).1 true) (vget v.validRows 0 k)) }

/-! ## Scale bytes (R78) -/

/-- Blocks per row of the scale layout: 32 for MXFP4, 16 for the other MX types. -/
def scalePitch (fp4 : Bool) : Nat := if fp4 then 32 else 16
/-- The scale register bound to Vn, and the first byte of its part. -/
def scaleReg (fp4 : Bool) (n : BitVec 5) : Nat := n.toNat / (if fp4 then 4 else 8)
def scaleBase (fp4 : Bool) (n : BitVec 5) : Nat := if fp4 then n.toNat % 4 * 512 else n.toNat % 8 * 256

/-- The scale byte of block b of row i. -/
def VCtx.scale (v : VCtx) (fp4 : Bool) (n : BitVec 5) (i b : Nat) : Nat :=
  bits (vget v.sc 0 (scaleReg fp4 n)) (8 * (scaleBase fp4 n + i * scalePitch fp4 + b)) 8

/-- Write scale bytes: row, block and byte. -/
def VCtx.putScales (v : VCtx) (fp4 : Bool) (n : BitVec 5) (l : List (Nat × Nat × Nat)) : VCtx :=
  if l.isEmpty then v
  else
    let k := scaleReg fp4 n
    { v with
      sc := vset v.sc k (l.foldl (fun m x =>
        putBits m (8 * (scaleBase fp4 n + x.1 * scalePitch fp4 + x.2.1)) (BitVec.ofNat 8 x.2.2)) (vget v.sc 0 k))
      sdirty := putBit v.sdirty k true }

/-- Row and block of block ordinal k of an MX operand. -/
def Shape.block (h : Shape) (k : Nat) : Nat × Nat :=
  if h.sh = 1 then (h.slice, k) else (k / (h.cols / 32), k % (h.cols / 32))

/-! ## Predicates (R77) -/

def VCtx.pred (v : VCtx) (n : BitVec 5) : BitVec 8192 := vget v.p 0 n.toNat

/-- The bit that governs element j: for MXFP4 the bit of its byte. -/
def govBit (ty : BitVec 5) (j : Nat) : Nat := if isFp4 ty then j / 2 else j

/-- Bit j of the governing predicate allows its element (R77, R151). -/
def govOn (v : VCtx) (f : BlockFields) (j : Nat) : Bool :=
  f.pm == 0 || ((v.pred f.pm).getLsbD j != f.pinv)

/-- Element j is active. -/
def active (v : VCtx) (f : BlockFields) (ty : BitVec 5) (j : Nat) : Bool := govOn v f (govBit ty j)

/-- The MX block rule (R195): some block of 32 elements is neither wholly active nor wholly masked. -/
def mixedBlock (v : VCtx) (f : BlockFields) (ty : BitVec 5) (count : Nat) : Bool :=
  f.pm != 0 && (upTo (count / 32)).any fun k =>
    (upTo 32).any fun m => active v f ty (32 * k + m) != active v f ty (32 * k)

/-- Write a predicate register: active bits take the result, masked-off ones follow zm, and bits at or
beyond the count are cleared (R195). -/
def VCtx.putPred (v : VCtx) (n : BitVec 5) (count : Nat) (zm : Bool) (on res : Nat → Bool) : VCtx :=
  let old := v.pred n
  let bit (j : Nat) : Bool := if on j then res j else !zm && old.getLsbD j
  let val := (upTo count).foldl (fun (m : BitVec 8192) j => if bit j then putBit m j true else m) 0
  { v with p := vset v.p n.toNat val, pdirty := putBit v.pdirty n.toNat true }
/-! ## Units that move together (R75, R195, R215) -/

/-- Elements that move together: 32 for an MX type, otherwise one. -/
def unitSize (ty : BitVec 5) : Nat := if isMx ty then 32 else 1
/-- Units of an operand. -/
def units (h : Shape) (ty : BitVec 5) : Nat := h.count / unitSize ty

/-- Destination unit k is active. -/
def unitOn (v : VCtx) (f : BlockFields) (k : Nat) : Bool := active v f f.ty (unitSize f.ty * k)

end Sys2Proof.Machine
end

