-- ==== Sys2Proof/Machine/Translate.lean ====
section
/-!
DEFINITION. Address translation (R302 to R310): the division of the physical space, the three-level
walk, TLB lookup, permissions, and the fault status.
-/
namespace Sys2Proof.Machine

/-- Kinds of access, with the ACC codes of R310. -/
inductive Acc where
  | load
  | store
  | fetch
  | engine
  deriving DecidableEq, Repr

def Acc.code : Acc → Nat
  | .load => 0
  | .store => 1
  | .fetch => 2
  | .engine => 3

/-- A fault status: LEVEL, ACC, KIND (R310). -/
def xStatus (level : Nat) (acc : Acc) (kind : Nat) : BitVec 16 :=
  0#8 ++ BitVec.ofNat 2 level ++ BitVec.ofNat 2 acc.code ++ BitVec.ofNat 4 kind

/-- Device memory: PA 0 to 0xFF_FFFF_FFFF (R302). -/
def isDevMem (pa : Nat) : Bool := decide (pa < 2 ^ 40)
/-- The host window (R302). -/
def isHost (pa : Nat) : Bool := decide (2 ^ 51 ≤ pa) && decide (pa < 2 ^ 52)
/-- A reserved physical address (R302). -/
def isReservedPa (pa : Nat) : Bool := !isDevMem pa && !isHost pa
/-- Home die of a device-memory address (R105). -/
def homeDie (pa : Nat) : Nat := pa / 2 ^ 37 % 8
/-- HBM stack of its die that holds it: PA[8] (R105). -/
def hbmStack (pa : Nat) : Nat := pa / 2 ^ 8 % 2
/-- L2 slice of an address: PA[10:6] XOR PA[15:11] (R105, R125). -/
def sliceOf (pa : Nat) : Nat := (pa / 2 ^ 6 % 32) ^^^ (pa / 2 ^ 11 % 32)

/-- What a valid leaf gives: the page, its attribute and permissions (R304). -/
structure Leaf where
  size : Nat
  ppage : Nat
  attr : Attr
  priv : Bool
  x : Bool
  w : Bool
  deriving DecidableEq, Repr

/-- The physical address of a virtual address in the page. -/
def Leaf.pa (l : Leaf) (va : Nat) : Nat := l.ppage * 2 ^ l.size + va % 2 ^ l.size

/-- Attribute of an entry: `none` for ATTR 11, or ET with another attribute than cacheable (R304). -/
def entryAttr (e : Word) : Option Attr :=
  match bits e 5 2, e.getLsbD 7 with
  | 0, false => some .cacheable
  | 0, true => some .errorTolerant
  | 1, false => some .uncacheable
  | 2, false => some .device
  | _, _ => none

/-- The leaf of an entry, for a page of 2^size bytes. -/
def leafOf (e : Word) (size : Nat) (attr : Attr) : Leaf where
  size := size
  ppage := bits e 0 52 / 2 ^ size
  attr := attr
  priv := e.getLsbD 4
  x := e.getLsbD 3
  w := e.getLsbD 2

/-- Reserved bits of an entry are zero (R304). -/
def entryReservedOk (e : Word) : Bool := zeroBits e 52 12 && zeroBits e 9 9

/-- The line is host memory and the host link is down; accesses that were outstanding at the failure complete
(R364). -/
def State.hostDown (s : State) (line : Nat) : Bool :=
  isHost (64 * line) && !s.pkg.hostLink && !s.pkg.hostLost.any fun k => k / 4 == line

/-- The host holds the line modified, or cannot be reached: a read waits (R363, R364). -/
def State.hostKeeps (s : State) (line : Nat) : Bool := s.fab.hostLines.find? line == some true || s.hostDown line

/-- One aligned 8-byte read of the walker at the home slice, or over CXL.cache (R305). The error is the
kind of R310: 7 for an uncorrectable error, and 0, which no status holds, while the read waits for the
host. -/
def walkRead (s : State) (pa : Nat) : Except Nat Word :=
  if s.hostKeeps (pa / 64) then .error 0
  else if s.fab.poison.contains (pa / 16) then .error 7
  else .ok (BitVec.ofNat 64 (s.mem.readLe pa 8))

/-- Level 3 of the walk. Faults are the pair of level and kind. -/
def walk3 (s : State) (va : Nat) (table : Nat) : Except (Nat × Nat) Leaf :=
  match walkRead s (table + va / 2 ^ 18 % 2 ^ 15 * 8) with
  | .error k => .error (3, k)
  | .ok e =>
    if !e.getLsbD 0 then .error (3, 2)
    else if !entryReservedOk e || e.getLsbD 1 then .error (3, 3)
    else
      match entryAttr e with
      | none => .error (3, 3)
      | some attr =>
        if e.getLsbD 8 then
          if bits e 18 7 ≠ va / 2 ^ 18 % 2 ^ 7 then .error (3, 3)
          else if isReservedPa (bits e 25 27 * 2 ^ 25) then .error (3, 1)
          else .ok (leafOf e 25 attr)
        else if isReservedPa (bits e 18 34 * 2 ^ 18) then .error (3, 1)
        else .ok (leafOf e 18 attr)

/-- Level 2: a table pointer or an 8 GiB block. -/
def walk2 (s : State) (va : Nat) (table : Nat) : Except (Nat × Nat) Leaf :=
  match walkRead s (table + va / 2 ^ 33 % 2 ^ 15 * 8) with
  | .error k => .error (2, k)
  | .ok e =>
    if !e.getLsbD 0 then .error (2, 2)
    else if !entryReservedOk e then .error (2, 3)
    else if e.getLsbD 1 then
      if isReservedPa (bits e 18 34 * 2 ^ 18) then .error (2, 1) else walk3 s va (bits e 18 34 * 2 ^ 18)
    else
      match entryAttr e with
      | none => .error (2, 3)
      | some attr =>
        if !zeroBits e 18 15 then .error (2, 3)
        else if isReservedPa (bits e 33 19 * 2 ^ 33) then .error (2, 1)
        else .ok (leafOf e 33 attr)

/-- The walk of R305 through a partition's tables. -/
def walk (s : State) (p : Nat) (va : Nat) : Except (Nat × Nat) Leaf :=
  let b := (s.part p).ptbase
  let l1 := bits b 11 41 * 2 ^ 11
  if !b.getLsbD 0 then .error (1, 2)
  else if isReservedPa l1 then .error (1, 1)
  else
    match walkRead s (l1 + va / 2 ^ 48 % 2 ^ 8 * 8) with
    | .error k => .error (1, k)
    | .ok e =>
      if !e.getLsbD 0 then .error (1, 2)
      else if !entryReservedOk e || !e.getLsbD 1 then .error (1, 3)
      else if isReservedPa (bits e 18 34 * 2 ^ 18) then .error (1, 1)
      else walk2 s va (bits e 18 34 * 2 ^ 18)

/-- The entry holds a translation of the address for the tag (R307). -/
def TlbEntry.hit (t : TlbEntry) (tag : BitVec 12) (va : Nat) : Bool :=
  t.tag == tag && t.vpage == va / 2 ^ t.size

def TlbEntry.leaf (t : TlbEntry) : Leaf := ⟨t.size, t.ppage, t.attr, t.priv, t.x, t.w⟩

/-- The leaf for an address: the core's TLB, then its die's, then a walk (R307). With EN 0 every access
takes a not-valid fault (R303). -/
def State.leafFor (s : State) (u p va : Nat) : Except (Nat × Nat) Leaf :=
  let tag := (s.part p).tag
  if !(s.part p).ptbase.getLsbD 0 then .error (1, 2)
  else
  match (s.core u).tlb.find? (·.hit tag va) with
  | some t => .ok t.leaf
  | none =>
    match (s.die (dieOf u)).tlb.find? (·.hit tag va) with
    | some t => .ok t.leaf
    | none => walk s p va

/-- A core TLB with one more entry of 64; a victim makes room (R307). -/
def addTlb (l : List TlbEntry) (victim : Nat) (t : TlbEntry) : List TlbEntry :=
  if l.length < 64 then t :: l else t :: listDel l (victim % 64)

/-- Set of an entry in a shared TLB of 2,048 sets of 8 ways (R307): by the low bits of its page number, which the
specification leaves open (DESIGN CHOICE, log entry 76). -/
def TlbEntry.set (t : TlbEntry) : Nat := t.vpage % 2048

/-- A shared TLB with one more entry; in a full set a victim makes room (R307). -/
def addWay (l : List TlbEntry) (victim : Nat) (t : TlbEntry) : List TlbEntry :=
  let ways := l.filter fun x => x.set == t.set
  if ways.length < 8 then t :: l
  else t :: l.filter fun x => ways[victim % 8]? != some x

/-- The entry that a leaf gives for an address. -/
def Leaf.entry (l : Leaf) (tag : BitVec 12) (va : Nat) : TlbEntry :=
  ⟨tag, l.size, va / 2 ^ l.size, l.ppage, l.attr, l.priv, l.x, l.w⟩

/-- An entry goes into the TLB of core `u`; which entry it replaces is free (log entry 4). -/
def fillCore (s : State) (u : Nat) (t : TlbEntry) : State :=
  (s.modCore u fun c => { c with tlb := addTlb c.tlb (Config.freeNat s.fresh) t }).tick

/-- An entry goes into the shared TLB of a die. -/
def fillDie (s : State) (d : Nat) (t : TlbEntry) : State :=
  (s.modDie d fun x => { x with tlb := addWay x.tlb (Config.freeNat s.fresh) t }).tick

/-- An access to an address has been translated for core `u`: the translation that it used stands in the
core's TLB from then on, and in its die's when a walk gave it (R306, R307). The TLB of a core that is being
vaulted takes nothing (R309). -/
def State.fillTlb (s : State) (u p : Nat) (va : Word) : State :=
  let tag := (s.part p).tag
  if isMgmt u || s.vaulting u || (s.core u).tlb.any (·.hit tag va.toNat) then s
  else
    match (s.die (dieOf u)).tlb.find? (·.hit tag va.toNat) with
    | some t => fillCore s u t
    | none =>
      match walk s p va.toNat with
      | .error _ => s
      | .ok l => fillDie (fillCore s u (l.entry tag va.toNat)) (dieOf u) (l.entry tag va.toNat)

/-- Permission faults after the walk, in the order of R310. `write` is a store, or an engine's
destination. -/
def Leaf.permit (l : Leaf) (priv write fetch : Bool) : Option Nat :=
  if l.priv && !priv then some 6
  else if fetch && !l.x then some 5
  else if write && !l.w then some 4
  else none

/-- A translated access: physical address and attribute. -/
structure Target where
  pa : Nat
  attr : Attr
  deriving DecidableEq, Repr

/-- Translate an address for a party of partition `p` on unit `u`. A management core's addresses are
physical (log entry 7). The error is the fault status of R310. -/
def State.translate (s : State) (u p : Nat) (priv : Bool) (acc : Acc) (write : Bool) (va : Word) :
    Except (BitVec 16) Target :=
  if isMgmt u then
    if 2 ^ 52 ≤ va.toNat || isReservedPa va.toNat then .error (xStatus 0 acc 1)
    else .ok ⟨va.toNat, .cacheable⟩
  else if 2 ^ 56 ≤ va.toNat then .error (xStatus 0 acc 1)
  else
    match s.leafFor u p va.toNat with
    | .error (level, kind) => .error (xStatus level acc kind)
    | .ok l =>
      match l.permit priv write (acc == .fetch) with
      | some k => .error (xStatus 0 acc k)
      | none => .ok ⟨l.pa va.toNat, l.attr⟩

/-- Pages on which lines may be cached (R116). -/
def Attr.cached : Attr → Bool
  | .cacheable => true
  | .errorTolerant => true
  | .uncacheable => false
  | .device => false

/-- A party of the device, other than a context, reaches a virtual address of a partition's space. -/
def State.deviceXlate (s : State) (p : Nat) (write : Bool) (va : Word) : Except (BitVec 16) Target :=
  if 2 ^ 56 ≤ va.toNat then .error (xStatus 0 .engine 1)
  else
    match walk s p va.toNat with
    | .error (level, kind) => .error (xStatus level .engine kind)
    | .ok l =>
      match l.permit true write false with
      | some k => .error (xStatus 0 .engine k)
      | none => .ok ⟨l.pa va.toNat, l.attr⟩

end Sys2Proof.Machine
end

