-- ==== Sys2Proof/Machine/Legs.lean ====
section
/-!
DEFINITION. Legs of a forked region: the state a leg starts with (R43, R44), squash and restart (R54),
store broadcasts (R51).
-/
namespace Sys2Proof.Machine

/-- Register numbers whose bit is set, ascending. -/
def regsIn (m : BitVec 32) : List Nat := (upTo 32).filter fun n => m.getLsbD n

/-- Scratchpad offset of the i-th snapshot register, stacked downward from 0x8_0000 (R42). -/
def snapAddr (i : Nat) : Nat := 0x80000 - 0x2000 * (i + 1)

/-- Lowest offset of the snapshot area of a core; 0x8_0000 when there is none. -/
def Core.snapBase (c : Core) : Nat := 0x80000 - 0x2000 * c.snaps

/-- The FORK-time contents of the VCARRY registers, from the snapshot area (R42, R43). -/
def reloadSnaps (sp : Memory) (regs : List Nat) : Vector (BitVec 65536) 32 :=
  (regs.zipIdx).foldl (fun v (r, i) => vset v r (bytesBV 65536 (sp.readN (snapAddr i) 8192)))
    (Vector.replicate 32 0)

/-- Rows that a reload makes valid and dirty tags that it sets: the registers of VCARRY. -/
def reloadTags (regs : List Nat) : Vector (BitVec 16) 32 :=
  regs.foldl (fun v r => vset v r (BitVec.allOnes 16)) (Vector.replicate 32 0)

/-- The vector context of a leg at its start (R43). -/
def Region.startVc (r : Region) (sp : Memory) : VCtx :=
  { v := reloadSnaps sp (regsIn r.vcarry), vdirty := r.vcarry, validRows := reloadTags (regsIn r.vcarry),
    vrows := r.vrows, vcols := r.vcols, mshape := r.mshape, rmode := r.rmode }

/-- First iteration of leg k (R40). -/
def Region.first (r : Region) (k : Nat) : Nat := k * r.legsz
/-- Last iteration of leg k. -/
def Region.last (r : Region) (k : Nat) : Nat := min ((k + 1) * r.legsz) r.n - 1
/-- Registers that the region carries (FORKI ignores CARRYM), other than xind. -/
def Region.carried (r : Region) : BitVec 32 :=
  if r.indep then 0 else r.carrym &&& ~~~(1#32 <<< r.xind.toNat)

/-- xind at the start of leg k. -/
def Region.indAt (r : Region) (k : Nat) : Word := r.base + BitVec.ofNat 64 (r.first k) * r.step

/-- The value that register n starts with in leg k when nothing has been delivered (R43, R44), and
whether it is pending. -/
def Region.startReg (r : Region) (k n : Nat) : Word × Bool :=
  let f := vget r.forkX 0 n
  if n = r.xind.toNat then (r.indAt k, false)
  else if !r.carried.getLsbD n || k = 0 then (f, false)
  else if r.predm.getLsbD n then (f + BitVec.ofNat 64 k * vget r.strides 0 n, false)
  else (f, true)

/-- A leg at its first iteration; `got` are the registers delivered so far and `vals` their values. -/
def Region.newLeg (r : Region) (k : Nat) (got : BitVec 32) (vals : Vector Word 32) (inbox : List Parcel)
    (replays : Nat) : Leg where
  k := k
  i := r.first k
  read := 0
  written := 0
  pending := (upTo 32).foldl (fun m n => putBit m n ((r.startReg k n).2 && !got.getLsbD n)) 0
  start := Vector.ofFn fun n => if got.getLsbD n.val then vget vals 0 n.val else (r.startReg k n.val).1
  delivered := got
  inbox := inbox
  joined := false
  early := false
  replays := replays
  undo := []
  watches := []

/-- Context 0 of a core as leg `l` starts in it (R43). What belongs to the context slot stays: the
send queue and transfers already issued (R252, R259). -/
def Region.startCtx (r : Region) (now : Nat) (old : Ctx) (l : Leg) : Ctx :=
  { old with
    resident := true, stopped := false, pc := r.forkPc + 4, x := l.start, prio := r.prio, priv := false,
    trap := .none, stall := .none, yielded := false, legSub := 0, lastRetire := now / 16,
    legsz := BitVec.ofNat 32 r.legsz, carrym := r.carrym, predm := r.predm, vcarry := r.vcarry, nest := [],
    monitor := .none, reply := .none, finishing := false, barArrived := false, deferred := false }

/-- An empty sequencer; the blocks it held count as ended. -/
def Seqr.cleared (q : Seqr) : Seqr := { fin := q.fin + q.fq.length }

/-- Put leg `l` of region `r` on core `u`, at its start. -/
def startLegOn (s : State) (u : Nat) (r : Region) (l : Leg) : State :=
  s.modCore u fun c =>
    { c with
      ctxs := vset c.ctxs 0 (r.startCtx s.now (c.ctx 0) l)
      v := { r.startVc c.sp with kennel := c.v.kennel }
      seq := { c.seq.cleared with restarts := c.seq.restarts, restartAt := c.seq.restartAt }
      leg := some l }

/-- Poisoned sectors with those of one granule replaced. -/
def putGranulePoison (l : List Nat) (g : Nat) (bad : BitVec 4) : List Nat :=
  (upTo 4).foldl (fun l i => if bad.getLsbD i then insertNat (4 * g + i) l else l) (l.filter fun k => k / 4 != g)

/-- The scratchpad with one granule as an undo log has it, its poison included. -/
def undoOne (c : Core) (x : Undo) : Core :=
  { c with sp := c.sp.writeN (64 * x.granule) (bvBytes 64 x.old), spPoison := putGranulePoison c.spPoison x.granule x.poison }

/-- The scratchpad with the granules of an undo log restored, newest first (R58). -/
def applyUndo (c : Core) (undo : List Undo) : Core := undo.foldl undoOne c

/-- Squash the leg on core `u` and restart it at its first iteration (R54). `consumed` counts a
squash or replay for a consumed error (R341). -/
def squashOne (s : State) (u : Nat) (consumed : Bool) : State :=
  match (s.core u).leg, s.regionOf u with
  | some l, some r =>
    let l' := r.newLeg l.k l.delivered l.start l.inbox (if consumed then l.replays + 1 else l.replays)
    let s := s.modCore u fun c =>
      { applyUndo c l.undo with
        lines := c.lines.filter fun x => x.st != .L
        copies := c.copies.filter fun x => !(x.ctx == 0 && x.leg == some l.k) }
    let s := s.modFab fun f => { f with misses := f.misses.filter fun m => !(m.unit == u && (m.ctx == 0 || m.ctx == 8)) }
    startLegOn s u r l'
  | _, _ => s

/-- Legs of a strand that are resident: leg number and unit, ascending by unit. -/
def State.legsOf (s : State) (h : Nat) : List (Nat × Nat) :=
  match s.strand? h with
  | none => []
  | some x => (Strand.cores h x).filterMap fun u => (s.core u).leg.map fun l => (l.k, u)

/-- Squash leg k of strand h and every younger resident leg; the runner is never squashed (R52, R54). -/
def squashFrom (s : State) (h k : Nat) (consumed : Bool) : State :=
  (s.legsOf h).foldl (fun s (j, u) =>
    if k ≤ j && s.speculative u 0 then squashOne s u (consumed && j == k) else s) s

/-- Squash the leg on core `u`, with every younger leg, when it is speculative. -/
def squashAt (s : State) (u : Nat) : State :=
  match (s.core u).leg, (s.core u).strand with
  | some l, some h => if s.speculative u 0 then squashFrom s h l.k false else s
  | _, _ => s

/-- Parcels for leg k: into its inbox when it is resident, otherwise held at its core (R45). -/
def sendParcel (s : State) (h k : Nat) (p : Parcel) : State :=
  match (s.legsOf h).find? fun x => x.1 == k with
  | some (_, u) => s.modCore u fun c => { c with leg := c.leg.map fun l => { l with inbox := l.inbox ++ [p] } }
  | none => s.modStrand h fun x => { x with region := x.region.map fun r => { r with early := r.early ++ [(k, p)] } }

/-- A store broadcasts its sectors to the resident legs of the strand that `younger` picks (R51). -/
def broadcastTo (s : State) (h : Nat) (younger : Nat → Bool) (sectors : List Nat) : State :=
  (s.legsOf h).foldl (fun s (j, _) => if younger j then sendParcel s h j (.store sectors) else s) s

/-- A store of the leg on core `u` broadcasts its sectors to every younger resident leg (R51). -/
def broadcast (s : State) (u : Nat) (sectors : List Nat) : State :=
  match (s.core u).leg, (s.core u).strand, s.regionOf u with
  | some l, some h, some r => if r.indep then s else broadcastTo s h (fun j => decide (l.k < j)) sectors
  | _, _, _ => s

/-- Deliver a carried register to the leg on core `u` (R45): whether it must be squashed. -/
def Leg.deliver (l : Leg) (n : Nat) (v : Word) : Leg × Bool :=
  let bad := l.read.getLsbD n && v != vget l.start 0 n
  ({ l with pending := putBit l.pending n false, start := vset l.start n v, delivered := putBit l.delivered n true }, bad)

end Sys2Proof.Machine
end

