-- ==== Sys2Proof/Machine/Fabric.lean ====
section
/-!
DEFINITION. The memory fabric below the instructions: what a context sees at an address (R50, R120 to
R124), writes performed at the home slice (R112, R189, R352, R363), stores on their way there
(R123 to R126), leg-cache lines and misses (R48 to R53, R106, R109).
-/
namespace Sys2Proof.Machine

/-! ## Performing a write at its home -/

/-- TIME has passed the latest lease on the line (R112). -/
def State.leaseOk (s : State) (line : Nat) : Bool :=
  match s.fab.leases.find? line with
  | none => true
  | some e => decide (e + 1 ≤ s.time)

/-- No AMO of core scope owns the line: no other write falls between its read and its own (R130). -/
def State.unlocked (s : State) (line : Nat) : Bool := !s.fab.pend.any fun p => p.locked && p.pa / 64 == line

/-- The host holds no copy of the line, no write of its own to it comes first (R363), and it can be reached. -/
def State.hostFree (s : State) (line : Nat) : Bool :=
  (s.fab.hostLines.find? line).isNone && !s.hostDown line && !(s.fab.waits.contains (line, .hostFirst) && s.unlocked line)

/-- Home die and slice of a line of device memory. -/
def homeSlice (line : Nat) : Nat × Nat := (homeDie (64 * line), sliceOf (64 * line))

/-- Lines of an L2 slice of 2 MiB (R104). -/
def l2Lines : Nat := 32768

/-- The slice takes a written line: it has the line, or a place for it, or a write-back buffer for the line that it
displaces (R109). -/
def Fabric.l2Room (f : Fabric) (line : Nat) : Bool :=
  !isDevMem (64 * line) || (f.l2.find? line).isSome ||
    decide ((f.wb.filter fun x => homeSlice x.1 == homeSlice line).length < 16) ||
    decide ((f.l2.filter fun x => homeSlice x.1 == homeSlice line).length < l2Lines)

/-- A write of the line may be performed at its home now. -/
def State.writable (s : State) (line : Nat) : Bool := s.leaseOk line && s.hostFree line && s.unlocked line && s.fab.l2Room line

/-- The party still waits to write. The host and other packages come again with what they were not granted. -/
def State.waiterLive (s : State) (w : Waiter) : Bool :=
  match w with
  | .ctx u c => (s.ctx u c).resident && ((s.ctx u c).stall == some .order || (s.ctx u c).stall == some .evict)
  | .copy u h => (s.core u).copies.any fun c => c.handle == h
  | .rcopy u c id => (s.ctx u c).rcopies.any fun r => r.id == id
  | .pass p => (s.part p).pass.isSome
  | .host => true
  | .hostFirst => true
  | .remote _ => true
  | .coll u c => !(s.ctx u c).colls.isEmpty
  | .duty p => (s.part p).recov != .drained

/-- A write of the line waits, other than a pending store: the home grants no new lease (R112). -/
def State.lineWaited (s : State) (line : Nat) : Bool := s.fab.waits.any fun x => x.1 == line && s.waiterLive x.2

/-- The party's writes of these lines wait at their homes (R112). -/
def State.waitOn (s : State) (w : Waiter) (lines : List Nat) : State :=
  match lines.filter fun k => !s.writable k && !s.fab.waits.contains (k, w) with
  | [] => s
  | l => s.modFab fun f => { f with waits := f.waits ++ l.map fun k => (k, w) }

/-- Lines that a run of bytes touches. -/
def linesOf (pa n : Nat) : List Nat :=
  if n = 0 then [] else (upTo ((pa + n - 1) / 64 - pa / 64 + 1)).map (pa / 64 + ·)

/-- Sectors that a run of bytes touches. -/
def sectorsOf (pa n : Nat) : List Nat :=
  if n = 0 then [] else (upTo ((pa + n - 1) / 16 - pa / 16 + 1)).map (pa / 16 + ·)

/-- Poison after a write: a sector wholly covered, or on an error-tolerant page, is clean (R117). -/
def clearPoison (poison : List Nat) (pa n : Nat) (et : Bool) : List Nat :=
  poison.filter fun k => !((sectorsOf pa n).contains k && (et || (decide (pa ≤ 16 * k) && decide (16 * k + 16 ≤ pa + n))))

/-- On an error-tolerant page, a poisoned sector that a write covers in part is first filled with
zeros (R117). -/
def zeroFill (m : Memory) (poison : List Nat) (pa n : Nat) (et : Bool) : Memory :=
  if et then ((sectorsOf pa n).filter poison.contains).foldl (fun m k => m.writeN (16 * k) (List.replicate 16 0)) m
  else m

/-- A monitor after a write of a line. -/
def Monitor.hitBy (line : Nat) (m : Monitor) : Monitor := if m.line = line then { m with fired := true } else m

/-- Fire every monitor on the line (R189). -/
def fireMonitors (s : State) (line : Nat) : State :=
  let hit (c : Core) : Core :=
    { c with ctxs := c.ctxs.map fun x => { x with monitor := x.monitor.map (Monitor.hitBy line) } }
  { s with cores := FMap.mapVals (fun _ c => hit c) s.cores }

/-- Take clean and owned copies of the line from every other leg cache (R110). -/
def dropCopies (s : State) (unit : Option Nat) (line : Nat) : State :=
  let drop (u : Nat) (c : Core) : Core :=
    if some u = unit then c
    else { c with lines := c.lines.filter fun x => !(x.line == line && x.st != .L) }
  { s with cores := FMap.mapVals drop s.cores }

/-- Cores whose speculative leg has read the line before writing it, outside the strand's own stream
(R52, item 3). -/
def exposedUnits (s : State) (strand : Option Nat) (line : Nat) : List Nat :=
  (s.cores.filter fun (u, c) =>
    s.speculative u 0 && (strand.isNone || c.strand != strand) &&
      c.lines.any fun x => x.line == line && x.st == .L && x.exposed != 0).map (·.1)

/-- A line that a write has made dirty stands in its slice; in a full slice another goes to a write-back
buffer (R104, R109). Which one is free (log entry 4): the spec gives a slice no ways, and the model's is fully
associative (DESIGN CHOICE, log entry 83). -/
def l2Put (f : Fabric) (victim line part : Nat) : Fabric :=
  let mine := f.l2.filter fun x => homeSlice x.1 == homeSlice line && x.1 != line
  let f' := { f with l2 := f.l2.set line (BitVec.ofNat 4 part) }
  if mine.length < l2Lines then f'
  else
    match mine[victim % l2Lines]? with
    | none => f'
    | some x => { f' with l2 := f'.l2.del x.1, wb := f'.wb.set x.1 x.2 }

/-- What a write finds in the L2 (R104, R115, R116). -/
inductive L2Use where
  /-- a write of a cacheable page: its line stands there -/
  | put
  /-- an add: it uses the line when it is there -/
  | ifThere
  /-- a write of an uncacheable or device page goes past the L2 -/
  | no
  deriving DecidableEq, Repr

/-- The L2 after a write of a line. -/
def l2Write (f : Fabric) (use : L2Use) (victim part line : Nat) : Fabric :=
  let a := Agent.l2 (homeSlice line).1 (homeSlice line).2
  if !isDevMem (64 * line) || f.gated.contains a || f.sweeping.contains a then f
  else
    match use with
    | .put => l2Put f victim line part
    | .ifThere => if (f.l2.find? line).isSome then l2Put f victim line part else f
    | .no => { f with l2 := f.l2.del line }

/-- Perform a write at the home slice: every party sees it from here (R112, R120). `unit` is the core
whose own copy stays, `strand` the strand whose legs see the write in sequential order anyway. -/
def writeHome (s : State) (use : L2Use) (unit strand : Option Nat) (part : Nat) (et : Bool) (pa : Nat) (bytes : List Byte) : State :=
  let n := bytes.length
  let lines := linesOf pa n
  let mem := (zeroFill s.mem s.fab.poison pa n et).writeN pa bytes
  let fab := lines.foldl (fun f k => l2Write f use (Config.freeNat s.fresh) part k) { s.fab with
    poison := clearPoison s.fab.poison pa n et
    waits := s.fab.waits.filter fun x => !lines.contains x.1
    unwritten := s.fab.unwritten.filter fun g => !lines.any fun k => k / 64 == g }
  lines.foldl (fun s k =>
    let hit := exposedUnits s strand k
    hit.foldl squashAt (fireMonitors (dropCopies s unit k) k)) ((s.setMem mem).setFab fab).tick

/-- A write of a page at its home slice. -/
def homeWrite (s : State) (unit strand : Option Nat) (part : Nat) (attr : Attr) (pa : Nat) (bytes : List Byte) : State :=
  writeHome s (if attr.cached then .put else .no) unit strand part (attr == .errorTolerant) pa bytes

/-- Sectors of a line that have an uncorrectable error are poisoned at its home (R340). -/
def poisonLine (s : State) (line : Nat) (bad : BitVec 4) : State :=
  s.modFab fun f => { f with poison := (upTo 4).foldl (fun l i => if bad.getLsbD i then insertNat (4 * line + i) l else l) f.poison }

/-- Charge an uncorrectable error in a dirty line to the partition of its last writer (R343). -/
def chargeLine (s : State) (forced : Bool) (w0 : Nat → Nat → Word) (d part line : Nat) : State :=
  let s := poisonLine s line 15
  let r := errRec (w0 (if forced then 5 else 4) part) (BitVec.ofNat 64 s.time) (BitVec.ofNat 64 (64 * line)) 0 0 0 0
  let s := s.logErr (some part) d r
  if forced then s.unrecoverable part else s

/-- Charge an error in a dirty line of core `u`'s leg cache. -/
def chargeLegLine (s : State) (u : Nat) (forced : Bool) (x : Line) : State :=
  chargeLine s forced (fun kind p => errWord0 kind p (dieOf u) (ringOf u % 8) (s.slotOf u) u 6) (dieOf u) x.writer.toNat x.line

/-! ## What a context sees -/

/-- The byte that the leg on core `u` wrote, if it did (R49). -/
def legByte (s : State) (u pa : Nat) : Option Byte :=
  match (s.core u).lines.find? fun x => x.line == pa / 64 && x.st == .L with
  | some x => if x.mask.getLsbD (pa % 64) then some (x.data.extractLsb' (8 * (pa % 64)) 8) else none
  | none => none

/-- The largest leg number up to `k`, with its unit. -/
def newestLeg (legs : List (Nat × Nat)) (k : Nat) : Option (Nat × Nat) :=
  legs.foldl (fun best x => if x.1 ≤ k && (match best with | none => true | some b => b.1 < x.1) then some x else best) none

/-- The unit whose leg holds the newest version of a byte among the legs up to `k` (R50). -/
def versionUnit (s : State) (legs : List (Nat × Nat)) (pa : Nat) : Nat → Nat → Option Nat
  | 0, _ => none
  | fuel + 1, k =>
    match newestLeg legs k with
    | none => none
    | some (j, u) =>
      if (legByte s u pa).isSome then some u else if j = 0 then none else versionUnit s legs pa fuel (j - 1)

/-- The newest version of a byte among the legs up to `k`, in descending leg order (R50). -/
def versionByte (s : State) (legs : List (Nat × Nat)) (pa : Nat) : Nat → Nat → Option Byte
  | 0, _ => none
  | fuel + 1, k =>
    match newestLeg legs k with
    | none => none
    | some (j, u) =>
      match legByte s u pa with
      | some b => some b
      | none => if j = 0 then none else versionByte s legs pa fuel (j - 1)

/-- The store was made by this context's stream in program order. -/
def PStore.ownedBy (p : PStore) (c owner : Nat) : Bool := p.ctx == c && p.owner == owner

/-- Two pending stores touch a common byte. -/
def PStore.overlaps (p q : PStore) : Bool :=
  decide (p.pa < q.pa + q.bytes.length) && decide (q.pa < p.pa + p.bytes.length)

/-- In their context's order an earlier store `p` comes before a later one `q` (R123 to R126, R139, R141). -/
def PStore.orders (p q : PStore) : Bool :=
  p.ownedBy q.ctx q.owner && !(p.inst == q.inst && p.add.isSome) &&
    (p.path == q.path || p.overlaps q || (p.dev && q.dev) || (p.path != .scalar && q.path != .scalar && decide (p.epoch < q.epoch)))

/-- The pending stores, each with whether it is performed at core scope: a cacheable one that no earlier store of its
context keeps back is (R120, R124 to R126). -/
def corePerformed (pend : List PStore) : List (PStore × Bool) :=
  pend.foldl (fun l q => l ++ [(q, q.cached && q.add.isNone && l.all fun x => !x.1.orders q || x.2)]) []

/-- A pending store is visible to a context of the core: its own stream's, or one by another context of
the core that is performed at core scope (R120, R123), as `done` says. -/
def PStore.seenBy (p : PStore) (done : Bool) (u c owner : Nat) : Bool :=
  p.add.isNone && (p.ownedBy c owner || (p.unit == u && p.cached && done))

/-- The pending store covers the byte. -/
def PStore.covers (p : PStore) (pa : Nat) : Bool := decide (p.pa ≤ pa) && decide (pa < p.pa + p.bytes.length)

/-- The newest pending byte visible to the context. -/
def pendByte (pend : List PStore) (u c owner pa : Nat) : Option Byte :=
  (corePerformed pend).foldl (fun best x => if x.1.covers pa && x.1.seenBy x.2 u c owner then x.1.bytes[pa - x.1.pa]? else best) none

/-- The newest version of a byte that has not reached its home and that the context sees: a leg's
(R50), or a pending store's (R120 to R124). -/
def localByte (s : State) (u c pa : Nat) : Option Byte :=
  let version :=
    if c = 0 then
      match (s.core u).leg, (s.core u).strand, s.regionOf u with
      | some l, some h, some r =>
        if r.indep then none else versionByte s (s.legsOf h) pa 17 l.k
      | _, _, _ => none
    else none
  match version with
  | some b => some b
  | none => pendByte s.fab.pend u c (s.ownerOf u c) pa

/-- The byte a context sees: its newest local version, or the one at its home. -/
def viewByte (s : State) (u c pa : Nat) : Byte := (localByte s u c pa).getD (s.mem.read pa)

/-- The bytes a context sees from `pa` up. -/
def view (s : State) (u c pa : Nat) : Nat → List Byte
  | 0 => []
  | n + 1 => viewByte s u c pa :: view s u c (pa + 1) n

/-- The context's stream has read the store, or what stands for it. -/
def PStore.readBy (p : PStore) (c owner : Nat) : Bool := p.readers.contains (c, owner)

/-- A store with one more reader. -/
def PStore.addReader (p : PStore) (c owner : Nat) : PStore :=
  if p.readBy c owner then p else { p with readers := (c, owner) :: p.readers }

/-- The context's stream has read some of the pending stores, those that `f` picks; it is told whether they are
performed at core scope. -/
def noteRead (s : State) (u c : Nat) (f : PStore → Bool → Bool) : State :=
  let o := s.ownerOf u c
  let l := corePerformed s.fab.pend
  let hit (x : PStore × Bool) : Bool := !x.1.ownedBy c o && !x.1.readBy c o && f x.1 x.2
  if l.any hit then s.modFab fun y => { y with pend := l.map fun x => if hit x then x.1.addReader c o else x.1 } else s

/-- The context has read pending stores of other contexts of its core: a FENCE waits for them (R129). -/
def markRead (s : State) (u c pa n : Nat) : State :=
  if s.fab.pend.isEmpty then s
  else noteRead s u c fun p done => done && p.unit == u && decide (p.pa < pa + n) && decide (pa < p.pa + p.bytes.length)

/-- The location of a context's release at core scope, for the scratchpad lock of a core (R187). -/
def lockLocation (u : Nat) : Nat := 2 ^ 60 + u

/-- A release at core scope: the stores that happen before it, and are not performed further out, go with
its location (R128). -/
def markRelease (s : State) (u c loc : Nat) : State :=
  let o := s.ownerOf u c
  let hit (p : PStore) : Bool := (p.ownedBy c o || p.readBy c o) && !p.rel.contains loc
  if s.fab.pend.any hit then
    s.modFab fun x => { x with pend := x.pend.map fun p => if hit p then { p with rel := loc :: p.rel } else p }
  else s

/-- An acquire of a location: the stores that happen before a release of it on this core count as read
(R128, R129). -/
def markAcquire (s : State) (u c loc : Nat) : State :=
  if s.fab.pend.isEmpty then s else noteRead s u c fun p _ => p.unit == u && p.rel.contains loc

/-! ## Pending stores -/

/-- An earlier store `p` keeps a later one `q` back: in its own stream (R123 to R126), or, over bytes that both
write, among the cacheable stores of one core, which its contexts see in the order in which they were made
(R120, R121), or since the later one's context has read it (R123), or as the write of an AMO (R130). -/
def PStore.blocks (p q : PStore) : Bool :=
  (p.orders q && (p.path == q.path || p.overlaps q || (p.dev && q.dev) || !p.cached || p.add.isSome)) ||
    (p.add.isNone && p.overlaps q && ((p.unit == q.unit && p.cached && q.cached && q.add.isNone) || p.readBy q.ctx q.owner)) ||
    (p.locked && p.pa / 64 == q.pa / 64)

/-- A later write of an AMO keeps this one back: it is none of those that the AMO's read saw (R130). -/
def PStore.lockedOut (p q : PStore) : Bool :=
  p.locked && p.pa / 64 == q.pa / 64 && (p.unit != q.unit || !q.cached || q.add.isSome)

/-- The pending entry at `i` may be performed now. -/
def pendReady (s : State) (i : Nat) (q : PStore) : Bool :=
  !((s.fab.pend.take i).any fun p => p.blocks q) && !((s.fab.pend.drop (i + 1)).any fun p => p.lockedOut q) &&
    (linesOf q.pa q.bytes.length).all fun k => s.leaseOk k && s.hostFree k && s.fab.l2Room k

/-- The strand whose stream made the store. -/
def PStore.strand (s : State) (p : PStore) : Option Nat :=
  if p.ctx = 0 && (s.strand? p.owner).isSome then some p.owner else none

/-- The contexts that make up the program-order stream of a context: context 0 of every core of the
span, for a strand (R15). -/
def State.stream (s : State) (u c : Nat) : List (Nat × Nat) :=
  if c = 0 && !s.indepLeg u then
    match (s.core u).strand with
    | none => [(u, 0)]
    | some h =>
      match s.strand? h with
      | none => [(u, 0)]
      | some x => (Strand.cores h x).map fun v => (v, 0)
  else [(u, c)]

/-- Pending stores of the context's own stream. -/
def State.ownPend (s : State) (u c : Nat) : List PStore :=
  s.fab.pend.filter fun p => p.ownedBy c (s.ownerOf u c)

/-- Pending stores that the context's stream has made or read. -/
def State.knownPend (s : State) (u c : Nat) : List PStore :=
  s.fab.pend.filter fun p => p.ownedBy c (s.ownerOf u c) || p.readBy c (s.ownerOf u c)

/-- The context's stream has a remote operation or an RCOPY that has not completed (R129). -/
def State.remoteBusy (s : State) (u c : Nat) : Bool :=
  (s.stream u c).any fun (v, k) => !(s.ctx v k).rops.isEmpty || (s.ctx v k).rcopies.any fun r => !r.orphan

/-- Every earlier access of the context, and every store it has read, is performed at the scope
(R120, R129). Codes are those of R119. -/
def State.performedAt (s : State) (u c : Nat) (scope : Nat) : Bool :=
  if scope = 0 then (s.ownPend u c).all fun p => p.cached && p.add.isNone
  else
    (s.knownPend u c).isEmpty && (scope != 4 || !s.remoteBusy u c)

/-- Append a store to the pending stores. A store by a core to a line homed elsewhere drops the RDC
copy on its die (R111). -/
def pushStore (s : State) (p : PStore) : State :=
  let s := s.modFab fun f => { f with pend := f.pend ++ [p] }
  if (s.die (dieOf p.unit)).rdc.any fun x => x.1 == p.pa / 64 then
    s.modDie (dieOf p.unit) fun d => { d with rdc := d.rdc.del (p.pa / 64) }
  else s

/-! ## Leg-cache lines -/

/-- The set of a line: 128 sets of 16 ways (R104, R106). The specification does not say which address bits
choose it: PA[12:6] is the model's choice (DESIGN CHOICE, log entry 51). -/
def lineSet (line : Nat) : Nat := line % 128

/-- A line of the core is present: not invalid, its data returned, its lease not ended (R106). -/
def Line.live (x : Line) (line time : Nat) : Bool :=
  x.line == line && x.filled &&
    match x.lease with
    | none => true
    | some e => decide (time < e)

/-- The runs of written bytes of a line in state L, as offset and bytes. -/
def maskRuns (mask : BitVec 64) (data : BitVec 512) : Nat → List (Nat × List Byte)
  | 0 => []
  | n + 1 =>
    let i := 63 - n
    let rest := maskRuns mask data n
    if mask.getLsbD i then
      match rest with
      | (j, bs) :: tl => if j = i + 1 then (i, data.extractLsb' (8 * i) 8 :: bs) :: tl else (i, [data.extractLsb' (8 * i) 8]) :: rest
      | [] => [(i, [data.extractLsb' (8 * i) 8])]
    else rest

/-- Lines that the leg on core `u` has written. -/
def dirtyLines (s : State) (u : Nat) : List Nat := ((s.core u).lines.filter fun x => x.st == .L && x.dirty != 0).map (·.line)

/-- A written line of the leg on core `u` may be performed now: no store that the leg comes after, of its own strand
or another context's to the line, stands before it (R120, R121, R132). -/
def lineReady (s : State) (u line : Nat) : Bool :=
  (s.ownPend u 0).isEmpty && s.writable line &&
    !s.fab.pend.any fun p => p.pa / 64 == line && ((p.unit == u && p.cached) || p.readBy 0 (s.ownerOf u 0))

/-- Every line that the leg on core `u` wrote may be performed now (R55, step 2), and every store of the
strand from before it has been: legs become visible in leg order (R132). -/
def commitReady (s : State) (u : Nat) : Bool := (s.ownPend u 0).isEmpty && (dirtyLines s u).all (lineReady s u)

/-- Perform the written bytes of one line at home; an error that its write-back reveals is charged to its writer, whose
own commit forces it (R343). -/
def commitLine (s : State) (u : Nat) (x : Line) : State :=
  let s := (maskRuns x.mask x.data 64).foldl
    (fun s (o, bs) => homeWrite s (some u) (s.core u).strand ((s.partOf u).getD 0) (if x.et then .errorTolerant else .cacheable) (64 * x.line + o) bs) s
  if x.bad = 0 then s else chargeLegLine s u true x

/-- A line after the commit of its leg (R49). -/
def Line.committed (x : Line) : Line :=
  if x.st = .L then { x with st := if x.dirty = 0 then .S else .M, dirty := 0, exposed := 0, mask := 0, order := 0, through := [], bad := 0 } else x

/-- Commit every line the leg on core `u` has written, together (R55 steps 2 and 3, R56, R132). -/
def commitLines (s : State) (u : Nat) : State :=
  let own := (s.core u).lines
  let s := (own.filter fun x => x.st == .L && x.dirty != 0).foldl (fun s x => commitLine s u x) s
  s.modCore u fun c => { c with lines := c.lines.map Line.committed }

/-- Least recently used line of a full set. -/
def lruOf (lines : List Line) (set : Nat) : Option Line :=
  let l := lines.filter fun x => lineSet x.line == set
  if l.length < 16 then none
  else l.foldl (fun best x => match best with | none => some x | some b => if x.used < b.used then some x else some b) none

/-- A context's monitor of a host line, after the core's leg cache has lost the line (R189). -/
def Monitor.lostLine (line : Nat) (m : Monitor) : Monitor := if m.host then m.hitBy line else m

/-- Lines leave the leg cache of core `u`: a monitor held on a host line among them fires (R189). -/
def evictLines (s : State) (u : Nat) (out : Line → Bool) : State :=
  let gone := ((s.core u).lines.filter out).map (·.line)
  let s := s.modCore u fun c => { c with lines := c.lines.filter fun x => !out x }
  if gone.any fun k => isHost (64 * k) then
    s.modCore u fun c => { c with ctxs := c.ctxs.map fun x =>
      { x with monitor := x.monitor.map fun m => gone.foldl (fun m k => m.lostLine k) m } }
  else s

/-- Put a line into the leg cache of core `u`, replacing the least recently used line of a full set
(R106). `none` when that line may not leave yet: a dirty line that has not been written back (R343), but for one
that the same word has written, with a stamp from `since` on (log entry 58); or a leg's own line, unless the runner has
only read it (R53). -/
def installSince (s : State) (since u : Nat) (x : Line) : Option State :=
  let c := s.core u
  if c.lines.any fun y => y.line == x.line then
    some (s.modCore u fun c => { c with lines := c.lines.map fun y => if y.line = x.line then x else y })
  else
    match lruOf c.lines (lineSet x.line) with
    | none => some (s.modCore u fun c => { c with lines := c.lines ++ [x] })
    | some y =>
      let put (s : State) : State :=
        (evictLines s u fun z => z.line == y.line).modCore u fun c => { c with lines := c.lines ++ [x] }
      match y.st with
      | .S => some (put s)
      | .M => if since ≤ y.used then some (put s) else none
      | .L => if s.isRunner u 0 && y.dirty == 0 then some (put s) else none

/-- Put a line into the leg cache for one access. -/
def installLine (s : State) (u : Nat) (x : Line) : Option State := installSince s s.fab.useSeq u x

/-- A stamp for line use. -/
def useTick (s : State) : Nat × State := (s.fab.useSeq, s.modFab fun f => { f with useSeq := f.useSeq + 1 })

/-- Sector bits of a line that a run of bytes touches. -/
def sectorBits (pa n : Nat) : BitVec 4 :=
  (sectorsOf pa n).foldl (fun m k => if k / 4 = pa / 64 then putBit m (k % 4) true else m) 0

/-- Sector bits that a run of bytes covers wholly. -/
def fullBits (pa n : Nat) : BitVec 4 :=
  (sectorsOf pa n).foldl (fun m k =>
    if k / 4 = pa / 64 && decide (pa ≤ 16 * k) && decide (16 * k + 16 ≤ pa + n) then putBit m (k % 4) true else m) 0

/-- A leg has loaded bytes of a line it holds (R49): the line is in state L, and a speculative leg's
line is exposed in the sectors it had not written. -/
def legLoaded (s : State) (u pa n : Nat) : State :=
  match (s.core u).leg with
  | none => s
  | some l =>
    let spec := s.speculative u 0
    s.modCore u fun c => { c with lines := c.lines.map fun x =>
      if x.line = pa / 64 then
        { x with
          st := .L, order := BitVec.ofNat 5 l.k
          exposed := if spec then (if x.st = .L then x.exposed else 0) ||| (sectorBits pa n &&& ~~~(if x.st = .L then x.dirty else 0)) else x.exposed
          dirty := if x.st = .L then x.dirty else 0
          mask := if x.st = .L then x.mask else 0 }
      else x }

/-- Sum of line data with bytes written at an offset. -/
def putData (data : BitVec 512) (mask : BitVec 64) (off : Nat) : List Byte → BitVec 512 × BitVec 64
  | [] => (data, mask)
  | b :: bs => putData (putBits data (8 * off) b) (putBit mask off true) (off + 1) bs

/-- A core has committed data in the line that has yet to be written back: before a leg reads or writes the line
(R49). -/
def ownsDirty (s : State) (u line : Nat) : Bool := (s.core u).lines.any fun x => x.line == line && x.st == .M

/-- A leg stores bytes within one line (R49, R51), whose virtual address is `va`: into its own line, which needs no
data from elsewhere, and the store is broadcast. The line's other bytes are those of a line it held, or have yet to be
fetched. `none` when the line has no place (R53), or must be written back first (R49). -/
def legStore (s : State) (u : Nat) (va : Word) (tg : Target) (bytes : List Byte) : Option State :=
  match (s.core u).leg with
  | none => none
  | some l =>
    let pa := tg.pa
    let n := bytes.length
    let (stamp, s) := useTick s
    let old := (s.core u).lines.find? fun x => x.line == pa / 64
    let base : Line :=
      match old with
      | some x => if x.st = .L then x else { x with st := .L, dirty := 0, exposed := 0, mask := 0, through := [], bad := 0 }
      | none => ⟨pa / 64, .L, 0, 0, 0, 0, 0, false, false, none, BitVec.ofNat 4 ((s.partOf u).getD 0), 0, 0, [], 0⟩
    let page := ((s.part (s.issuePart u 0)).tag, va >>> 12 <<< 12)
    let et := tg.attr == .errorTolerant
    let zeros := if et then (sectorsOf pa n).filter fun k => base.bad.getLsbD (k % 4) else []
    let (data, mask) := zeros.foldl (fun y k => putData y.1 y.2 (k % 4 * 16) (List.replicate 16 0)) (base.data, base.mask)
    let (data, mask) := putData data mask (pa % 64) bytes
    let part := sectorBits pa n &&& ~~~fullBits pa n &&& ~~~base.dirty
    let x : Line :=
      { base with
        order := BitVec.ofNat 5 l.k, data := data, mask := mask, used := stamp, et := et
        bad := base.bad &&& ~~~(if et then sectorBits pa n else fullBits pa n)
        dirty := base.dirty ||| sectorBits pa n
        exposed := if s.speculative u 0 then base.exposed ||| part else base.exposed
        writer := BitVec.ofNat 4 ((s.partOf u).getD 0), wctx := 0
        through := if base.through.contains page then base.through else page :: base.through }
    if ownsDirty s u (pa / 64) then none else (installLine s u x).map fun s => broadcast s u (sectorsOf pa n)

/-- The write bitmap's bit of the line's granule is set (R352). -/
def markWritten (s : State) (line : Nat) : State :=
  if s.fab.unwritten.contains (line / 64) then
    s.modFab fun f => { f with unwritten := f.unwritten.filter (· != line / 64) }
  else s

/-- Ownership of a line goes to core `u`: every other copy is invalidated, and a speculative leg outside
its span that has the line exposed is squashed (R52, R106, R110). -/
def takeOwnership (s : State) (u line : Nat) : State :=
  (exposedUnits s (s.core u).strand line).foldl squashAt (dropCopies (markWritten s line) (some u) line)

/-- A store of context `c` is written into a line that core `u` owns (R106, R343). -/
def ownLine (s : State) (u c line : Nat) : State :=
  let (stamp, s) := useTick s
  s.modCore u fun k => { k with lines := k.lines.map fun x =>
    if x.line = line && x.st != .L then
      { x with st := .M, used := stamp, writer := BitVec.ofNat 4 (s.issuePart u c), wctx := c, lease := none } else x }

/-- A line is read by core `u`: another core that owns it keeps a clean copy. -/
def shareLine (s : State) (u line : Nat) : State :=
  let clean (v : Nat) (c : Core) : Core :=
    if v ≠ u && c.lines.any fun x => x.line == line && x.st == .M then
      { c with lines := c.lines.map fun x => if x.line = line && x.st = .M then { x with st := .S } else x }
    else c
  { s with cores := FMap.mapVals clean s.cores }

/-- Note a use of a line. -/
def touchLine (s : State) (u line : Nat) : State :=
  let (stamp, s) := useTick s
  s.modCore u fun c => { c with lines := c.lines.map fun x => if x.line = line then { x with used := stamp } else x }

/-! ## Misses (R109) -/

/-- Home slice of a line, as die and slice; host lines are tracked by the requester's die. -/
def State.sliceKey (u line : Nat) : Nat × Nat :=
  (if isDevMem (64 * line) then homeDie (64 * line) else dieOf u, sliceOf (64 * line))

/-- The slice takes no more requests: its table of 64 is full, or a write-back that one could cause would
be the 17th (R109). -/
def State.missFull (s : State) (u line : Nat) : Bool :=
  let k := State.sliceKey u line
  decide (64 ≤ (s.fab.misses.filter fun m => State.sliceKey m.unit m.line == k).length) ||
    (isDevMem (64 * line) && decide (16 ≤ (s.fab.wb.filter fun x => homeSlice x.1 == k).length))

/-- The header of a scalar access of `n` bytes: a count of 1 (R109). -/
def scalarHeader (kind : HeaderKind) (pa n : Nat) : Header := ⟨kind, 0, pa, 0, n, 1⟩

/-- Line of a header's base address. -/
def Header.line (h : Header) : Nat := h.base / 64

/-- Send a request for a line, or have it refused with a retry hint of 1 to 255 control cycles. The
stall that results. -/
def requestLine (s : State) (u c : Nat) (h : Header) (forward own : Bool) : Stall × State :=
  if s.fab.misses.any fun m => m.unit == u && m.ctx == c && m.line == h.line && m.own == own then (.miss h.line, s)
  else if s.missFull u h.line then
    (.refused h own (s.now + 1 + Config.freeNat s.fresh % 255), s.tick)
  else (.miss h.line, s.modFab fun f => { f with misses := f.misses ++ [⟨u, c, h.line, h, forward, own⟩] })

/-- The leg cache of a core holds no line: it is gated, or not yet admitted (R110, R344). -/
def State.cacheOff (s : State) (u : Nat) : Bool :=
  s.fab.gated.contains (.legCache u) || s.fab.sweeping.contains (.legCache u)

/-- The leg cache has power again and is not yet admitted: it sends no request (R344). -/
def State.cacheBarred (s : State) (u : Nat) : Bool := s.fab.sweeping.contains (.legCache u)

/-! ## Leases (R111, R112) -/

/-- A store to the line has not been performed. -/
def linePending (s : State) (line : Nat) : Bool := s.fab.pend.any fun p => (linesOf p.pa p.bytes.length).contains line

/-- The line is homed on another die, so that a read of it goes through the RDC (R111). -/
def remoteHome (u line : Nat) : Bool := isDevMem (64 * line) && homeDie (64 * line) != dieOf u

/-- Lines of an RDC of 16 MiB (R104). -/
def rdcLines : Nat := 262144

/-- An RDC with a line; in a full one another line goes, and which is free (log entry 4). The spec gives the RDC no
ways, and the model's is fully associative (DESIGN CHOICE, log entry 83). -/
def rdcPut (rdc : FMap Nat) (victim line e : Nat) : FMap Nat :=
  if rdc.length < rdcLines || (rdc.find? line).isSome then rdc.set line e
  else
    match rdc[victim % rdcLines]? with
    | none => rdc.set line e
    | some x => (rdc.del x.1).set line e

/-- The home grants a new lease on a line, for the length of the partition's LEASE.LEN; the RDC of the
requester's die keeps the line. -/
def grantLease (s : State) (u line part : Nat) : Option Nat × State :=
  let e := s.time + (s.part part).lease.toNat
  let off := s.fab.gated.contains (.rdc (dieOf u)) || s.fab.sweeping.contains (.rdc (dieOf u))
  let s := if off then s else (s.modDie (dieOf u) fun d => { d with rdc := rdcPut d.rdc (Config.freeNat s.fresh) line e }).tick
  (some e, s.modFab fun f => { f with leases := f.leases.upd 0 line (max e) })

/-- The lease that a read of the line by a core takes, and the state that grants it: `none` while the
home keeps the request behind a waiting write (R111, R112). -/
def leaseFor (s : State) (u line part : Nat) : Option (Option Nat × State) :=
  if !remoteHome u line then some (none, s)
  else
    let held := match (s.die (dieOf u)).rdc.find? line with
      | some e => if s.time < e then some e else none
      | none => none
    match held with
    | some e => some (some e, s)
    | none => if linePending s line || s.lineWaited line then none else some (grantLease s u line part)

/-! ## Lines at hand -/

/-- The leg on core `u` wrote every one of these bytes itself, in a line that it holds (R49). -/
def wroteAll (s : State) (u pa n : Nat) : Bool := (upTo n).all fun i => (legByte s u (pa + i)).isSome

/-- A core's leg cache has what a load of these bytes by the context needs. -/
def lineHit (s : State) (u c pa n : Nat) : Bool :=
  ((s.core u).lines.any fun x => x.live (pa / 64) s.time) || (s.versioned u c && wroteAll s u pa n)

/-- A cacheable line is at hand for a load by the context, or the stall that fetches it. For a
speculative leg the line becomes exposed as soon as the load issues (R52). A line with committed data of the core is
written back before its leg reads it (R49). With the leg cache gated the load goes to the RDC or the home (R111). -/
def needLine (s : State) (u c pa n : Nat) : Except (Stall × State) State :=
  let line := pa / 64
  if s.cacheBarred u then .error (.order, s)
  else if s.cacheOff u then
    match leaseFor s u line (s.issuePart u c) with
    | some (_, s) => .ok s
    | none => .error (.order, s)
  else if s.versioned u c && ownsDirty s u line then .error (.order, s)
  else if lineHit s u c pa n then
    .ok (if s.versioned u c then legLoaded (touchLine s u line) u pa n else touchLine s u line)
  else
    let (w, s) := requestLine s u c (scalarHeader .load pa n) (s.versioned u c) false
    if s.versioned u c then
      match w, (s.core u).leg with
      | .miss _, some l =>
        let x : Line := ⟨line, .L, BitVec.ofNat 5 l.k, 0, if s.speculative u 0 then sectorBits pa n else 0, 0, 0, false, false, none, 0, 0, s.fab.useSeq, [], 0⟩
        if (s.core u).lines.any fun y => y.line == line then .error (w, legLoaded s u pa n)
        else
          match installLine s u x with
          | some s => .error (w, s)
          | none => .error (.evict, { s with fab := { s.fab with misses := s.fab.misses.filter fun m => !(m.unit == u && m.ctx == c && m.line == line) } })
      | _, _ => .error (w, s)
    else .error (w, s)

/-- Core `u` owns the line (R106). -/
def State.owns (s : State) (u line : Nat) : Bool := (s.core u).lines.any fun x => x.live line s.time && x.st == .M

/-- The line is owned for a store or an AMO of the context, which are no leg's versions, or the stall that
obtains ownership from the home directory (R106, R110). -/
def needOwn (s : State) (u c : Nat) (kind : HeaderKind) (pa n : Nat) : Except (Stall × State) State :=
  if s.cacheBarred u then .error (.order, s)
  else if s.cacheOff u then .ok s
  else if s.owns u (pa / 64) then .ok (ownLine s u c (pa / 64))
  else .error (requestLine s u c (scalarHeader kind pa n) false true)

end Sys2Proof.Machine
end

