-- ==== Sys2Proof/Machine/Footprint.lean ====
section
/-!
DEFINITION. What block words touch (R222, R223, R226, R227, R234): the units that a memory instruction
moves, and with them the order of R123 and R134 between the blocks of a context and its other accesses:
the device compares addresses across paths.
-/
namespace Sys2Proof.Machine

/-! ## Units -/

/-- What a memory instruction moves as one: an element, an MX block, a scale byte, a segment, or 64
bytes of a tile row. `idx` numbers it, `j` is the element that a trap reports, `group` the element
group of the register. -/
structure MUnit where
  idx : Nat
  j : Nat
  group : Nat
  va : Word
  n : Nat
  on : Bool
  deriving DecidableEq, Repr

/-- Lane group of a unit (R125). -/
def MUnit.lane (m : MUnit) : Nat := m.group % 8

/-- Offsets and lengths of the parts of a run of bytes that lie in one line each. -/
def splitLines (a n off : Nat) : Nat → List (Nat × Nat)
  | 0 => []
  | fuel + 1 =>
    if n = 0 then []
    else
      let k := min n (64 - a % 64)
      (off, k) :: splitLines (a + k) (n - k) (off + k) fuel

/-! ## Their addresses -/

/-- FUNC[4] of VLD and its kin: scale bytes instead of elements (R223). -/
def isScl (f : BlockFields) : Bool := f.ty.toNat == 18 && f.func.getLsbD 4
/-- FUNC[3]: the MXFP4 binding of the scale bytes. -/
def sclFp4 (f : BlockFields) : Bool := f.func.getLsbD 3

/-- Bytes of a packed MX block (R223). -/
def blockBytes (ty : BitVec 5) : Nat := 4 * tyWidth ty

/-- Offset of an element from B in a mode (R222). -/
def elemOffset (mode : Nat) (st : Word) (h : Shape) (z j : Nat) : Word :=
  let (r, c) := h.pos j
  let w (n : Nat) : Word := BitVec.ofNat 64 n
  match h.sh, mode with
  | 0, 0 => w (j * z)
  | 0, 1 => w j * st
  | 0, _ => w r * st + w (c * z)
  | 1, 1 => w c * st
  | 1, _ => w (c * z)
  | _, 0 => w (r * z)
  | _, _ => w r * st

/-- The units of a VLD-like instruction, ascending (R222, R223). -/
def memUnits (s : State) (f : BlockFields) : List MUnit :=
  let h := blockShape s f
  let v := s.vc
  let b := xOperand s f
  let st := xStride s f
  let mode := bits f.func 0 2
  let w (n : Nat) : Word := BitVec.ofNat 64 n
  if isScl f then
    let nb := h.cols / 32
    (upTo ((if h.sh = 1 then 1 else h.rows) * nb)).map fun k =>
      let (r, c) := h.block k
      ⟨k, k, 0, b + (if mode = 2 then w r * st + w c else w (r * nb + c)), 1, true⟩
  else if isMx f.ty then
    let n := blockBytes f.ty
    (upTo (h.count / 32)).map fun k =>
      let (r, c) := h.block k
      ⟨k, 32 * k, groupOfBit (elemBit f.ty (h.pos (32 * k))), b + (if mode = 2 then w r * st + w (c * n) else w (k * n)), n,
        active v f f.ty (32 * k)⟩
  else
    let z := tyBytes f.ty
    (upTo h.count).map fun j =>
      ⟨j, j, groupOfBit (elemBit f.ty (h.pos j)), b + elemOffset mode st h z j, z, active v f f.ty j⟩

/-- Registers of a segment instruction: f. -/
def segFields (f : BlockFields) : Nat := bits f.func 0 3 + 1

/-- Bytes of a segment: f elements, or a packed block and its scale byte. -/
def segBytes (f : BlockFields) : Nat := if isMx f.ty then blockBytes f.ty + 1 else segFields f * tyBytes f.ty

/-- The units of a segment instruction. -/
def segUnits (s : State) (f : BlockFields) : List MUnit :=
  let h := blockShape s f
  let n := unitSize f.ty
  (upTo (units h f.ty)).map fun k =>
    ⟨k, n * k, groupOfBit (elemBit f.ty (h.pos (n * k))), xOperand s f + BitVec.ofNat 64 k * xStride s f, segBytes f, unitOn s.vc f k⟩

/-- The accesses of MTLDM and MTST: 64 bytes of a row at a time, or 32 of the scale area (R234). -/
def tileUnits (s : State) (f : BlockFields) (scl : Bool) : List MUnit :=
  let b := xOperand s f
  let st := xStride s f
  let per := if scl then 1 else 8
  (upTo (32 * per)).map fun k =>
    let i := k / per
    let g := k % per
    ⟨k, 0, 8 * i + g, b + BitVec.ofNat 64 i * st + BitVec.ofNat 64 (64 * g), if scl then 32 else 64, true⟩

/-! ## What a block may still touch -/

/-- The index type of FUNC[1:0]: i16, i32, i64 (R224). -/
def indexType (f : BlockFields) : BitVec 5 :=
  match bits f.func 0 2 with
  | 1 => 2
  | 2 => 4
  | _ => 6

/-- The units of an indexed instruction, of the elements that `keep` picks, with the indices in a register image
(R224, R228). -/
def indexUnits (s : State) (f : BlockFields) (idx : BitVec 65536) (keep : Nat → Bool) : List MUnit :=
  let h := blockShape s f
  let z := tyBytes f.ty
  let it := indexType f
  let sh := bits f.func 2 3
  ((upTo h.count).filter keep).map fun j =>
    let va := xOperand s f + sext (tyBits it) (elem idx h it j) <<< sh
    ⟨j, j, groupOfBit (elemBit f.ty (h.pos j)), va, z, active s.vc f f.ty j⟩

/-- The word may write Vn. Stores, scatters, replies and the words of the sequencer write none; of the loads and the
elementwise instructions each writes its own destination, and any other word may write any register. -/
def mayWriteV (i : Instr) (n : BitVec 5) : Bool :=
  match i with
  | .vst _ | .vstScl _ | .vstx _ | .vsts _ | .vstsScl _ | .vstseg _ | .vscadd _ | .mtst _ | .mtstScl _ | .vreply _ | .vnop _
  | .vloop _ | .vloopSet _ | .lsync _ | .lsyncScoped _ => false
  | .vld f | .vldx f | .vldff f | .vlds f | .vadd f | .vsub f | .vmul f | .vmulh f | .vmadd f | .vand f | .vor f | .vxor f
  | .vshl f | .vshr f | .vsar f | .vmin f | .vmax f | .vfadd f | .vfsub f | .vfmul f | .vfma f | .vfnma f | .vbcast f | .viota f =>
    f.vd == n
  | _ => true

/-- The bytes that a word touches at most: none, runs of memory by virtual address, runs of the scratchpad,
or any memory, where the addresses hang on a vector register that is still to be written. -/
inductive Reach where
  | none
  | mem (l : List MUnit)
  | pad (l : List MUnit)
  | anyMem

/-- The reach of an indexed word: its addresses are known once no word before it may write its indices. -/
def indexReach (s : State) (before : Option (List Instr)) (f : BlockFields) : Reach :=
  if before.any fun l => !l.any fun i => mayWriteV i f.vb then
    .mem (indexUnits s f (s.here.seq.idx.getD (s.vc.reg f.vb)) fun _ => true)
  else .anyMem

/-- The reach of a word, whatever its governing predicate. `before` are the words that may issue before it, when they
are known. -/
def reach (s : State) (before : Option (List Instr)) (i : Instr) : Reach :=
  match i with
  | .vld f | .vldScl f | .vst f | .vstScl f | .vldff f => .mem (memUnits s { f with pm := 0 })
  | .vlds f | .vldsScl f | .vsts f | .vstsScl f => .pad (memUnits s { f with pm := 0 })
  | .vldx f | .vstx f | .vscadd f => indexReach s before f
  | .vldseg f | .vstseg f => .mem (segUnits s { f with pm := 0 })
  | .mtldm f | .mtst f => if f.func.getLsbD 0 then .pad (tileUnits s f false) else .mem (tileUnits s f false)
  | .mtldmScl f | .mtstScl f => if f.func.getLsbD 0 then .pad (tileUnits s f true) else .mem (tileUnits s f true)
  | _ => .none

/-- The word at an address, as the sequencer of core `u` would fetch it. -/
def blockWord (s : State) (u : Nat) (pc : Word) : Option Instr :=
  match s.translate u ((s.partOf u).getD 0) (s.ctx u 0).priv .fetch false pc with
  | .error _ => none
  | .ok tg =>
    match decodeBlk (bytesBV 64 (view s u 0 tg.pa 8)) with
    | .ok i => some i
    | .error _ => none

/-- Words looked at in one block; a longer one counts as touching everything. -/
def blockFuel : Nat := 65536

/-- The words from an address to the VSTOP, with their addresses; `none` when there is no end. -/
def blockWords (s : State) (u : Nat) : Nat → Word → Option (List (Word × Instr))
  | 0, _ => none
  | fuel + 1, pc =>
    match blockWord s u pc with
    | none => some []
    | some (.vstop _) => some []
    | some i => (blockWords s u fuel (pc + 8)).map ((pc, i) :: ·)

/-- The lowest address that a loop of these words goes back to, `pc` without one (R199). -/
def loopStart (l : List (Word × Instr)) (pc : Word) : Word :=
  l.foldl (fun m x =>
    match x.2 with
    | .vloop f =>
      let t := x.1 + f.off.signExtend 64 <<< 3
      if t.ult m then t else m
    | _ => m) pc

/-- The words that can still issue, from `pc` on: loops may go back, at most four deep. -/
def wordsAhead (s : State) (u : Nat) : Nat → Word → Option (List (Word × Instr))
  | 0, pc => blockWords s u blockFuel pc
  | fuel + 1, pc =>
    match blockWords s u blockFuel pc with
    | none => none
    | some l => if loopStart l pc = pc then some l else wordsAhead s u fuel (loopStart l pc)

/-- A unit of memory is among what `hit` picks. An address that does not translate now counts as one. -/
def unitTouches (s : State) (u : Nat) (hit : Target → Nat → Bool) (m : MUnit) : Bool :=
  (splitLines m.va.toNat m.n 0 (m.n + 1)).any fun p =>
    match s.translate u ((s.partOf u).getD 0) (s.ctx u 0).priv .load false (m.va + BitVec.ofNat 64 p.1) with
    | .error _ => true
    | .ok tg => hit tg p.2

/-- Core `u` with one block in its queue. -/
def withBlock (s : State) (u : Nat) (e : Fetch) : State :=
  (s.setCur ⟨u, 0⟩).modCore u fun c => { c with seq := { c.seq with fq := [e] } }

/-- The words that may issue before a word of the list: those in front of it, and any of them when a loop goes back. -/
def wordsBefore (l : List (Word × Instr)) (pc : Word) : List Instr :=
  (if l.any fun x => match x.2 with
    | .vloop _ => true
    | _ => false then l else l.takeWhile fun x => x.1 != pc).map (·.2)

/-- A block, the `k`-th of the queue, may still touch bytes of memory, or of the scratchpad, that `mem` or `pad` picks.
Its indices are known once it is the oldest. -/
def blockTouches (s : State) (u k : Nat) (mem : Target → Nat → Bool) (pad : Nat → Nat → Bool) (e : Fetch) (pc : Word) : Bool :=
  let s := withBlock s u e
  match wordsAhead s u 4 pc with
  | none => true
  | some l => l.any fun x =>
    match reach s (if k = 0 then some (wordsBefore l x.1) else none) x.2 with
    | .none => false
    | .mem l => l.any (unitTouches s u mem)
    | .pad l => l.any fun m => pad m.va.toNat m.n
    | .anyMem => mem ⟨0, .cacheable⟩ (2 ^ 52)

/-- A block of core `u` that was enqueued before `limit` blocks had ended may still touch these bytes. -/
def blocksTouch (s : State) (u limit : Nat) (mem : Target → Nat → Bool) (pad : Nat → Nat → Bool) : Bool :=
  let q := (s.core u).seq
  q.fq.zipIdx.any fun x => decide (q.fin + x.2 < limit) &&
    blockTouches s u x.2 mem pad x.1 (if x.2 = 0 && q.active then q.pc else x.1.addr)

/-- Two runs of bytes meet. -/
def runsMeet (a n b m : Nat) : Bool := decide (a < b + m) && decide (b < a + n)

/-- The handler of the strand context runs while a fault stops its block: it is to mend what the block met, and does
not wait for it (R316). -/
def State.mending (s : State) (u : Nat) : Bool :=
  ((s.core u).seq.fault.isSome || (s.core u).seq.frozen) && (s.ctx u 0).trap != .none

/-- An earlier block of the context may still touch these bytes of memory: an access of the control stream to them
waits for it (R26, R123). An access to a device page waits for every one that a block makes to such a page (R141). -/
def State.blockWait (s : State) (u c : Nat) (tg : Target) (n : Nat) : Bool :=
  c == 0 && !(s.core u).seq.fq.isEmpty && !s.mending u &&
    blocksTouch s u ((s.core u).seq.fin + (s.core u).seq.fq.length)
      (fun t k => runsMeet tg.pa n t.pa k || (tg.attr == .device && t.attr == .device)) fun _ _ => false

/-- An earlier block of the context may still touch the scratchpad: its accesses to it are performed in
program order whatever their bank (R125). -/
def State.padWait (s : State) (u c : Nat) : Bool :=
  c == 0 && !(s.core u).seq.fq.isEmpty && !s.mending u &&
    blocksTouch s u ((s.core u).seq.fin + (s.core u).seq.fq.length) (fun _ _ => false) fun _ _ => true

/-! ## What copies touch (R257) -/

/-- Offsets of row `r` of the outer dimensions: source and destination. -/
def rowOffset : List (Nat × Word × Word) → Nat → Word × Word
  | [], _ => (0, 0)
  | (e, ss, ds) :: rest, r =>
    let i := BitVec.ofNat 64 (r % e)
    let o := rowOffset rest (r / e)
    (i * ss + o.1, i * ds + o.2)

/-- Number of chunks (R135): rows, or runs of 4 KiB for a copy of one dimension. -/
def chunkCount (esize : Nat) (dims : List (Nat × Word × Word)) : Nat :=
  match dims with
  | [] => 0
  | [(e, _, _)] => ceilDiv (e * esize) 4096
  | _ :: outer => (outer.map fun d => d.1).prod

/-- The elements of a chunk in traversal order: source and destination addresses. -/
def Copy.elems (c : Copy) (k : Nat) : List (Word × Word) :=
  match c.dims with
  | [] => []
  | (e, ss, ds) :: outer =>
    let at_ (b : Word × Word) (i : Nat) : Word × Word :=
      (b.1 + BitVec.ofNat 64 i * ss, b.2 + BitVec.ofNat 64 i * ds)
    match outer with
    | [] =>
      let per := 4096 / c.esize
      (upTo (min per (e - k * per))).map fun i => at_ (c.src, c.dst) (k * per + i)
    | _ =>
      let o := rowOffset outer k
      match c.gather with
      | none => (upTo e).map (at_ (c.src + o.1, c.dst + o.2))
      | some idx =>
        let x := idx.getD k 0
        if x = BitVec.allOnes 32 then []
        else
          let stride := match outer with
            | (_, s1, _) :: _ => s1
            | [] => 0
          (upTo e).map (at_ (c.src + x.setWidth 64 * stride, c.dst + o.2))

/-- Translate an address of a copy. -/
def copyXlate (s : State) (u : Nat) (c : Copy) (write : Bool) (va : Word) : Except (BitVec 16) Target :=
  s.translate u c.part (isMgmt u || (s.ctx u c.ctx).priv) .engine write va

/-- Where one side of an element lies: in memory, or at an offset of a core's scratchpad. -/
inductive Place where
  | mem (t : Target)
  | pad (core off : Nat)
  deriving DecidableEq, Repr

/-- The place of a side of an element; `none` when its address does not translate. -/
def copyPlace (s : State) (u : Nat) (c : Copy) (write : Bool) (va : Word) : Option Place :=
  if (if write then c.dstk else c.srck) = 0 then
    match copyXlate s u c write va with
    | .error _ => none
    | .ok t => some (.mem t)
  else some (.pad (if write then c.dcore else c.score) va.toNat)

/-- An element of a chunk: both places and both addresses. -/
structure Elem where
  src : Place
  dst : Place
  sa : Word
  da : Word

/-- The elements of a chunk, every address translated before anything is written (R308); `none` when one
does not translate. -/
def planChunk (s : State) (u : Nat) (c : Copy) : List (Word × Word) → Option (List Elem)
  | [] => some []
  | (a, b) :: rest =>
    match copyPlace s u c false a, copyPlace s u c true b, planChunk s u c rest with
    | some p, some q, some l => some (⟨p, q, a, b⟩ :: l)
    | _, _, _ => none

end Sys2Proof.Machine
end

