-- ==== Sys2Proof/Machine/Ops.lean ====
section
/-!
DEFINITION. The operations that instructions share: reading and writing registers, held actions and
early commit (R56, R59), taking an exception and returning from one (R314 to R322), consumed errors
(R340 to R342), scalar access to memory and scratchpad, and the frame of a control instruction (R164).
-/
namespace Sys2Proof.Machine

/-! ## Outcomes of a control instruction -/

/-- What a control instruction comes to, before the common end of R164. -/
inductive CRes where
  /-- it completes; execution continues at A + 4 -/
  | done (s : State)
  /-- it completes; execution continues at `pc` -/
  | jump (s : State) (pc : Word)
  /-- it completes and leaves its context as the state has it -/
  | final (s : State)
  /-- it traps and changes nothing -/
  | trap (t : TrapInfo)
  /-- it stalls; it is issued again when it can go on -/
  | stall (w : Stall) (s : State)

def trapIllegal : TrapInfo := { cause := 0x01 }
def trapPrivilege : TrapInfo := { cause := 0x02 }
def trapOperand : TrapInfo := { cause := 0x03 }
def trapPartition : TrapInfo := { cause := 0x0C }
/-- Misaligned access (0x05), scratchpad range (0x09), ... at an address. -/
def trapAt (cause : Byte) (faddr : Word) : TrapInfo := { cause := cause, faddr := faddr }
/-- A translation fault on data (0x07) or on fetch (0x06). -/
def trapXlate (fetch : Bool) (status : BitVec 16) (va : Word) : TrapInfo :=
  { cause := if fetch then 0x06 else 0x07, status := status, faddr := va }

/-- The status is none of R310: the walk waits for the host. -/
def xLater (st : BitVec 16) : Bool := st.extractLsb' 0 4 == 0
/-- Not a trap yet: the walk that would decide it waits. -/
def TrapInfo.later (t : TrapInfo) : Bool := (t.cause == 0x06 || t.cause == 0x07) && xLater t.status

/-! ## Registers -/

/-- A context runs privileged code (R329). -/
def State.privileged (s : State) (u c : Nat) : Bool := isMgmt u || (s.ctx u c).priv

/-- A pending carried register among those an instruction reads (R44). -/
def pendingSrc (s : State) (srcs : List Reg) : Option Reg :=
  if s.cur.ctx = 0 then
    match s.here.leg with
    | some l => srcs.find? fun r => l.pending.getLsbD r.toNat
    | none => none
  else none

/-- READ bits of the carried registers that an instruction reads while they hold their start value
(R44). -/
def markSrcs (s : State) (srcs : List Reg) : State :=
  if s.cur.ctx = 0 then
    match s.here.leg with
    | none => s
    | some l =>
      let l' := srcs.foldl (fun (l : Leg) r => if l.written.getLsbD r.toNat then l else { l with read := putBit l.read r.toNat true }) l
      if l'.read = l.read then s else s.modHere fun c => { c with leg := some l' }
  else s

/-- Write a register of the issuing context; a leg keeps that it was written (R44, R68). -/
def setX (s : State) (r : Reg) (v : Word) : State :=
  let s := s.modMe fun c => c.setReg r.toNat v
  if s.cur.ctx = 0 then
    match s.here.leg with
    | none => s
    | some l =>
      s.modHere fun c => { c with leg := some { l with written := putBit l.written r.toNat true, pending := putBit l.pending r.toNat false } }
  else s

/-- The register is the xind of an open region (R41): the outermost one, or one on the nest stack. A
trap handler is not part of a region's body. -/
def isOpenInd (s : State) (r : Reg) : Bool :=
  s.cur.ctx == 0 && r != 0 && s.me.trap == .none &&
    ((match s.regionOf s.cur.unit with
      | some x => s.here.leg.isSome && x.xind == r
      | none => false) || s.me.nest.any fun n => n.xind == r)

/-! ## Early commit and held actions (R56, R59) -/

/-- A commit of the leg on core `u` waits: no new lease is granted on the lines it has written (R112). -/
def waitCommit (s : State) (u : Nat) : State := s.waitOn (.ctx u 0) (dirtyLines s u)

/-- Commit what the runner on core `u` has written so far; `none` while an earlier store, a lease or the
host holds it back. -/
def earlyCommit (s : State) (u : Nat) : Option State :=
  if s.isRunner u 0 && s.versioned u 0 then
    if commitReady s u then
      some ((commitLines s u).modCore u fun c => { c with leg := c.leg.map fun l => { l with early := true } })
    else none
  else some s

/-- Before a held action: a speculative leg waits until it is the runner; the runner of a FORK region
first commits early. -/
def heldGate (s : State) (u c : Nat) : Except (Stall × State) State :=
  if s.speculative u c then .error (.held, s)
  else if c = 0 then
    match earlyCommit s u with
    | some s => .ok s
    | none => .error (.order, waitCommit s u)
  else .ok s

/-! ## Taking an exception (R317 to R321) -/

/-- TVEC and KHEAD of a context: its partition's, or its die's for a management core (R318). -/
def trapVec (s : State) (u : Nat) : Word :=
  if isMgmt u then (s.die (dieOf u)).fwtvec else (s.part ((s.partOf u).getD 0)).tvec
def trapHead (s : State) (u c : Nat) : Word :=
  if isMgmt u then (s.die (dieOf u)).fwkhead + BitVec.ofNat 64 (((u - numCores) % 2 * 8 + c) * 256)
  else (s.part ((s.partOf u).getD 0)).khead + BitVec.ofNat 64 ((u * 8 + c) * 256)

/-- The CAUSE doubleword (R319). -/
def causeWord (x : Ctx) (mgmt : Bool) (t : TrapInfo) : Word :=
  0#28 ++ BitVec.ofBool (x.trap != .none) ++ BitVec.ofBool x.deferred ++ BitVec.ofBool t.block.isSome ++
    BitVec.ofBool (x.priv || mgmt) ++ t.status ++ t.code ++ t.cause

/-- The eight doublewords of a trap record (R319). -/
def trapRecord (x : Ctx) (mgmt : Bool) (t : TrapInfo) : List Word :=
  [causeWord x mgmt t, t.epc.getD x.pc, t.block.getD 0, t.faddr, t.elem.setWidth 64,
    x.reg 29, x.reg 30, x.reg 31]

/-- Doublewords as bytes (R5). -/
def wordsBytes (ws : List Word) : List Byte := ws.flatMap (bvBytes 8)

/-- A double trap stops the context and nothing else of it changes (R318, R321). -/
def doubleTrap (s : State) (u c : Nat) (t : TrapInfo) : State :=
  let cw := causeWord (s.ctx u c) (isMgmt u) t
  let r := s.coreRec u 7 0 0 cw 0 0
  let s := s.modCtx u c fun x => { x with stopped := true, stall := .none }
  if isMgmt u then (s.logErr none (dieOf u) r).raiseMsix 3
  else (s.logErr (s.partOf u) (dieOf u) r).unrecoverable ((s.partOf u).getD 0)

/-- The context enters the handler: the saved values stand in the record at `recVa` (R320, R321). -/
def enterHandler (x : Ctx) (mgmt : Bool) (t : TrapInfo) (tvec recVa : Word) : Ctx :=
  let y := ((x.setReg 31 recVa).setReg 30 (causeWord x mgmt t)).setReg 29 t.faddr
  { y with
    priv := true
    trap := if x.trap = .none then .handler else .nested
    pc := (tvec &&& 0x00FF_FFFF_FFFF_FFFC#64) + (if x.trap = .none then 0 else 0x100)
    stall := .none
    monitor := .none
    deferred := false }

/-- A pending cause is taken: it is no longer pending (R258, R260, R262). -/
def clearPending (s : State) (u c : Nat) (p : Pend) : State :=
  match p with
  | .none => s
  | .copy v h => s.modCore v fun k => { k with aborted := k.aborted.filter fun a => a.1 != h }
  | .remote => (s.stream u c).foldl (fun s (v, i) => s.modCtx v i fun x => { x with remErr := false }) s
  | .reply => s.modCtx u c fun x => { x with reply := none }
  | .coll h => (s.stream u c).foldl (fun s (v, i) => s.modCtx v i fun x => { x with colls := x.colls.filter fun k => k.handle != h }) s

/-- The context no longer asks for the scratchpad lock: its SPLOCK has not completed (R186). -/
def leaveLockQ (s : State) (u c : Nat) : State :=
  if (s.core u).lockQ.contains c then s.modCore u fun k => { k with lockQ := k.lockQ.filter (· != c) } else s

/-- Take a trap in a context (R320, R321): write the record at package scope, then enter the handler.
The context stalls while its earlier stores, or a lease on the record's line, hold the record back. -/
def takeTrap (s : State) (u c : Nat) (t : TrapInfo) : State :=
  let x := s.ctx u c
  let tvec := trapVec s u
  let recVa := trapHead s u c + (if x.trap = .none then 0 else 64)
  let p := (s.partOf u).getD 0
  if x.trap = .nested || !tvec.getLsbD 0 then doubleTrap s u c t
  else
    match s.translate u p true .store true recVa with
    | .error st => if xLater st then s.modCtx u c fun x => { x with stall := some .order } else doubleTrap s u c t
    | .ok tg =>
      if !tg.attr.cached then doubleTrap s u c t
      else if !(s.ownPend u c).isEmpty || !s.writable (tg.pa / 64) then
        (s.modCtx u c fun x => { x with stall := some .order }).waitOn (.ctx u c) [tg.pa / 64]
      else
        let strand := if c = 0 then (s.core u).strand else none
        let s := homeWrite (leaveLockQ (s.fillTlb u p recVa) u c) (some u) strand p tg.attr tg.pa
          (wordsBytes (trapRecord x (isMgmt u) t))
        clearPending (s.modCtx u c fun _ => enterHandler x (isMgmt u) t tvec recVa) u c t.clears

/-- Raise a trap of the context: deferred in a speculative leg (R61); a runner first commits (R320). -/
def raise (s : State) (u c : Nat) (t : TrapInfo) : State :=
  if t.later then s.modCtx u c fun x => { x with stall := some .order }
  else
    match heldGate s u c with
    | .error (.held, s) => s.modCtx u c fun x => { x with stall := some .held, deferred := true }
    | .error (w, s) => s.modCtx u c fun x => { x with stall := some w }
    | .ok s => takeTrap s u c t

/-- Return from the handler to the state of the record whose doublewords are given (R322). -/
def leaveHandler (x : Ctx) (cause epc x29 x30 x31 : Word) : Ctx :=
  let y := ((x.setReg 29 x29).setReg 30 x30).setReg 31 x31
  { y with
    priv := cause.getLsbD 32
    trap := if x.trap = .nested then .handler else .none
    pc := epc
    stall := .none }

/-- Doubleword `i` of the record at physical address `pa`, as the context sees it. -/
def recWord (s : State) (u c pa i : Nat) : Word := bytesBV 64 (view s u c (pa + 8 * i) 8)

/-- ERET (R322): reload X29 to X31, EPC and PRIV from the current record, and leave trap mode, or
return from record 1 to the handler of record 0. A sequencer frozen by a block fault goes on. -/
def eretFrom (s : State) (u c : Nat) : Except TrapInfo State :=
  let x := s.ctx u c
  let recVa := trapHead s u c + (if x.trap = .nested then 64 else 0)
  match s.translate u ((s.partOf u).getD 0) true .load false recVa with
  | .error st => .error (trapXlate false st recVa)
  | .ok tg =>
    let w := recWord s u c tg.pa
    let s' := (s.fillTlb u ((s.partOf u).getD 0) recVa).modCtx u c fun x => leaveHandler x (w 0) (w 1) (w 5) (w 6) (w 7)
    .ok (if c = 0 && x.trap == .handler then s'.modCore u fun k => { k with seq := { k.seq with frozen := false } } else s')

/-! ## Consumed errors (R340 to R342) -/

/-- The consumption event in a context (R341). `pa` is the address of the error, or 0. -/
def consume (s : State) (u c pa : Nat) : State :=
  let bad (s : State) : State :=
    let s := s.logErr (s.partOf u) (dieOf u) (s.coreRec u 6 0 (BitVec.ofNat 64 pa) 0 0 0)
    match s.partOf u with
    | some p => s.unrecoverable p
    | none => s
  match (s.core u).leg, (s.core u).strand with
  | some l, some h =>
    if s.versioned u c && decide (l.replays < 3) then
      let s := s.logErr (s.partOf u) (dieOf u) (s.coreRec u 3 0 (BitVec.ofNat 64 pa) (BitVec.ofNat 64 l.replays) 0 0)
      if s.speculative u c then squashFrom s h l.k true
      else squashOne (squashFrom s h (l.k + 1) false) u true
    else bad s
  | _, _ => bad s

/-! ## Retirement and the common end of a control instruction -/

/-- Queue of the strand on a core, as an index of `State.queues`. -/
def State.queueOf (s : State) (u : Nat) : Option Nat :=
  match (s.core u).strand with
  | none => none
  | some h =>
    match s.strand? h with
    | none => none
    | some x =>
      match (s.die x.node.1).nodes.find? x.node.2 with
      | none => none
      | some n => n.queue.map fun q => 4 * n.part + q

/-- The context has completed an instruction (R298, R299), so that no trap of it is deferred any more (R61). -/
def retire (s : State) (u c : Nat) : State :=
  let s := s.modCtx u c fun x => { x with stall := .none, deferred := false, lastRetire := s.time }
  if c = 0 then
    match s.queueOf u with
    | some q => s.modQueue q fun x => { x with wdBase := s.time }
    | none => s
  else s

/-- The end of a control instruction (R164): advance, transfer, trap or stall. -/
def finish (s0 : State) (r : CRes) : State :=
  let u := s0.cur.unit
  let c := s0.cur.ctx
  match r with
  | .done s => (retire s u c).modCtx u c fun x => { x with pc := x.pc + 4 }
  | .jump s pc => (retire s u c).modCtx u c fun x => { x with pc := pc }
  | .final s => s
  | .trap t => raise s0 u c t
  | .stall w s => s.modCtx u c fun x => { x with stall := some w }

/-- The instruction writes the xind of an open region (R41). -/
def writesOpenInd (s : State) (dst : Option Reg) : Bool :=
  match dst with
  | some d => isOpenInd s d
  | none => false

/-- A control instruction that reads registers `srcs` and writes `dst`: a write of an open region's xind is
illegal (R41), and found before an operand is read (R155); a pending source stalls (R44). The body sees the
state with the reads noted. -/
def control (s : State) (srcs : List Reg) (dst : Option Reg) (body : State → CRes) : State :=
  if writesOpenInd s dst then finish s (.trap trapIllegal)
  else
    match pendingSrc s srcs with
    | some r => finish s (.stall (.carried r) s)
    | none => let s := markSrcs s srcs; finish s (body s)

/-- A held action (R59): the body runs once the gate of R56 and R59 is open. -/
def held (s : State) (body : State → CRes) : CRes :=
  match heldGate s s.cur.unit s.cur.ctx with
  | .error (w, s) => .stall w s
  | .ok s => body s

/-- A remote-access error is pending in the context (R260). -/
def remotePending (s : State) : Bool := (s.stream s.cur.unit s.cur.ctx).any fun (v, i) => (s.ctx v i).remErr

/-- The park numbers of the strand whose context 0 runs on the core: marks of what it issued before a pre-emption from
another core (R251). -/
def State.parks (s : State) (u c : Nat) : List Nat :=
  if c ≠ 0 then []
  else if 2048 ≤ u then (upTo 16).map ((u - 2048) / 16 * 16 + 2048 + ·)
  else
    match (s.core u).strand with
    | none => []
    | some h =>
      match s.strand? h with
      | none => []
      | some x => (upTo x.size).map (parkUnit x.node.1 x.node.2)

/-- Copies of the context's stream, with their cores. -/
def State.streamCopies (s : State) (u c : Nat) : List (Nat × Copy) :=
  let old := s.parks u c
  ((s.stream u c).flatMap fun (v, i) => ((s.core v).copies.filter fun p => p.ctx == i).map fun p => (v, p)) ++
    (if old.isEmpty then [] else s.cores.flatMap fun (v, k) => (k.copies.filter fun p => old.contains p.ctx).map fun p => (v, p))

/-- Copies of the context's stream that aborted and whose trap is not yet taken: core, handle, address (R258). -/
def State.streamAborted (s : State) (u c : Nat) : List (Nat × BitVec 32 × Word) :=
  let old := s.parks u c
  ((s.stream u c).flatMap fun (v, i) => ((s.core v).aborted.filter fun a => a.2.1 == i).map fun a => (v, a.1, a.2.2)) ++
    (if old.isEmpty then [] else s.cores.flatMap fun (v, k) => (k.aborted.filter fun a => old.contains a.2.1).map fun a => (v, a.1, a.2.2))

/-- The trap of a copy of the context's stream that aborted, if one is pending (R258). -/
def abortedTrap (s : State) (u c : Nat) : Option TrapInfo :=
  (s.streamAborted u c).head?.map fun a => { cause := 0x0D, faddr := a.2.2, clears := .copy a.1 a.2.1 }

/-- The remote-access trap of a pending error. -/
def trapRemote : TrapInfo := { cause := 0x0E, clears := .remote }

/-- A source register of the issuing context. -/
def X (s : State) (r : Reg) : Word := s.me.reg r.toNat

/-- Saturating SUBCNT of the issuing party (R82, R117): a speculative leg counts into its leg count. That the legs of
a FORKI region, which are never speculative, count into the one SUBCNT of their strand is not stated (DESIGN CHOICE,
log entry 69). -/
def addSub (s : State) (u c k : Nat) : State :=
  let sat (x : BitVec 32) : BitVec 32 := BitVec.ofNat 32 (min (x.toNat + k) (2 ^ 32 - 1))
  if k = 0 then s
  else if c ≠ 0 then s.modCtx u c fun x => { x with subcnt := sat x.subcnt }
  else if s.speculative u c then s.modCtx u c fun x => { x with legSub := sat x.legSub }
  else
    match (s.core u).strand with
    | some h => s.modStrand h fun x => { x with subcnt := sat x.subcnt }
    | none => s

/-! ## Scalar access to memory (R106 to R117, R170) -/

/-- What an access comes to. `ok` carries the value read and whether it was poisoned. -/
inductive MRes where
  | ok (v : Nat) (bad : Bool) (s : State)
  | trap (t : TrapInfo)
  | wait (w : Stall) (s : State)

/-- The leg whose version of a byte the context sees wrote it in a sector that meets an uncorrectable error (R340). -/
def badVersion (s : State) (u c pa : Nat) : Bool :=
  c == 0 && match (s.core u).leg, (s.core u).strand, s.regionOf u with
    | some l, some h, some r => !r.indep && (versionUnit s (s.legsOf h) pa 17 l.k).any fun v =>
        (s.core v).lines.any fun x => x.line == pa / 64 && x.st == .L && x.bad.getLsbD (pa / 16 % 4)
    | _, _, _ => false

/-- The context would read this byte from a sector that holds an uncorrectable error (R340): no newer
store of its own core stands before it. -/
def badByte (s : State) (u c pa : Nat) : Bool :=
  (s.fab.poison.contains (pa / 16) && (localByte s u c pa).isNone) || badVersion s u c pa

/-- A store that the context sees, pending or of a leg, has cleared the error of an error-tolerant sector, whose other
bytes are zeros (R117). -/
def mended (s : State) (u c k : Nat) : Bool :=
  ((corePerformed s.fab.pend).any fun x => x.1.et && x.1.seenBy x.2 u c (s.ownerOf u c) && (sectorsOf x.1.pa x.1.bytes.length).contains k) ||
    (c == 0 && match (s.core u).leg, (s.core u).strand with
      | some l, some h => (s.legsOf h).any fun y => decide (y.1 ≤ l.k) &&
          (s.core y.2).lines.any fun x => x.line == k / 4 && x.st == .L && x.et && x.dirty.getLsbD (k % 4) && !x.bad.getLsbD (k % 4)
      | _, _ => false)

/-- Poisoned sectors among the bytes of an access. -/
def State.badSectors (s : State) (u c pa n : Nat) : List Nat :=
  if s.fab.poison.isEmpty && (s.core u).leg.isNone then []
  else (sectorsOf pa n).filter fun k => ((upTo n).any fun i => (pa + i) / 16 == k && badByte s u c (pa + i)) && !mended s u c k

/-- The bytes a load gives on an error-tolerant page: poisoned sectors read as zeros (R117). -/
def tolerate (s : State) (u c pa : Nat) (bs : List Byte) : List Byte :=
  bs.zipIdx.map fun (b, i) => if badByte s u c (pa + i) then 0 else b

/-- An earlier add of the stream to these bytes is not yet applied, or the host holds the line
modified: the load waits (R123, R363). -/
def loadWaits (s : State) (u c pa n : Nat) : Bool :=
  ((s.ownPend u c).any fun p => p.add.isSome && decide (p.pa < pa + n) && decide (pa < p.pa + p.bytes.length)) ||
    (linesOf pa n).any s.hostKeeps

/-- Which transfers of a context an access comes after: by the core that holds it, its order of issue, and the count
of blocks of that core that were enqueued before it. -/
abbrev Earlier := Nat → Nat → Nat → Bool

/-- An access of the control stream comes after every transfer there is. -/
def allEarlier : Earlier := fun _ _ _ => true

/-- A transfer comes after those that were issued before it. -/
def issuedBefore (seq : Nat) : Earlier := fun _ q _ => decide (q < seq)

/-- An access of the oldest block comes after the transfers that were issued before that was enqueued. -/
def State.blockEarlier (s : State) (u : Nat) : Earlier := fun v _ after => v != u || decide (after ≤ (s.core u).seq.fin)

/-- Where remote transfers of the context's stream stand: its contexts, and the park numbers of its strand (R251). -/
def State.remotes (s : State) (u c : Nat) : List (Nat × Nat) :=
  if 2048 ≤ c then (upTo 16).map fun i => ((c - 2048) / 16 * 16 + 2048 + i, 0)
  else s.stream u c ++ ((s.parks u c).filter (· != u)).map fun k => (k, 0)

/-- An RSTORE of the stream on its own package, one of the earlier ones, has yet to be performed, and is to bytes that
`hit` picks (R123, R142). One whose address does not translate now counts as such. -/
def insideHits (s : State) (u c : Nat) (pre : Earlier) (hit : Target → Nat → Bool) : Bool :=
  s.pkg.inside.any fun x => pre x.unit x.seq x.after && (s.remotes u c).contains (x.unit, x.ctx) &&
    match s.deviceXlate (s.issuePart x.unit x.ctx) true x.va with
    | .error _ => true
    | .ok tg => hit tg 8

/-- An RCOPY of the stream, one of the earlier ones, has yet to read source bytes that `hit` picks (R261). They are
compared where they stand in memory; a source that does not translate now counts as picked. -/
def rcopyHits (s : State) (u c : Nat) (pre : Earlier) (hit : Target → Nat → Bool) : Bool :=
  (s.remotes u c).any fun (v, k) => (s.ctx v k).rcopies.any fun r =>
    pre v r.seq r.after && (upTo (ceilDiv r.len 4096)).any fun i => !r.landed.contains i &&
      (splitLines (r.src + 4096 * i) (min 4096 (r.len - 4096 * i)) 0 128).any fun p =>
        match s.translate v (s.issuePart v k) (s.privileged v k) .engine false (BitVec.ofNat 64 (r.src + 4096 * i + p.1)) with
        | .error _ => true
        | .ok tg => hit tg p.2

/-- Two accesses of a context that are performed in program order whatever their paths: to a common byte (R123), or
both to device pages (R141). -/
def mustOrder (a : Target) (n : Nat) (b : Target) (m : Nat) : Bool :=
  runsMeet a.pa n b.pa m || (a.attr == .device && b.attr == .device)

/-- An earlier RSTORE of the stream on its own package keeps an access back. -/
def insideOver (s : State) (u c : Nat) (pre : Earlier) (tg : Target) (n : Nat) : Bool :=
  insideHits s u c pre fun t k => mustOrder t k tg n

/-- An earlier RCOPY of the stream has yet to read some of these bytes: a store of the context waits (R261). -/
def copyReads (s : State) (u c : Nat) (pre : Earlier) (pa n : Nat) : Bool := rcopyHits s u c pre fun t k => runsMeet t.pa k pa n

/-- A chunk of a copy that has yet to land has an element on a device page. -/
def deviceChunks (s : State) (u : Nat) (c : Copy) : Bool :=
  (c.srck == 0 || c.dstk == 0) && (upTo c.chunks).any fun k => !c.landed.contains k && (c.elems k).any fun e =>
    let dev (kind : BitVec 2) (write : Bool) (va : Word) : Bool := kind == 0 && match copyXlate s u c write va with
      | .error _ => false
      | .ok tg => tg.attr == .device
    dev c.srck false e.1 || dev c.dstk true e.2

/-- The copy was issued by a leg that comes after the one on the core (R60). -/
def Copy.younger (d : Copy) (s : State) (u : Nat) : Bool :=
  match d.leg, (s.core u).leg with
  | some j, some l => decide (l.k < j)
  | _, _ => false

/-- What a transfer that the context issues now keeps of its blocks: the count of those that were enqueued before it. A
handler that mends a block's fault does not wait for that block (R316). -/
def State.blocksSoFar (s : State) (u c : Nat) : Nat :=
  if c = 0 && !s.mending u then (s.core u).seq.fin + (s.core u).seq.fq.length else 0

/-- A block that the context enqueued before a transfer, one of the first `after` of its core, may still touch bytes of
memory, or of the scratchpad, that `mem` or `pad` picks (R123, R134). In a drain no block goes on (R301). -/
def State.blockBefore (s : State) (u c after : Nat) (mem : Target → Nat → Bool) (pad : Nat → Nat → Bool) : Bool :=
  c == 0 && decide ((s.core u).seq.fin < after) && s.placing (s.issuePart u c) &&
    blocksTouch s u after mem pad

/-- An earlier copy or RCOPY of the stream has yet to touch a device page (R141). -/
def deviceTransfer (s : State) (u c : Nat) (pre : Earlier) : Bool :=
  ((s.streamCopies u c).any fun x => !x.2.younger s u && pre x.1 x.2.seq x.2.after && deviceChunks s x.1 x.2) ||
    rcopyHits s u c pre fun t _ => t.attr == .device

/-- An earlier access of the stream to a device page has not been performed: a later one waits (R141). -/
def State.devicePending (s : State) (u c : Nat) (pre : Earlier) : Bool :=
  (s.ownPend u c).any (·.dev) || deviceTransfer s u c pre

/-- Read `n` bytes at a translated address for a context. The access lies within one line. -/
def loadAt (s : State) (u c n : Nat) (tg : Target) : MRes :=
  if s.blockWait u c tg n then .wait .blocks s
  else if insideOver s u c allEarlier tg n then .wait .order s
  else
  match tg.attr with
  | .device | .uncacheable =>
    match heldGate s u c with
    | .error (w, s) => .wait w s
    | .ok s =>
      if loadWaits s u c tg.pa n || (tg.attr == .device && s.devicePending u c allEarlier) then .wait .order s
      else .ok (bytesBV (8 * n) (view s u c tg.pa n)).toNat (!(s.badSectors u c tg.pa n).isEmpty) (markRead s u c tg.pa n)
  | _ =>
    if loadWaits s u c tg.pa n then .wait .order s
    else
      match needLine s u c tg.pa n with
      | .error (w, s) => .wait w s
      | .ok s =>
        let bs := view s u c tg.pa n
        let bad := s.badSectors u c tg.pa n
        if tg.attr = .errorTolerant then
          .ok (bytesBV (8 * n) (tolerate s u c tg.pa bs)).toNat false (addSub (markRead s u c tg.pa n) u c bad.length)
        else .ok (bytesBV (8 * n) bs).toNat (!bad.isEmpty) (markRead s u c tg.pa n)

/-- Translate for the issuing context. -/
def State.xlate (s : State) (u c : Nat) (acc : Acc) (write : Bool) (va : Word) : Except (BitVec 16) Target :=
  s.translate u (s.issuePart u c) (s.privileged u c) acc write va

/-- The TLBs after an access of the context that has been translated (R307). -/
def State.fillPage (s : State) (u c : Nat) (va : Word) : State := s.fillTlb u (s.issuePart u c) va

/-- A scalar load of the context of `n` bytes at `va`, which must be a multiple of `n`. -/
def loadVa (s : State) (u c n : Nat) (va : Word) : MRes :=
  if va.toNat % n ≠ 0 then .trap (trapAt 0x05 va)
  else
    match s.xlate u c .load false va with
    | .error st => .trap (trapXlate false st va)
    | .ok tg => loadAt (s.fillPage u c va) u c n tg

/-- The pending entry of a store on a path of the context. -/
def storeEntry (s : State) (u c : Nat) (path : Path) (inst : Nat) (add : Option (BitVec 5)) (locked : Bool) (va : Word)
    (tg : Target) (bytes : List Byte) : PStore :=
  { unit := u, ctx := c, path := path, pa := tg.pa, bytes := bytes, part := s.issuePart u c,
    epoch := (s.ctx u c).epoch, owner := s.ownerOf u c, cached := tg.attr.cached, locked := locked,
    et := tg.attr == .errorTolerant, readers := [], rel := [], tag := (s.part (s.issuePart u c)).tag, va := va,
    add := add, inst := inst, dev := tg.attr == .device }

/-- Write `bytes` at a translated address for a context's scalar stream. Within one line. -/
def storeAt (s : State) (u c : Nat) (locked : Bool) (va : Word) (tg : Target) (bytes : List Byte) : MRes :=
  let n := bytes.length
  if s.blockWait u c tg n then .wait .blocks s
  else if insideOver s u c allEarlier tg n then .wait .order s
  else
  match tg.attr with
  | .device | .uncacheable =>
    match heldGate s u c with
    | .error (w, s) => .wait w s
    | .ok s =>
      if tg.attr == .device && deviceTransfer s u c allEarlier then .wait .order s
      else .ok 0 false (pushStore s (storeEntry s u c .scalar 0 none locked va tg bytes))
  | _ =>
    if s.versioned u c then
      match legStore s u va tg bytes with
      | some s => .ok 0 false s
      | none => .wait .evict s
    else
      match needOwn s u c (if locked then .atomic else .store) tg.pa n with
      | .error (w, s) => .wait w s
      | .ok s =>
        let s := pushStore s (storeEntry s u c .scalar 0 none locked va tg bytes)
        .ok 0 false (if s.inLeg u c then broadcast s u (sectorsOf tg.pa n) else s)

/-- A scalar store of the context. -/
def storeVa (s : State) (u c : Nat) (va : Word) (bytes : List Byte) : MRes :=
  if va.toNat % bytes.length ≠ 0 then .trap (trapAt 0x05 va)
  else
    match s.xlate u c .store true va with
    | .error st => .trap (trapXlate false st va)
    | .ok tg =>
      if copyReads s u c allEarlier tg.pa bytes.length then .wait .order s else storeAt (s.fillPage u c va) u c false va tg bytes

/-! ## Scalar access to the scratchpad (R107, R171, R186) -/

/-- Bytes of the scratchpad. -/
def spSize : Nat := 0x80000

/-- The lock of R186 keeps these bytes from a context that does not hold it. -/
def Core.spLocked (c : Core) (ctx off n : Nat) : Bool :=
  decide (off < 0x78000) && decide (0 < n) &&
    match c.lock with
    | some h => h != ctx
    | none => false

/-- Traps of a scratchpad access of `n` bytes: range, then snapshot area (R107, R42, R315). -/
def spCheck (c : Core) (off n : Nat) : Option TrapInfo :=
  if spSize < off + n then some (trapAt 0x09 (BitVec.ofNat 64 off))
  else if c.snapBase < off + n && decide (0 < c.snaps) then some (trapAt 0x0A (BitVec.ofNat 64 off))
  else none

/-- Scratchpad granules (64 bytes) of a run of bytes. -/
def granulesOf (off n : Nat) : List Nat := linesOf off n

/-- What a party other than the leg on the core sees of the scratchpad: granules that a speculative leg has written
are as they would be without it (R133). -/
def Core.spSeen (c : Core) (a : Nat) : Byte :=
  match c.leg with
  | none => c.sp.read a
  | some l =>
    match l.undo.find? fun x => x.granule == a / 64 with
    | some x => x.seen.extractLsb' (8 * (a % 64)) 8
    | none => c.sp.read a

/-- A sector is poisoned for a party other than the leg. -/
def Core.spSeenBad (c : Core) (k : Nat) : Bool :=
  match c.leg with
  | none => c.spPoison.contains k
  | some l =>
    match l.undo.find? fun x => x.granule == k / 4 with
    | some x => x.seenBad.getLsbD (k % 4)
    | none => c.spPoison.contains k

/-- Scratchpad bytes as a party sees them. `own` is the leg on the core itself, its copies, or any party when no
speculative leg is there. -/
def spRead (c : Core) (own : Bool) (off n : Nat) : List Byte :=
  if own then c.sp.readN off n else (upTo n).map fun i => c.spSeen (off + i)

/-- Some of the bytes are poisoned for the party. -/
def spReadBad (c : Core) (own : Bool) (off n : Nat) : Bool :=
  (sectorsOf off n).any fun k => if own then c.spPoison.contains k else c.spSeenBad k

/-- The context sees the scratchpad of its core as it stands. -/
def State.spOwn (s : State) (u c : Nat) : Bool := c == 0 || !s.speculative u 0

/-- The undo record of a granule before a leg's first write of it (R58). -/
def undoOf (c : Core) (g : Nat) : Undo :=
  let old := bytesBV 512 (c.sp.readN (64 * g) 64)
  let bad := (upTo 4).foldl (fun m i => putBit m i (c.spPoison.contains (4 * g + i))) 0
  { granule := g, old := old, poison := bad, seen := old, seenBad := bad }

/-- An undo record after another party than the leg has written bytes: that party sees them, and a sector that they
cover has no error (R117). -/
def Undo.wrote (x : Undo) (off : Nat) (bytes : List Byte) : Undo :=
  { x with
    seen := bytes.zipIdx.foldl (fun m b => if (off + b.2) / 64 = x.granule then putBits m (8 * ((off + b.2) % 64)) b.1 else m) x.seen
    seenBad := (upTo 4).foldl (fun m i =>
      let a := 64 * x.granule + 16 * i
      if decide (off ≤ a) && decide (a + 16 ≤ off + bytes.length) then putBit m i false else m) x.seenBad }

/-- Write scratchpad bytes for a party of the core; a speculative leg logs each granule's old contents
first (R58). `none` when the undo log of 512 granules is full. -/
def spWrite (s : State) (u : Nat) (spec : Bool) (off : Nat) (bytes : List Byte) : Option State :=
  let c := s.core u
  let n := bytes.length
  let put (c : Core) (leg : Option Leg) : Core :=
    { c with
      sp := c.sp.writeN off bytes
      spPoison := clearPoison c.spPoison off n false
      leg := leg }
  match c.leg with
  | none => some (s.setCore u (put c none))
  | some l =>
    if !spec then some (s.setCore u (put c (some (if l.undo.isEmpty then l else { l with undo := l.undo.map (·.wrote off bytes) }))))
    else
      let fresh := (granulesOf off n).filter fun g => !l.undo.any fun x => x.granule == g
      if 512 < l.undo.length + fresh.length then none
      else
        some (s.setCore u (put c (some { l with undo := fresh.foldl (fun d g => undoOf c g :: d) l.undo })))

/-! ## Partition membership of a core named by software -/

/-- A logical core of the issuing core's partition (R31). -/
def State.samePart (s : State) (u v : Nat) : Bool :=
  match s.partOf u, s.partOf v with
  | some p, some q => p == q
  | _, _ => false

/-- VWAIT's condition (R27, R181): every block of the context has completed in both queues, and every
access the blocks made is performed at core scope (R120). A handler does not wait for a block that a
fault has stopped until the handler returns (R316). -/
def State.blocksDone (s : State) (u c : Nat) : Bool :=
  let q := (s.core u).seq
  c != 0 || ((q.fq.isEmpty || (q.fault.isSome || q.frozen) && (s.ctx u 0).trap != .none) && (s.ownPend u c).all fun p => p.path == .scalar || (p.cached && p.add.isNone))

/-- A block fault of a core is taken by its strand context (R155, R316): the sequencer freezes at the
faulting word, and the trap reports the word's address. Without a fault that may be taken, nothing. -/
def takeBlockFault (s : State) (u : Nat) : State :=
  let q := (s.core u).seq
  match q.fault with
  | none => s
  | some t =>
    if q.frozen || (s.ctx u 0).trap != .none || !(s.ctx u 0).resident || (s.ctx u 0).stopped then s
    else
      match heldGate s u 0 with
      | .error (.held, s) => s.modCtx u 0 fun x => { x with stall := some .held, deferred := true }
      | .error (w, s) => s.modCtx u 0 fun x => { x with stall := some w }
      | .ok s =>
        let s := takeTrap s u 0 t
        if (s.ctx u 0).trap = .none && !(s.ctx u 0).stopped then s
        else s.modCore u fun c => { c with seq := { c.seq with fault := none, frozen := true } }

end Sys2Proof.Machine
end

