-- ==== Sys2Proof/Machine/Alu.lean ====
section
/-!
DEFINITION. Integer arithmetic of the control stream: opcode 0x01 (R166 to R168) and the immediate forms
(R169).
-/
namespace Sys2Proof.Machine

abbrev Res := Host.Outcome State Fault Refusal

/-! ## Operands: X registers and shared registers (R147, R168, R323) -/

/-- Writes of a shared register by other contexts that this context need not see yet, newest first. -/
def xsUnseen (s : State) (r : Reg) : List Word :=
  ((s.here.xsOld.filter fun x => x.1 == r.setWidth 3).takeWhile fun x => x.2.2 != s.cur.ctx).map fun x => x.2.1

/-- A read of a shared register: the newest value, or an older one that R323 still allows. -/
def readXs (s : State) (r : Reg) : Word × State :=
  let now := vget s.here.xs 0 (r.setWidth 3).toNat
  match xsUnseen s r with
  | [] => (now, s)
  | l =>
    let k := Config.freeNat s.fresh % (l.length + 1)
    (if k = 0 then now else l.getD (k - 1) now, s.tick)

/-- The writes of context `c` have become visible to every context of the core: neither the values that they
replaced nor any from before them may be read any more (R323). -/
def settleXs (l : List (BitVec 3 × Word × Nat)) (c : Nat) : List (BitVec 3 × Word × Nat) :=
  (l.foldl (fun (acc : List (BitVec 3 × Word × Nat) × List (BitVec 3)) x =>
    if x.2.2 = c || acc.2.contains x.1 then (acc.1, x.1 :: acc.2) else (acc.1 ++ [x], acc.2)) ([], [])).1

/-- A context of the core has been freed: what is left of its slots in the rotation stays empty (R20), and
its writes of shared registers are visible (R323). -/
def Core.leaveRotation (k : Core) (c : Nat) : Core :=
  { k with rot := k.rot.map fun x => if x = some c then none else x, xsOld := settleXs k.xsOld c }

/-- A write of a shared register: its own context reads it at once (R323). -/
def writeXs (s : State) (r : Reg) (v : Word) : State :=
  let k := r.setWidth 3
  s.modHere fun c => { c with xs := vset c.xs k.toNat v, xsOld := (k, vget c.xs 0 k.toNat, s.cur.ctx) :: c.xsOld }

def aluRead (s : State) (shared : Bool) (r : Reg) : Word × State := if shared then readXs s r else (X s r, s)
def aluWrite (s : State) (shared : Bool) (r : Reg) (v : Word) : State := if shared then writeXs s r v else setX s r v

/-- The X registers among ALU sources. -/
def aluSrcs (xa : Reg) (sa : Bool) : List Reg := if sa then [] else [xa]

/-- The two sources; a register named twice is read once (R164). -/
def aluRead2 (s : State) (xa xb : Reg) (sa sb : Bool) : Word × Word × State :=
  let (a, s) := aluRead s sa xa
  if xa = xb && sa == sb then (a, a, s)
  else
    let (b, s) := aluRead s sb xb
    (a, b, s)

/-- A write of a shared register is a held action of a speculative leg (R168). -/
def aluGate (s : State) (sd : Bool) (body : State → CRes) : CRes := if sd then held s body else body s

/-- An operation of two sources (R166). -/
def alu2 (f : Word → Word → Word) (xd xa xb : Reg) (sd sa sb : Bool) (s : State) : State :=
  control s (aluSrcs xa sa ++ aluSrcs xb sb) (if sd then none else some xd) fun s =>
    aluGate s sd fun s =>
      let (a, b, s) := aluRead2 s xa xb sa sb
      .done (aluWrite s sd xd (f a b))

/-- An operation of one source (R166). -/
def alu1 (f : Word → Word) (xd xa : Reg) (sd sa : Bool) (s : State) : State :=
  control s (aluSrcs xa sa) (if sd then none else some xd) fun s =>
    aluGate s sd fun s =>
      let (a, s) := aluRead s sa xa
      .done (aluWrite s sd xd (f a))

/-! ## The functions of R166 and R167 -/

/-- 1 when the relation holds, otherwise 0. -/
def boolWord (b : Bool) : Word := if b then 1 else 0
/-- Bits 127 to 64 of the signed product. -/
def mulHigh (a b : Word) : Word := BitVec.ofInt 64 ((a.toInt * b.toInt) / 2 ^ 64)
/-- Bits 127 to 64 of the unsigned product. -/
def mulHighN (a b : Word) : Word := BitVec.ofNat 64 ((a.toNat * b.toNat) / 2 ^ 64)
/-- Signed quotient truncated toward zero, with the boundary results of R167. -/
def divS (a b : Word) : Word := if b = 0 then BitVec.allOnes 64 else BitVec.ofInt 64 (Int.tdiv a.toInt b.toInt)
def divN (a b : Word) : Word := if b = 0 then BitVec.allOnes 64 else a / b
/-- Signed remainder, with the sign of `a`. -/
def remS (a b : Word) : Word := if b = 0 then a else BitVec.ofInt 64 (Int.tmod a.toInt b.toInt)
def remN (a b : Word) : Word := if b = 0 then a else a % b
/-- Shift counts are the low six bits of `b`. -/
def shCount (b : Word) : Nat := b.toNat % 64
/-- The width in bits of SEXT and ZEXT. -/
def extWidth (w : BitVec 2) : Nat := 8 * 2 ^ w.toNat

/-! ## Opcode 0x01 -/

/-- ADD (R166). -/
def execAdd (xd xa xb : Reg) (sd sa sb : Bool) (s : State) : Res :=
  .next (alu2 (fun a b => a + b) xd xa xb sd sa sb s)

/-- SUB (R166). -/
def execSub (xd xa xb : Reg) (sd sa sb : Bool) (s : State) : Res :=
  .next (alu2 (fun a b => a - b) xd xa xb sd sa sb s)

/-- AND (R166). -/
def execAnd (xd xa xb : Reg) (sd sa sb : Bool) (s : State) : Res :=
  .next (alu2 (fun a b => a &&& b) xd xa xb sd sa sb s)

/-- OR (R166). -/
def execOr (xd xa xb : Reg) (sd sa sb : Bool) (s : State) : Res :=
  .next (alu2 (fun a b => a ||| b) xd xa xb sd sa sb s)

/-- XOR (R166). -/
def execXor (xd xa xb : Reg) (sd sa sb : Bool) (s : State) : Res :=
  .next (alu2 (fun a b => a ^^^ b) xd xa xb sd sa sb s)

/-- ANDN (R166). -/
def execAndn (xd xa xb : Reg) (sd sa sb : Bool) (s : State) : Res :=
  .next (alu2 (fun a b => a &&& ~~~b) xd xa xb sd sa sb s)

/-- SHL (R166). -/
def execShl (xd xa xb : Reg) (sd sa sb : Bool) (s : State) : Res :=
  .next (alu2 (fun a b => a <<< shCount b) xd xa xb sd sa sb s)

/-- SHR (R166). -/
def execShr (xd xa xb : Reg) (sd sa sb : Bool) (s : State) : Res :=
  .next (alu2 (fun a b => a >>> shCount b) xd xa xb sd sa sb s)

/-- SAR (R166). -/
def execSar (xd xa xb : Reg) (sd sa sb : Bool) (s : State) : Res :=
  .next (alu2 (fun a b => a.sshiftRight (shCount b)) xd xa xb sd sa sb s)

/-- ROL (R166). -/
def execRol (xd xa xb : Reg) (sd sa sb : Bool) (s : State) : Res :=
  .next (alu2 (fun a b => a.rotateLeft (shCount b)) xd xa xb sd sa sb s)

/-- MUL (R166). -/
def execMul (xd xa xb : Reg) (sd sa sb : Bool) (s : State) : Res :=
  .next (alu2 (fun a b => a * b) xd xa xb sd sa sb s)

/-- MULH (R166). -/
def execMulh (xd xa xb : Reg) (sd sa sb : Bool) (s : State) : Res :=
  .next (alu2 (mulHigh) xd xa xb sd sa sb s)

/-- MULHN (R166). -/
def execMulhn (xd xa xb : Reg) (sd sa sb : Bool) (s : State) : Res :=
  .next (alu2 (mulHighN) xd xa xb sd sa sb s)

/-- DIV (R167). -/
def execDiv (xd xa xb : Reg) (sd sa sb : Bool) (s : State) : Res :=
  .next (alu2 (divS) xd xa xb sd sa sb s)

/-- DIVN (R167). -/
def execDivn (xd xa xb : Reg) (sd sa sb : Bool) (s : State) : Res :=
  .next (alu2 (divN) xd xa xb sd sa sb s)

/-- REM (R167). -/
def execRem (xd xa xb : Reg) (sd sa sb : Bool) (s : State) : Res :=
  .next (alu2 (remS) xd xa xb sd sa sb s)

/-- REMN (R167). -/
def execRemn (xd xa xb : Reg) (sd sa sb : Bool) (s : State) : Res :=
  .next (alu2 (remN) xd xa xb sd sa sb s)

/-- MIN (R166). -/
def execMin (xd xa xb : Reg) (sd sa sb : Bool) (s : State) : Res :=
  .next (alu2 (fun a b => if a.slt b then a else b) xd xa xb sd sa sb s)

/-- MAX (R166). -/
def execMax (xd xa xb : Reg) (sd sa sb : Bool) (s : State) : Res :=
  .next (alu2 (fun a b => if a.slt b then b else a) xd xa xb sd sa sb s)

/-- MINN (R166). -/
def execMinn (xd xa xb : Reg) (sd sa sb : Bool) (s : State) : Res :=
  .next (alu2 (fun a b => if a.ult b then a else b) xd xa xb sd sa sb s)

/-- MAXN (R166). -/
def execMaxn (xd xa xb : Reg) (sd sa sb : Bool) (s : State) : Res :=
  .next (alu2 (fun a b => if a.ult b then b else a) xd xa xb sd sa sb s)

/-- CMPEQ (R166). -/
def execCmpeq (xd xa xb : Reg) (sd sa sb : Bool) (s : State) : Res :=
  .next (alu2 (fun a b => boolWord (a == b)) xd xa xb sd sa sb s)

/-- CMPLT (R166). -/
def execCmplt (xd xa xb : Reg) (sd sa sb : Bool) (s : State) : Res :=
  .next (alu2 (fun a b => boolWord (a.slt b)) xd xa xb sd sa sb s)

/-- CMPLTN (R166). -/
def execCmpltn (xd xa xb : Reg) (sd sa sb : Bool) (s : State) : Res :=
  .next (alu2 (fun a b => boolWord (a.ult b)) xd xa xb sd sa sb s)

/-- CLZ (R166). -/
def execClz (xd xa : Reg) (sd sa : Bool) (s : State) : Res :=
  .next (alu1 (fun a => BitVec.ofNat 64 (Sys2Proof.Machine.clz 64 a.toNat)) xd xa sd sa s)

/-- CTZ (R166). -/
def execCtz (xd xa : Reg) (sd sa : Bool) (s : State) : Res :=
  .next (alu1 (fun a => BitVec.ofNat 64 (Sys2Proof.Machine.ctz 64 a.toNat)) xd xa sd sa s)

/-- POPC (R166). -/
def execPopc (xd xa : Reg) (sd sa : Bool) (s : State) : Res :=
  .next (alu1 (fun a => BitVec.ofNat 64 (Sys2Proof.Machine.popc 64 a.toNat)) xd xa sd sa s)

/-- BSWAP (R166). -/
def execBswap (xd xa : Reg) (sd sa : Bool) (s : State) : Res :=
  .next (alu1 (bswap64) xd xa sd sa s)

/-- SEXT (R166). -/
def execSext (xd xa : Reg) (sd sa : Bool) (w : BitVec 2) (s : State) : Res :=
  .next (alu1 (fun a => sext (extWidth w) a.toNat) xd xa sd sa s)

/-- ZEXT (R166). -/
def execZext (xd xa : Reg) (sd sa : Bool) (w : BitVec 2) (s : State) : Res :=
  .next (alu1 (fun a => zext (extWidth w) a.toNat) xd xa sd sa s)

/-! ## Immediate forms (R169) -/

/-- A form that computes xd from Xa. -/
def immOp (f : Word → Word) (xd xa : Reg) (s : State) : State :=
  control s [xa] (some xd) fun s => .done (setX s xd (f (X s xa)))

/-- The sign-extended immediate of 16 bits, and that of 21 bits shifted left by 16. -/
def simm (imm : BitVec 16) : Word := imm.signExtend 64
def zimm (imm : BitVec 16) : Word := imm.setWidth 64
def himm (imm : BitVec 21) : Word := imm.signExtend 64 <<< 16

/-- ADDI (R169). -/
def execAddi (xd xa : Reg) (imm : BitVec 16) (s : State) : Res :=
  .next (immOp (fun a => a + simm imm) xd xa s)

/-- ANDI (R169). -/
def execAndi (xd xa : Reg) (imm : BitVec 16) (s : State) : Res :=
  .next (immOp (fun a => a &&& zimm imm) xd xa s)

/-- ORI (R169). -/
def execOri (xd xa : Reg) (imm : BitVec 16) (s : State) : Res :=
  .next (immOp (fun a => a ||| zimm imm) xd xa s)

/-- XORI (R169). -/
def execXori (xd xa : Reg) (imm : BitVec 16) (s : State) : Res :=
  .next (immOp (fun a => a ^^^ zimm imm) xd xa s)

/-- SHLI (R169). -/
def execShli (xd xa : Reg) (n : BitVec 6) (s : State) : Res :=
  .next (immOp (fun a => a <<< n.toNat) xd xa s)

/-- SHRI (R169). -/
def execShri (xd xa : Reg) (n : BitVec 6) (s : State) : Res :=
  .next (immOp (fun a => a >>> n.toNat) xd xa s)

/-- SARI (R169). -/
def execSari (xd xa : Reg) (n : BitVec 6) (s : State) : Res :=
  .next (immOp (fun a => a.sshiftRight n.toNat) xd xa s)

/-- CMPLTI (R169). -/
def execCmplti (xd xa : Reg) (imm : BitVec 16) (s : State) : Res :=
  .next (immOp (fun a => boolWord (a.slt (simm imm))) xd xa s)

/-- LDHI (R169). -/
def execLdhi (xd : Reg) (imm : BitVec 21) (s : State) : Res :=
  .next (control s [] (some xd) fun s => .done (setX s xd (himm imm)))

/-- ADDPC (R169). -/
def execAddpc (xd : Reg) (imm : BitVec 21) (s : State) : Res :=
  .next (control s [] (some xd) fun s => .done (setX s xd ((s.me.pc &&& ~~~0xFFFF#64) + himm imm)))

end Sys2Proof.Machine
end

