-- ==== Sys2Proof/Machine/Float.lean ====
section
/-!
DEFINITION. Numbers and rounding (R86 to R98): the value of every floating-point and narrow format, exact
arithmetic on values, and one rounding into a destination format with its flags. Exact finite values are
a sign, a natural and a power of two, so nothing is lost before the one rounding.
-/
namespace Sys2Proof.Machine

/-! ## Flags (R81, R92) -/

abbrev Flags := BitVec 7

def fNX : Flags := 0x01
def fUF : Flags := 0x02
def fOF : Flags := 0x04
def fDZ : Flags := 0x08
def fNV : Flags := 0x10
def fSORTV : Flags := 0x20
def fMXSAT : Flags := 0x40

/-! ## Formats (R86, R87) -/

/-- How a format uses its highest exponent. -/
inductive FKind where
  /-- infinities and NaNs as in IEEE 754 -/
  | ieee
  /-- E4M3: no infinity, one NaN of either sign -/
  | e4m3
  /-- E5M2: as IEEE 754, with one default NaN of its own -/
  | e5m2
  /-- no infinity and no NaN -/
  | finite
  deriving DecidableEq, Repr

/-- A floating-point format: exponent bits, fraction bits, bias. -/
structure Fmt where
  eb : Nat
  mb : Nat
  bias : Nat
  kind : FKind
  deriving DecidableEq, Repr

def fmtF64 : Fmt := ⟨11, 52, 1023, .ieee⟩
def fmtF32 : Fmt := ⟨8, 23, 127, .ieee⟩
def fmtF16 : Fmt := ⟨5, 10, 15, .ieee⟩
def fmtBf16 : Fmt := ⟨8, 7, 127, .ieee⟩
def fmtE4m3 : Fmt := ⟨4, 3, 7, .e4m3⟩
def fmtE5m2 : Fmt := ⟨5, 2, 15, .e5m2⟩
def fmtE3m2 : Fmt := ⟨3, 2, 3, .finite⟩
def fmtE2m3 : Fmt := ⟨2, 3, 1, .finite⟩
def fmtE2m1 : Fmt := ⟨2, 1, 1, .finite⟩

/-- Bits of an encoding. -/
def Fmt.width (f : Fmt) : Nat := 1 + f.eb + f.mb
/-- Exponent of the smallest subnormal. -/
def Fmt.qmin (f : Fmt) : Int := 1 - (f.bias : Int) - (f.mb : Int)
/-- Magnitude code of the infinity of an IEEE format and of E5M2. -/
def Fmt.infCode (f : Fmt) : Nat := (2 ^ f.eb - 1) * 2 ^ f.mb
/-- Magnitude code of the largest finite value. -/
def Fmt.maxCode (f : Fmt) : Nat :=
  match f.kind with
  | .ieee => f.infCode - 1
  | .e5m2 => f.infCode - 1
  | .e4m3 => 2 ^ (f.eb + f.mb) - 2
  | .finite => 2 ^ (f.eb + f.mb) - 1
/-- The default NaN (R93). -/
def Fmt.nan (f : Fmt) : Nat :=
  match f.kind with
  | .ieee => f.infCode + 2 ^ (f.mb - 1)
  | .e5m2 => 0x7F
  | .e4m3 => 0x7F
  | .finite => 0
/-- Encoding of a sign and a magnitude code. -/
def Fmt.pack (f : Fmt) (neg : Bool) (code : Nat) : Nat := (if neg then 2 ^ (f.eb + f.mb) else 0) + code

/-! ## Values -/

/-- A value: a NaN, an infinity, or (−1)^neg x m x 2^e. A finite value with m = 0 is a zero of its sign. -/
inductive FVal where
  | nan (signaling : Bool)
  | inf (neg : Bool)
  | fin (neg : Bool) (m : Nat) (e : Int)
  deriving DecidableEq, Repr

def FVal.isNan : FVal → Bool
  | .nan _ => true
  | .inf _ => false
  | .fin _ _ _ => false
def FVal.isSnan : FVal → Bool
  | .nan s => s
  | .inf _ => false
  | .fin _ _ _ => false
def FVal.neg : FVal → Bool
  | .nan _ => false
  | .inf n => n
  | .fin n _ _ => n
def FVal.isZero : FVal → Bool
  | .nan _ => false
  | .inf _ => false
  | .fin _ m _ => m == 0
/-- The value with its sign changed. -/
def FVal.negate : FVal → FVal
  | .nan s => .nan s
  | .inf n => .inf (!n)
  | .fin n m e => .fin (!n) m e

/-- A finite value by its magnitude code: subnormals and normals. -/
def Fmt.finOf (f : Fmt) (neg : Bool) (code : Nat) : FVal :=
  let e := code / 2 ^ f.mb
  if e = 0 then .fin neg code f.qmin
  else .fin neg (2 ^ f.mb + code % 2 ^ f.mb) (f.qmin + (e : Int) - 1)

/-- The value of an encoding (R86, R87): E4M3 and E5M2 NaNs are quiet. -/
def Fmt.value (f : Fmt) (x : Nat) : FVal :=
  let neg := x / 2 ^ (f.eb + f.mb) % 2 == 1
  let code := x % 2 ^ (f.eb + f.mb)
  match f.kind with
  | .finite => f.finOf neg code
  | .e4m3 => if code = 2 ^ (f.eb + f.mb) - 1 then .nan false else f.finOf neg code
  | .e5m2 => if code < f.infCode then f.finOf neg code else if code = f.infCode then .inf neg else .nan false
  | .ieee =>
    if code < f.infCode then f.finOf neg code
    else if code = f.infCode then .inf neg
    else .nan (code % 2 ^ f.mb < 2 ^ (f.mb - 1))

/-- An encoding is a subnormal number. -/
def Fmt.isSub (f : Fmt) (x : Nat) : Bool :=
  let code := x % 2 ^ (f.eb + f.mb)
  decide (0 < code) && decide (code < 2 ^ f.mb)

/-- The value of an MXINT8 element (R88). -/
def mxint8Value (x : Nat) : FVal :=
  let i := (BitVec.ofNat 8 x).toInt
  .fin (decide (i < 0)) i.natAbs (-6)

/-! ## Rounding (R90, R91, R94) -/

/-- Rounding modes, coded as R90 codes them: 0 RNE, 1 RTZ, 2 RUP, 3 RDN, 4 RMM. -/
abbrev RMode := Nat

/-- Whether a magnitude is rounded away from zero. `half` compares what is cut off with half a unit:
0 below, 1 equal, 2 above; `inexact` says that something is cut off; `odd` is the last bit kept. -/
def roundsAway (mode : RMode) (neg odd inexact : Bool) (half : Nat) : Bool :=
  match mode with
  | 1 => false
  | 2 => inexact && !neg
  | 3 => inexact && neg
  | 4 => decide (1 ≤ half)
  | _ => half == 2 || (half == 1 && odd)

/-- Bits in a natural. -/
def bitLen (m : Nat) : Nat := if m = 0 then 0 else Nat.log2 m + 1

/-- A magnitude cut to a multiple of 2^q: the multiple, and whether it is inexact. The magnitude is
m x 2^e, and a little more, less than 2^e, when `sticky`; then q is above e. -/
def cut (mode : RMode) (neg : Bool) (m : Nat) (e : Int) (sticky : Bool) (q : Int) : Nat × Bool :=
  if q ≤ e then (m * 2 ^ (e - q).toNat, sticky)
  else
    let sh := (q - e).toNat
    let n := m / 2 ^ sh
    let r := m % 2 ^ sh
    let h := 2 ^ (sh - 1)
    let inexact := r != 0 || sticky
    let half := if h < r || (r = h && sticky) then 2 else if r = h then 1 else 0
    (if roundsAway mode neg (n % 2 == 1) inexact half then n + 1 else n, inexact)

/-- The magnitude code that a nonzero magnitude rounds to in a format, as though its exponent had no
upper bound, and whether it is inexact. -/
def Fmt.code (f : Fmt) (mode : RMode) (neg : Bool) (m : Nat) (e : Int) (sticky : Bool) : Nat × Bool :=
  let q := max (e + (bitLen m : Int) - 1 - (f.mb : Int)) f.qmin
  let (n, inexact) := cut mode neg m e sticky q
  (n + (q - f.qmin).toNat * 2 ^ f.mb, inexact)

/-- Result of an overflow in an IEEE format (R90). -/
def Fmt.overflow (f : Fmt) (mode : RMode) (neg : Bool) : Nat :=
  let toMax := match mode with
    | 1 => true
    | 2 => neg
    | 3 => !neg
    | _ => false
  f.pack neg (if toMax then f.maxCode else f.infCode)

/-- Round a finite magnitude into an IEEE format (R90, R91): the encoding and the flags. -/
def Fmt.round (f : Fmt) (mode : RMode) (ftz : Bool) (neg : Bool) (m : Nat) (e : Int) (sticky : Bool) : Nat × Flags :=
  if m = 0 && !sticky then (f.pack neg 0, 0)
  else
    let (code, inexact) := f.code mode neg m e sticky
    let nx : Flags := if inexact then fNX else 0
    if f.maxCode < code then (f.overflow mode neg, fOF ||| fNX)
    else if code < 2 ^ f.mb then
      if ftz then (f.pack neg 0, fUF ||| fNX)
      else (f.pack neg code, if inexact then fUF ||| fNX else 0)
    else (f.pack neg code, nx)

/-- A value written in an IEEE format. -/
def Fmt.write (f : Fmt) (mode : RMode) (ftz : Bool) (v : FVal) : Nat × Flags :=
  match v with
  | .nan _ => (f.nan, 0)
  | .inf n => (f.pack n f.infCode, 0)
  | .fin n m e => f.round mode ftz n m e false

/-- A finite magnitude in a narrow floating-point format (R94); `sat` is the SAT field. -/
def Fmt.narrow (f : Fmt) (mode : RMode) (sat neg : Bool) (m : Nat) (e : Int) : Nat × Flags :=
  if m = 0 then (f.pack neg 0, 0)
  else
    let (code, inexact) := f.code mode neg m e false
    if f.maxCode < code then
      if sat && f.kind != .finite then (0x7F, fMXSAT ||| fNV) else (f.pack neg f.maxCode, fMXSAT ||| fNX)
    else if inexact then (f.pack neg code, if code < 2 ^ f.mb then fUF ||| fNX else fNX)
    else (f.pack neg code, 0)

/-- A value converted into a narrow floating-point format (R93, R94). -/
def Fmt.narrowVal (f : Fmt) (mode : RMode) (sat : Bool) (v : FVal) : Nat × Flags :=
  match v with
  | .nan s => if f.kind = .finite then (0, fNV) else (0x7F, if s then fNV else 0)
  | .inf n => if sat && f.kind != .finite then (0x7F, fMXSAT ||| fNV) else (f.pack n f.maxCode, fMXSAT ||| fNX)
  | .fin n m e => f.narrow mode sat n m e

/-- A value converted into MXINT8 (R88, R93, R94). -/
def toMxint8 (mode : RMode) (v : FVal) : Nat × Flags :=
  let enc (n : Bool) (j : Nat) : Nat := (BitVec.ofInt 8 (if n then -(j : Int) else (j : Int))).toNat
  match v with
  | .nan _ => (0, fNV)
  | .inf n => (enc n 127, fMXSAT ||| fNX)
  | .fin n m e =>
    let (j, inexact) := cut mode n m e false (-6)
    if 127 < j then (enc n 127, fMXSAT ||| fNX) else (enc n j, if inexact then fNX else 0)

/-- A value rounded to an integer in the mode, and whether it is inexact. -/
def toInt (mode : RMode) (n : Bool) (m : Nat) (e : Int) : Int × Bool :=
  let (j, inexact) := cut mode n m e false 0
  (if n then -(j : Int) else (j : Int), inexact)

/-- Float-to-integer conversion into `w` bits (R93). -/
def floatToInt (mode : RMode) (signed : Bool) (w : Nat) (v : FVal) : Nat × Flags :=
  let lo : Int := if signed then -(2 ^ (w - 1)) else 0
  let hi : Int := if signed then 2 ^ (w - 1) - 1 else 2 ^ w - 1
  let enc (i : Int) : Nat := (BitVec.ofInt w i).toNat
  match v with
  | .nan _ => (0, fNV)
  | .inf n => (enc (if n then lo else hi), fNV)
  | .fin n m e =>
    let (i, inexact) := toInt mode n m e
    if i < lo then (enc lo, fNV)
    else if hi < i then (enc hi, fNV)
    else (enc i, if inexact then fNX else 0)

/-- The value of an integer. -/
def intValue (i : Int) : FVal := .fin (decide (i < 0)) i.natAbs 0

/-! ## Exact arithmetic -/

/-- The signed integer of a finite value, in units of 2^q, for q at or below its exponent. -/
def signedAt (q : Int) (n : Bool) (m : Nat) (e : Int) : Int :=
  let k : Int := (m : Int) * 2 ^ (e - q).toNat
  if n then -k else k

/-- Exact sum of two finite values. A zero sum of unlike signs, or of cancellation, is +0, and −0 when
rounding down. -/
def finAdd (mode : RMode) (n1 : Bool) (m1 : Nat) (e1 : Int) (n2 : Bool) (m2 : Nat) (e2 : Int) : FVal :=
  if m1 = 0 && m2 = 0 then .fin (if n1 = n2 then n1 else mode == 3) 0 0
  else if m1 = 0 then .fin n2 m2 e2
  else if m2 = 0 then .fin n1 m1 e1
  else
    let q := min e1 e2
    let s := signedAt q n1 m1 e1 + signedAt q n2 m2 e2
    if s = 0 then .fin (mode == 3) 0 0 else .fin (decide (s < 0)) s.natAbs q

/-- Exact sum, with the flags of an invalid operation (R92). -/
def fAdd (mode : RMode) (a b : FVal) : FVal × Flags :=
  let sn : Flags := if a.isSnan || b.isSnan then fNV else 0
  match a, b with
  | .nan _, _ => (.nan false, sn)
  | _, .nan _ => (.nan false, sn)
  | .inf n, .inf k => if n = k then (.inf n, 0) else (.nan false, fNV)
  | .inf n, .fin _ _ _ => (.inf n, 0)
  | .fin _ _ _, .inf n => (.inf n, 0)
  | .fin n1 m1 e1, .fin n2 m2 e2 => (finAdd mode n1 m1 e1 n2 m2 e2, 0)

/-- Exact product. -/
def fMul (a b : FVal) : FVal × Flags :=
  let sn : Flags := if a.isSnan || b.isSnan then fNV else 0
  match a, b with
  | .nan _, _ => (.nan false, sn)
  | _, .nan _ => (.nan false, sn)
  | .inf n, .inf k => (.inf (n != k), 0)
  | .inf n, .fin k m _ => if m = 0 then (.nan false, fNV) else (.inf (n != k), 0)
  | .fin k m _, .inf n => if m = 0 then (.nan false, fNV) else (.inf (n != k), 0)
  | .fin n1 m1 e1, .fin n2 m2 e2 => (.fin (n1 != n2) (m1 * m2) (e1 + e2), 0)

/-- a x b + c, exact: 0 x infinity is invalid with any addend (R92). -/
def fFma (mode : RMode) (a b c : FVal) : FVal × Flags :=
  let (p, fp) := fMul a b
  let (r, fr) := fAdd mode p c
  (r, fp ||| fr)

/-- A result before its one rounding: an exact value, or a magnitude with more below its last bit. -/
inductive FRes where
  | exact (v : FVal)
  | more (neg : Bool) (m : Nat) (e : Int)
  deriving DecidableEq, Repr

/-- Round a result into an IEEE format. -/
def Fmt.finish (f : Fmt) (mode : RMode) (ftz : Bool) (r : FRes) : Nat × Flags :=
  match r with
  | .exact v => f.write mode ftz v
  | .more n m e => f.round mode ftz n m e true

/-- Bits that a quotient or root is computed to: more than any destination keeps. -/
def workBits : Nat := 128

/-- Quotient of two finite nonzero values. -/
def finDiv (n : Bool) (m1 : Nat) (e1 : Int) (m2 : Nat) (e2 : Int) : FRes :=
  let sh := workBits + bitLen m2
  let num := m1 * 2 ^ sh
  let e := e1 - e2 - (sh : Int)
  if num % m2 = 0 then .exact (.fin n (num / m2) e) else .more n (num / m2) e

/-- Division (R92, R93). -/
def fDiv (a b : FVal) : FRes × Flags :=
  let sn : Flags := if a.isSnan || b.isSnan then fNV else 0
  match a, b with
  | .nan _, _ => (.exact (.nan false), sn)
  | _, .nan _ => (.exact (.nan false), sn)
  | .inf _, .inf _ => (.exact (.nan false), fNV)
  | .inf n, .fin k _ _ => (.exact (.inf (n != k)), 0)
  | .fin n _ _, .inf k => (.exact (.fin (n != k) 0 0), 0)
  | .fin n m1 e1, .fin k m2 e2 =>
    if m2 = 0 then (if m1 = 0 then (.exact (.nan false), fNV) else (.exact (.inf (n != k)), fDZ))
    else if m1 = 0 then (.exact (.fin (n != k) 0 0), 0)
    else (finDiv (n != k) m1 e1 m2 e2, 0)

/-- Floor of a square root, bit by bit from 2^k down. -/
def isqrt (n : Nat) : Nat → Nat → Nat
  | 0, r => if (r + 1) * (r + 1) ≤ n then r + 1 else r
  | k + 1, r => isqrt n k (if (r + 2 ^ (k + 1)) * (r + 2 ^ (k + 1)) ≤ n then r + 2 ^ (k + 1) else r)

/-- Square root (R209). -/
def fSqrt (a : FVal) : FRes × Flags :=
  match a with
  | .nan s => (.exact (.nan false), if s then fNV else 0)
  | .inf n => if n then (.exact (.nan false), fNV) else (.exact (.inf false), 0)
  | .fin n m e =>
    if m = 0 then (.exact (.fin n 0 0), 0)
    else if n then (.exact (.nan false), fNV)
    else
      -- make the exponent even, then scale by an even power
      let m1 := if e % 2 = 0 then m else 2 * m
      let e1 := if e % 2 = 0 then e else e - 1
      let x := m1 * 2 ^ (2 * workBits)
      let r := isqrt x (bitLen x / 2) 0
      let e2 := e1 / 2 - (workBits : Int)
      (if r * r = x then .exact (.fin false r e2) else .more false r e2, 0)

/-! ## Powers and logarithms of two (R209) -/

/-- Fraction bits of the series below: enough to decide every rounding of an IEEE format. -/
def seriesBits : Nat := 320

/-- The natural logarithm of 2 in units of 2^-320, from below: the sum of 1 / (k 2^k). -/
def ln2 : Nat → Nat
  | 0 => 0
  | k + 1 => 2 ^ seriesBits / ((k + 1) * 2 ^ (k + 1)) + ln2 k

/-- The sum of t^n / n! from the n-th term up, `term` being that term. -/
def expSum (t : Nat) : Nat → Nat → Nat → Nat
  | 0, _, term => term
  | fuel + 1, n, term => term + expSum t fuel (n + 1) (term * t / 2 ^ seriesBits / (n + 1))

/-- 2^f in units of 2^-320, from below, for a fraction f in the same units. -/
def exp2Frac (f : Nat) : Nat := expSum (f * ln2 330 / 2 ^ seriesBits) 90 0 (2 ^ seriesBits)

/-- 2 to the power of a value (R209). A power that is no integer is irrational, so it is never exact. -/
def fExp2 (a : FVal) : FRes × Flags :=
  match a with
  | .nan s => (.exact (.nan false), if s then fNV else 0)
  | .inf n => (.exact (if n then .fin false 0 0 else .inf false), 0)
  | .fin n m e =>
    if m = 0 then (.exact (.fin false 1 0), 0)
    else if 14 < e + (bitLen m : Int) then
      -- magnitude at least 2^14: beyond the range of every format
      (if n then .more false 1 (-20000) else .exact (.fin false 1 20000), 0)
    else
      let q : Int := -(seriesBits : Int)
      let k := (cut 3 n m e false q)
      -- floor of a in units of 2^-320
      let x : Int := if n then -(k.1 : Int) else (k.1 : Int)
      let w : Int := x / 2 ^ seriesBits
      let f : Nat := (x % 2 ^ seriesBits).toNat
      if f = 0 && !k.2 then (.exact (.fin false 1 w), 0)
      else (.more false (exp2Frac f) (w + q), 0)

/-- Bits of the base-2 logarithm of y in [1, 2), y in units of 2^-320, most significant first. -/
def log2Bits : Nat → Nat → Nat → Nat
  | 0, _, acc => acc
  | fuel + 1, y, acc =>
    let z := y * y / 2 ^ seriesBits
    if 2 ^ (seriesBits + 1) ≤ z then log2Bits fuel (z / 2) (2 * acc + 1) else log2Bits fuel z (2 * acc)

/-- The base-2 logarithm of a value (R209). Unless the value is a power of two it is irrational. -/
def fLog2 (a : FVal) : FRes × Flags :=
  match a with
  | .nan s => (.exact (.nan false), if s then fNV else 0)
  | .inf n => if n then (.exact (.nan false), fNV) else (.exact (.inf false), 0)
  | .fin n m e =>
    if m = 0 then (.exact (.inf true), fDZ)
    else if n then (.exact (.nan false), fNV)
    else
      let l := bitLen m - 1
      let w : Int := e + (l : Int)
      if m = 2 ^ l then (.exact (intValue w), 0)
      else
        let y := m * 2 ^ seriesBits / 2 ^ l
        let b := log2Bits 256 y 0
        -- w + b / 2^256, from below
        let x : Int := w * 2 ^ 256 + b
        if 0 ≤ x then (.more false x.toNat (-256), 0) else (.more true (-x - 1).toNat (-256), 0)

/-! ## Comparison -/

/-- a < b for two values that are no NaN. -/
def fLt (a b : FVal) : Bool :=
  match a, b with
  | .nan _, _ => false
  | _, .nan _ => false
  | .inf n, .inf k => n && !k
  | .inf n, .fin _ _ _ => n
  | .fin _ _ _, .inf n => !n
  | .fin n1 m1 e1, .fin n2 m2 e2 =>
    let q := min e1 e2
    decide (signedAt q n1 m1 e1 < signedAt q n2 m2 e2)

/-- a = b, zeros of either sign being equal. -/
def fEq (a b : FVal) : Bool :=
  match a, b with
  | .nan _, _ => false
  | _, .nan _ => false
  | .inf n, .inf k => n == k
  | .inf _, .fin _ _ _ => false
  | .fin _ _ _, .inf _ => false
  | .fin n1 m1 e1, .fin n2 m2 e2 =>
    let q := min e1 e2
    decide (signedAt q n1 m1 e1 = signedAt q n2 m2 e2)

/-- The lesser for VFMIN: −0 is below +0 (R93). -/
def fBelow (a b : FVal) : Bool := fLt a b || (a.isZero && b.isZero && a.neg && !b.neg)

/-- VFMIN (`max` false) and VFMAX of two encodings (R93): which encoding, or the default NaN. -/
def Fmt.minMax (f : Fmt) (max : Bool) (x y : Nat) (a b : FVal) : Nat × Flags :=
  let nv : Flags := if a.isSnan || b.isSnan then fNV else 0
  if a.isNan && b.isNan then (f.nan, nv)
  else if a.isNan then (y, nv)
  else if b.isNan then (x, nv)
  else if max then (if fBelow a b then y else x, nv)
  else (if fBelow b a then y else x, nv)

end Sys2Proof.Machine
end

