-- ==== Sys2Proof/Machine/Operands.lean ====
section
/-!
DEFINITION. The common end of a block word (R155, R196, R197, R316).
-/
namespace Sys2Proof.Machine

/-- What a block word comes to. -/
inductive WRes where
  /-- it completes -/
  | done (s : State)
  /-- it completes, and the sequencer goes on at `pc` -/
  | jump (s : State) (pc : Word)
  /-- it completes, and has set the sequencer itself -/
  | final (s : State)
  /-- a precise trap at this word; the state keeps the progress of R196 -/
  | trap (t : TrapInfo) (s : State)
  /-- it cannot go on now -/
  | wait (s : State)
  /-- it consumes an uncorrectable error at a physical address, or 0 (R75, R341) -/
  | lost (s : State) (pa : Nat)

/-- The sequencer's address is moved on. -/
def setWordPc (s : State) (pc : Word) : State :=
  s.modHere fun c => { c with seq := { c.seq with pc := pc, answered := [], refused := [], stop := none, step := 0, red := none, idx := none } }

/-- A block fault is ready at the current word (R155, R316). -/
def wordFault (s : State) (t : TrapInfo) : State :=
  s.modHere fun c => { c with seq := { c.seq with fault := some { t with block := some c.seq.pc }, answered := [], refused := [] } }

/-- The end of a block word: the sequencer goes on, stops at a fault, or tries the word again. -/
def finishWord (r : WRes) : State :=
  match r with
  | .done s => setWordPc s (s.here.seq.pc + 8)
  | .jump s pc => setWordPc s pc
  | .final s => s
  | .trap t s => if t.later then s else wordFault s t
  | .wait s => s
  | .lost s pa => consume s s.cur.unit 0 pa

/-- How far the word at the sequencer goes in this turn, when it starts at `from_` and ends at `last` (R103, R196,
R231). -/
def stopPoint (s : State) (from_ last : Nat) : Nat :=
  match s.here.seq.stop with
  | none => last
  | some n => min last (from_ + n)

/-- The sequencer with the progress state of a reduction, or the step count of MMA.op. -/
def setRed (s : State) (r : Option RedState) : State := s.modHere fun c => { c with seq := { c.seq with red := r } }
def setStep (s : State) (n : Nat) : State := s.modHere fun c => { c with seq := { c.seq with step := n } }

/-- ELEM of a trap record for an element (R319). -/
def elemField (j : Nat) : BitVec 16 := BitVec.ofNat 16 (0x8000 + j % 0x2000)

/-- A held block word (R59, R197): it waits until the leg is the runner. -/
def heldWord (s : State) (body : State → WRes) : WRes :=
  match heldGate s s.cur.unit 0 with
  | .error (_, s) => .wait s
  | .ok s => body s

end Sys2Proof.Machine
end

