-- ==== Sys2Proof/Machine/Flags.lean ====
section
/-!
DEFINITION. The flags and the rounding of vector instructions (R90 to R92): which mode a word rounds in,
flushing of inputs, the sticky flags, and the value of an element by its type.
-/
namespace Sys2Proof.Machine

/-- OR flags into FLAGS, or into the leg FLAGS inside a region (R55, R92). -/
def raiseFlags (s : State) (fl : Flags) : State :=
  if fl = 0 then s else s.setVc { s.vc with flags := s.vc.flags ||| fl }

/-- Rounding mode of a word: its RND field, or RMODE.RM of its block (R83, R90). -/
def roundMode (s : State) (f : BlockFields) : RMode :=
  if f.rnd = 7 then bits s.block.rmode 0 3 else f.rnd.toNat

/-- RMODE.FTZ of the block (R91). -/
def ftzOn (s : State) : Bool := s.block.rmode.getLsbD 3
/-- RMODE.SORTVT of the block. -/
def sortTraps (s : State) : Bool := s.block.rmode.getLsbD 4

/-- The floating-point format of a type code. -/
def fmtOf (ty : BitVec 5) : Fmt :=
  match ty.toNat with
  | 8 => fmtF16
  | 9 => fmtBf16
  | 10 => fmtF32
  | 11 => fmtF64
  | 12 | 19 => fmtE4m3
  | 13 | 20 => fmtE5m2
  | 14 => fmtE3m2
  | 15 => fmtE2m3
  | _ => fmtE2m1

/-- emax of an MX element type (R87, R88). -/
def emaxOf (ty : BitVec 5) : Int :=
  match ty.toNat with
  | 12 => 8
  | 13 => 15
  | 14 => 4
  | 15 => 2
  | 16 => 2
  | _ => 0

/-- The value of the bits of an element, without any scale. -/
def elemValue (ty : BitVec 5) (x : Nat) : FVal := if ty = 17 then mxint8Value x else (fmtOf ty).value x

/-- An IEEE input: a subnormal is read as zero of its sign under FTZ, and raises UF (R91). -/
def flushIn (ftz : Bool) (ty : BitVec 5) (x : Nat) : Nat × Flags :=
  if ftz && isFloat ty && (fmtOf ty).isSub x then
    ((fmtOf ty).pack ((fmtOf ty).value x).neg 0, fUF)
  else (x, 0)

/-- The value of an IEEE input, and the flag of its flush. -/
def inValue (ftz : Bool) (ty : BitVec 5) (x : Nat) : FVal × Flags :=
  let (y, fl) := flushIn ftz ty x
  (elemValue ty y, fl)

end Sys2Proof.Machine
end

