-- ==== Sys2Proof/Machine/Lanes.lean ====
section
/-!
DEFINITION. The shared frame of vector instructions that work element by element (R193 to R196), and of
those that move elements or whole MX blocks from place to place (R75, R195, R215).
-/
namespace Sys2Proof.Machine

/-- An active element would read a poisoned group of one of the operands (R75). -/
def poisoned (v : VCtx) (h : Shape) (srcs : List (BitVec 5 × BitVec 5)) (on : Nat → Bool) : Bool :=
  srcs.any fun (n, ty) => v.poi n != 0 && (upTo h.count).any fun j => on j && elemBad (v.poi n) h ty j

/-- The operand checks of R70 and R71 for the destination's type and every source's. -/
def shapeTrap (h : Shape) (tys : List (BitVec 5)) : Bool := tys.any h.bad

/-- The writes of an elementwise instruction: active elements take their value, masked-off ones become
zero under zm (R195). -/
def maskedPuts (count : Nat) (zm : Bool) (on : Nat → Bool) (val : Nat → Put) : List Put :=
  (upTo count).filterMap fun j => if on j then some (val j) else if zm then some ⟨j, 0, false⟩ else none

/-- An elementwise instruction: `srcs` are its vector sources with their types, `val` gives the value
and the flags of an element. -/
def elementwise (s : State) (f : BlockFields) (srcs : List (BitVec 5 × BitVec 5)) (val : VCtx → Shape → Nat → Nat × Flags) : State :=
  let h := blockShape s f
  let v := s.vc
  let on := active v f f.ty
  finishWord
    (if shapeTrap h (f.ty :: srcs.map (·.2)) then .trap trapOperand s
    else if poisoned v h srcs on then .lost s 0
    else
      let outs := (upTo h.count).map fun j => if on j then (val v h j) else (0, 0)
      let l := (outs.zipIdx).filterMap fun (x, j) => if on j || f.zm then some (⟨j, x.1, false⟩ : Put) else none
      .done (raiseFlags (s.setVc (v.put f.vd h f.ty l)) (outs.foldl (fun fl x => fl ||| x.2) 0)))

/-- SX: the second source is a scalar (R194). -/
def usesX (f : BlockFields) : Bool := f.func.getLsbD 0

/-- The second source of element j (R194). -/
def second (s : State) (f : BlockFields) (v : VCtx) (h : Shape) (j : Nat) : Nat :=
  if usesX f then (xOperand s f).toNat % 2 ^ tyBits f.ty else elem (v.reg f.vb) h f.ty j

/-- Vector sources of an instruction with one or two sources. -/
def binSrcs (f : BlockFields) : List (BitVec 5 × BitVec 5) :=
  if usesX f then [(f.va, f.ty)] else [(f.va, f.ty), (f.vb, f.ty)]

/-! ## Progress of a destination (R73, R196) -/

/-- The progress index of Vn while its producer is stopped, or 128 (R73). -/
def setProg (v : VCtx) (n : BitVec 5) (g : Option Nat) : VCtx :=
  { v with prog := vset v.prog n.toNat (BitVec.ofNat 8 (g.getD 128)) }

/-- The group at which an in-order producer of Vn starts: the progress index at which it stopped. -/
def resumeGroup (v : VCtx) (n : BitVec 5) : Nat :=
  let p := (vget v.prog 128 n.toNat).toNat
  if p = 128 then 0 else p

/-! ## Moving elements and blocks (R75, R195, R215) -/

/-- Where moved elements come from: a register image with its poison and its scale bytes by row and
block, and the number of rows and columns that it holds. -/
structure Source where
  image : BitVec 65536
  poison : BitVec 128
  scale : Nat → Nat → Nat

/-- A vector register as a source. -/
def VCtx.source (v : VCtx) (n ty : BitVec 5) : Source := ⟨v.reg n, v.poi n, v.scale (isFp4 ty) n⟩

/-- One unit that an instruction writes: a unit of the source, or zeros with scale byte 0x00. -/
inductive Moved where
  | copy (i : Nat)
  | zero

/-- The elements that the writes of destination units come to. -/
def movePuts (h : Shape) (ty : BitVec 5) (src : Source) (l : List (Nat × Moved)) : List Put :=
  let n := unitSize ty
  l.flatMap fun (k, m) =>
    (upTo n).map fun t =>
      match m with
      | .copy i => ⟨n * k + t, elem src.image h ty (n * i + t), elemBad src.poison h ty (n * i + t)⟩
      | .zero => ⟨n * k + t, 0, false⟩

/-- The scale bytes that go with them. -/
def moveScales (h : Shape) (src : Source) (count : Nat) (l : List (Nat × Moved)) : List (Nat × Nat × Nat) :=
  l.map fun (k, m) =>
    let (r, b) := h.block k
    let byte := match m with
      | .copy i => if i < count then src.scale (h.block i).1 (h.block i).2 else 0
      | .zero => 0
    (r, b, byte)

/-- Write moved units into a register, MX blocks with their scale bytes as one result (R78). -/
def moveUnits (v : VCtx) (vd : BitVec 5) (h : Shape) (ty : BitVec 5) (src : Source) (l : List (Nat × Moved)) : VCtx :=
  let v1 := v.put vd h ty (movePuts h ty src l)
  if isMx ty then v1.putScales (isFp4 ty) vd (moveScales h src (units h ty) l) else v1

/-- A move: destination unit k takes the source unit that `from_` names, masked-off units follow zm. -/
def moveInstr (s : State) (f : BlockFields) (trap : Bool) (src : VCtx → Source) (from_ : VCtx → Shape → Nat → Moved) : State :=
  let h := blockShape s f
  let v := s.vc
  finishWord
    (if shapeTrap h [f.ty] || trap || (isMx f.ty && mixedBlock v f f.ty h.count) then .trap trapOperand s
    else
      let l := (upTo (units h f.ty)).filterMap fun k =>
        if unitOn v f k then some (k, from_ v h k) else if f.zm then some (k, .zero) else none
      .done (s.setVc (moveUnits v f.vd h f.ty (src v) l)))

end Sys2Proof.Machine
end

