-- ==== Sys2Proof/Machine/BlockControl.lean ====
section
/-!
DEFINITION. The start of a block and block control (R25, R198 to R201): VSTOP, VNOP, VLOOP, VREGION,
VREPLY; the taking of a block fault (R316) and an encoding that is no instruction (R154, R155).
-/
namespace Sys2Proof.Machine

/-- BLOCK_START (R25, R199): the sequencer begins to fetch the oldest block. -/
def execBlockStart (unit : Nat) (s : State) : Res :=
  .next (match (s.core unit).seq.fq with
    | [] => s
    | e :: _ =>
      if (s.core unit).seq.active || (s.core unit).seq.frozen || (s.core unit).seq.fault.isSome || s.vaulting unit then s
      else s.modCore unit fun c =>
        { c with seq := { c.seq with active := true, pc := e.addr, loops := Vector.replicate 4 0, resume := 0 } })

/-- BLOCK_FAULT_TAKE (R316): a block fault that is ready is taken by the strand context. -/
def execBlockFaultTake (unit : Nat) (s : State) : Res :=
  .next (if s.vaulting unit then s else takeBlockFault s unit)

/-- ILLEGAL_ENCODING (R154, R155): a control word traps its context, a block word stops the
sequencer. A word of the privileged opcode that is assigned is no such word. -/
def execIllegalEncoding (word : BadWord) (s : State) : Res :=
  .next (match word with
    | .control _ => finish s (.trap trapIllegal)
    | .block _ => finishWord (.trap trapIllegal s))

/-- VSTOP (R198): the block ends, and its entry is freed. -/
def execVstop (_f : BlockFields) (s : State) : Res :=
  .next (finishWord (.final (s.modHere fun c =>
    { c with seq := { c.seq with fq := c.seq.fq.tail, active := false, fin := c.seq.fin + 1 } })))

/-- VNOP (R198). -/
def execVnop (_f : BlockFields) (s : State) : Res := .next (finishWord (.done s))

/-- A write of a loop counter. -/
def setLoop (s : State) (c : Nat) (x : Word) : State :=
  s.modHere fun k => { k with seq := { k.seq with loops := vset k.seq.loops c x } }

/-- The target of VLOOP and VREGION: A + sext(OFF) x 8. -/
def wordTarget (s : State) (f : BlockFields) : Word := s.here.seq.pc + f.off.signExtend 64 <<< 3

/-- `vloop.set c, xn` (R199). -/
def execVloopSet (f : BlockFields) (s : State) : Res :=
  .next (finishWord (.done (setLoop s f.vd.toNat (xOperand s f))))

/-- `vloop c, target` (R199). -/
def execVloop (f : BlockFields) (s : State) : Res :=
  .next (let l := vget s.here.seq.loops 0 f.vd.toNat
    finishWord (if 1 < l.toNat then .jump (setLoop s f.vd.toNat (l - 1)) (wordTarget s f)
      else .done (setLoop s f.vd.toNat 0)))

/-- VREGION (R200): skip forward when no element of the active shape is governed. A predicate has 8,192 bits and the
active shape up to 16,384 elements: the bits that do not exist read as 0, so that with PINV = 1 their elements are
governed (DESIGN CHOICE, log entry 91). -/
def execVregion (f : BlockFields) (s : State) : Res :=
  .next (let n := s.block.vrows.toNat * s.block.vcols.toNat
    finishWord (if (upTo n).any (govOn s.vc f) then .done s else .jump s (wordTarget s f)))

/-- Sign-extension of an element to 64 bits for signed integer types, zero-extension for others (R201). -/
def replyWord (ty : BitVec 5) (x : Nat) : Word := if isSigned ty then sext (tyBits ty) x else BitVec.ofNat 64 x

/-- VREPLY (R201, R28). -/
def execVreply (f : BlockFields) (s : State) : Res :=
  .next (let h := blockShape s f
    let k := if f.func.getLsbD 0 then (xOperand s f).toNat else 0
    finishWord
      (if shapeTrap h [f.ty] then .trap trapOperand s
      else if 16 ≤ s.here.seq.reply.length then .wait s
      else if elemBad (s.vc.poi f.va) h f.ty k then .lost s 0
      else .done (s.modHere fun c =>
        { c with seq := { c.seq with reply := c.seq.reply ++ [replyWord f.ty (elem (s.vc.reg f.va) h f.ty k)] } })))

end Sys2Proof.Machine
end

