-- ==== Sys2Proof/Machine/LegControl.lean ====
section
/-!
DEFINITION. Leg control (R39 to R46, R55 to R57, R62, R63, R176 to R179): FORK, FORKI, JOIN, BSEND, BAR,
LEGID, and the common part of commits and finishes.
-/
namespace Sys2Proof.Machine

/-- The instructions of R12 run in a strand context only, and R322 forbids them in trap mode. R12 names contexts 1 to 7;
context 0 of a management core, which is no strand context either, takes the same trap (DESIGN CHOICE, log entry
70). -/
def notStrand (s : State) : Bool := s.cur.ctx != 0 || isMgmt s.cur.unit || s.me.trap != .none

/-- The strand context is in trap mode: an instruction that R322 forbids there still reports a misaligned fetch, or a
translation fault on fetch, of its own ahead of it (R315). -/
def inHandler (s : State) : Bool := s.cur.ctx == 0 && !isMgmt s.cur.unit && s.me.trap != .none

/-- A control instruction of R12 and R322: illegal outside a strand context that is not in trap mode. -/
def strandControl (s : State) (srcs : List Reg) (dst : Option Reg) (body : State → CRes) : State :=
  if notStrand s then finish s (.trap trapIllegal) else control s srcs dst body

/-! ## FORK and FORKI -/

/-- The iteration count N (R40). -/
def iterCount (base step endv : Int) : Nat :=
  if 0 < step then (if base < endv then ((endv - base + step - 1) / step).toNat else 0)
  else if endv < base then ((base - endv - step - 1) / (-step)).toNat
  else 0

/-- The word of JOIN (R178). -/
def joinWord : Ctl := 0x98000000#32

/-- Span index of a core. -/
def spanIndex (h u : Nat) : Nat := u - h

/-- The checks that only a FORK or FORKI that forks legs makes (R41): illegal-operand when true. -/
def forkChecks (s : State) (indep : Bool) (xind : Reg) (h : Nat) (x : Strand) : Bool :=
  let m := s.me
  m.legsz == 0 ||
    (!indep && decide (8 < popc 32 (m.predm &&& m.carrym &&& ~~~(1#32 <<< xind.toNat)).toNat)) ||
    (decide (4 < popc 32 m.vcarry.toNat) && (Strand.cores h x).any fun u => (s.core u).lock.isSome)

/-- The stride predictor's strides for a FORK at this address; a tag miss replaces the site (R46). -/
def predict (s : State) (forkPc : Word) : Vector Word 32 × State :=
  let r := ringOf s.cur.unit
  let k := bits forkPc 2 6
  let tag := forkPc.extractLsb' 8 48
  let zero : Vector Word 32 := Vector.replicate 32 0
  match (s.ring r).sites.find? k with
  | some t => if t.tag = tag then (t.strides, s) else (zero, s.modRing r fun x => { x with sites := x.sites.set k ⟨tag, zero⟩ })
  | none => (zero, s.modRing r fun x => { x with sites := x.sites.set k ⟨tag, zero⟩ })

/-- Place the snapshots of VCARRY on a core (R42). What a register with poisoned groups does at the FORK is
not said: its bytes are copied as they stand, and the area and the legs hold no poison (DESIGN CHOICE, log
entry 52). -/
def placeSnaps (v : VCtx) (regs : List Nat) (c : Core) : Core :=
  let put (c : Core) (ri : Nat × Nat) : Core :=
    { c with
      sp := c.sp.writeN (snapAddr ri.2) (bvBytes 8192 (vget v.v 0 ri.1))
      spPoison := clearPoison c.spPoison (snapAddr ri.2) 8192 false }
  { regs.zipIdx.foldl put c with snaps := regs.length }

/-- By span index, the first leg that starts there after leg 0 (R14). -/
def nextLegs (c0 size : Nat) : FMap Nat :=
  (upTo size).foldl (fun m k => m.set ((c0 + k) % size) (if k = 0 then size else k)) []

/-- The region that a FORK or FORKI opens. -/
def newRegion (s : State) (indep : Bool) (xind : Reg) (base step endv joinPc : Word) (n c0 size : Nat)
    (strides : Vector Word 32) : Region :=
  let m := s.me
  let v := s.vc
  { indep := indep, forkPc := m.pc, joinPc := joinPc, xind := xind, base := base, step := step, endv := endv,
    n := n, legs := ceilDiv n m.legsz.toNat, legsz := m.legsz.toNat, carrym := m.carrym, predm := m.predm,
    vcarry := m.vcarry, c0 := c0, forkX := m.x, prio := m.prio, vrows := v.vrows, vcols := v.vcols,
    mshape := v.mshape, rmode := v.rmode, strides := strides, runner := 0, arrived := true,
    next := nextLegs c0 size, early := [], barCount := 0, barGen := false, finished := 0 }

/-- Open the region and start leg 0 on the forking core (R14, R42, R43). -/
def forkLegs (s : State) (h : Nat) (x : Strand) (r : Region) : State :=
  let v := s.vc
  let s := s.setStrand h { x with region := some r, flags := x.flags ||| v.flags }
  let s := (Strand.cores h x).foldl (fun s u => s.modCore u (placeSnaps v (regsIn r.vcarry))) s
  startLegOn s s.cur.unit r (r.newLeg 0 0 (Vector.replicate 32 0) [] 0)

/-- A FORK or FORKI outside a region (R377, R40 to R44). Leg 0 of a FORK region keeps its stores in the leg cache of the
core (R48): the FORK waits until that has power and is admitted (log entry 57). -/
def forkOuter (s : State) (indep : Bool) (xind : Reg) (base step endv joinPc : Word) : CRes :=
  let u := s.cur.unit
  match s.here.strand with
  | none => .trap trapIllegal
  | some h =>
    match s.strand? h with
    | none => .trap trapIllegal
    | some x =>
      let n := iterCount base.toInt step.toInt endv.toInt
      if n = 0 then .jump s (joinPc + 4)
      else if !s.blocksDone u 0 then .stall .blocks s
      else if !s.performedAt u 0 1 || (!indep && s.cacheOff u) then .stall .order s
      else
        let (strides, s) := if indep then (Vector.replicate 32 0, s) else predict s s.me.pc
        let r := newRegion s indep xind base step endv joinPc n (spanIndex h u) x.size strides
        .final (forkLegs (retire s u 0) h x r)

/-- A FORK or FORKI inside a leg runs its loop in that leg (R17, R177). -/
def forkInner (s : State) (xind : Reg) (base step endv joinPc : Word) : CRes :=
  let n := iterCount base.toInt step.toInt endv.toInt
  if n = 0 then .jump s (joinPc + 4)
  else
    let e : Nest := ⟨s.me.pc, joinPc, step, endv, xind, 0, n⟩
    .done (s.modMe fun c => { c with nest := e :: c.nest })

/-- The operand checks of a FORK or FORKI other than the join word's (R41, R177). Inside a leg, a full nest
stack traps whatever N is: that a loop of no iterations needs no entry is not said (DESIGN CHOICE, log
entry 54). -/
def forkOperandsBad (s : State) (indep : Bool) (xind : Reg) (step : Word) : Bool :=
  step == 0 || xind == 0 ||
    if s.here.leg.isSome then decide (4 ≤ s.me.nest.length)
    else
      match s.here.strand with
      | none => false
      | some h =>
        match s.strand? h with
        | none => false
        | some x => forkChecks s indep xind h x

/-- FORK and FORKI (R176). -/
def forkOp (indep : Bool) (xind xstep xend : Reg) (fn : BitVec 11) (s : State) : State :=
  let at_ := s.me.pc + 4 * fn.setWidth 64
  match (if inHandler s then s.xlate s.cur.unit 0 .fetch false at_ else .ok ⟨0, .cacheable⟩) with
  | .error st => finish s (.trap (trapXlate true st at_))
  | .ok _ =>
  strandControl s [xind, xstep, xend] none fun s =>
    let base := X s xind
    let step := X s xstep
    let endv := X s xend
    let joinPc := s.me.pc + 4 * fn.setWidth 64
    match s.xlate s.cur.unit 0 .fetch false joinPc with
    | .error st => .trap (trapXlate true st joinPc)
    | .ok tg =>
      let s := s.fillPage s.cur.unit 0 joinPc
      if forkOperandsBad s indep xind step then .trap trapOperand
      else if !tg.attr.cached then .trap (trapAt 0x08 joinPc)
      else if bytesBV 32 (view s s.cur.unit 0 tg.pa 4) ≠ joinWord then .trap trapOperand
      else if s.here.leg.isSome then forkInner s xind base step endv joinPc
      else forkOuter s indep xind base step endv joinPc

/-- FORK (R40, R176). -/
def execFork (xd xa xb : Reg) (fn : BitVec 11) (s : State) : Res := .next (forkOp false xd xa xb fn s)
/-- FORKI (R62, R176). -/
def execForki (xd xa xb : Reg) (fn : BitVec 11) (s : State) : Res := .next (forkOp true xd xa xb fn s)

/-! ## The barrier of a FORKI region (R63) -/

/-- Release the contexts that wait at a BAR. -/
def releaseBar (s : State) (u : Nat) : State :=
  if (s.ctx u 0).barArrived then
    (retire s u 0).modCtx u 0 fun x => { x with barArrived := false, pc := x.pc + 4 }
  else s

/-- Every access that the legs of the strand have made, and every store that they have read, is performed at
ring scope: those of legs that have left their cores too (R63). -/
def spanPerformed (s : State) (h : Nat) (x : Strand) : Bool :=
  let mine (o : Nat) : Bool := (Strand.cores h x).contains o
  !s.fab.pend.any fun p => (p.ctx == 0 && mine p.owner) || p.readers.any fun y => y.1 == 0 && mine y.2

/-- When every leg has arrived or finished, and what the legs did before it is performed, the generation flips
and the waiting legs go on. -/
def barCheck (s : State) (h : Nat) : State :=
  match s.strand? h with
  | none => s
  | some x =>
    match x.region with
    | none => s
    | some r =>
      if 0 < r.barCount && r.barCount + r.finished = r.legs && spanPerformed s h x then
        let s := s.setStrand h { x with region := some { r with barCount := 0, barGen := !r.barGen } }
        (Strand.cores h x).foldl releaseBar s
      else s

/-- BAR (R63). -/
def execBar (s : State) : Res :=
  .next (strandControl s [] none fun s =>
    let u := s.cur.unit
    match s.here.leg, s.here.strand, s.regionOf u with
    | some _, some h, some r =>
      let size := match s.strand? h with
        | some x => x.size
        | none => 1
      if !r.indep || size < r.legs then .trap trapIllegal
      else if s.me.barArrived then
        let s := barCheck s h
        if (s.ctx u 0).barArrived then .stall .bar s else .final s
      else if !s.blocksDone u 0 then .stall .blocks s
      else if !s.performedAt u 0 1 then .stall .order s
      else
        let s := s.modStrand h fun x => { x with region := x.region.map fun r => { r with barCount := r.barCount + 1 } }
        .final (barCheck (s.modMe fun x => { x with barArrived := true, stall := some .bar }) h)
    | _, _, _ => .trap trapIllegal)

/-! ## The end of a leg -/

/-- Free context 0 of a core. -/
def freeStrandCtx (c : Core) : Core :=
  { c.leaveRotation 0 with
    ctxs := vset c.ctxs 0 { c.ctx 0 with resident := false, stall := .none, nest := [], monitor := .none, yielded := false, barArrived := false, deferred := false }
    lockQ := c.lockQ.filter (· != 0) }

/-- A leg that is not the final one leaves its core, and frees the lock it holds (R187). -/
def leaveLeg (s : State) (u : Nat) : State :=
  s.modCore u fun c =>
    { freeStrandCtx c with
      leg := none
      lock := if c.lock = some 0 then none else c.lock
      lines := c.lines.filter fun x => x.st != .L || x.dirty != 0 }

/-- The region ends on the core of the final leg: the strand continues there (R15, R57, R220). -/
def endRegion (s : State) (h u : Nat) (x : Strand) (r : Region) : State :=
  let s := (Strand.cores h x).foldl (fun s v => s.modCore v fun c =>
    { c with
      snaps := 0
      copies := c.copies.map (fun k => { k with leg := none })
      ctxs := vset c.ctxs 0 { c.ctx 0 with rcopies := (c.ctx 0).rcopies.map (fun k => { k with leg := none }) }
      xfwd := if r.indep then none else c.xfwd
      xbwd := if r.indep then none else c.xbwd }) s
  let s := s.modCore u fun c => { c with leg := none, v := { c.v with flags := 0 } }
  let s := s.setStrand h { x with at_ := u, region := none }
  -- stores of the legs of a FORKI region are from here on earlier stores of the strand (R15, R18)
  let s := if r.indep then
      s.modFab fun f => { f with pend := f.pend.map fun p =>
        let mine (o : Nat) : Bool := (Strand.cores h x).contains o
        { p with
          owner := if p.ctx = 0 && mine p.owner then h else p.owner
          readers := (p.readers.map fun y => if y.1 = 0 && mine y.2 then (0, h) else y).eraseDups } }
    else s
  (retire s u 0).modCtx u 0 fun c => { c with pc := c.pc + 4 }

/-- The strides that a commit records (R46): the leg's final value less its start value. Of the final leg,
which sends no value, the final value is taken too (DESIGN CHOICE, log entry 53). -/
def recordStrides (s : State) (u : Nat) (r : Region) (l : Leg) : State :=
  let c := s.ctx u 0
  let tag := r.forkPc.extractLsb' 8 48
  let k := bits r.forkPc 2 6
  let m := r.carried &&& r.predm
  if m = 0 then s
  else
    s.modRing (ringOf u) fun x =>
      match x.sites.find? k with
      | none => x
      | some t =>
        if t.tag ≠ tag then x
        else
          let d := (regsIn m).foldl (fun d n => vset d n (c.reg n - vget l.start 0 n)) t.strides
          { x with sites := x.sites.set k { t with strides := d } }

/-- The runner that has executed its last JOIN commits (R55). -/
def commitLeg (s : State) (h u : Nat) (x : Strand) (r : Region) (l : Leg) : CRes :=
  if !s.blocksDone u 0 then .stall .blocks s
  else if s.versioned u 0 && !commitReady s u then .stall .order (waitCommit s u)
  else
    let s := if s.versioned u 0 then commitLines s u else s
    let s := recordStrides s u r l
    let c := s.ctx u 0
    let count := BitVec.ofNat 32 (min (x.subcnt.toNat + c.legSub.toNat) (2 ^ 32 - 1))
    let x := { x with flags := x.flags ||| (s.core u).v.flags, subcnt := count }
    let s := s.modCore u fun k => { k with seq := { k.seq with reply := [] }, leg := k.leg.map fun l => { l with undo := [] } }
    let s := s.modCtx u 0 fun c => { c with legSub := 0 }
    if l.k + 1 = r.legs then .final (endRegion s h u x r)
    else
      let r := { r with runner := l.k + 1, arrived := false }
      .final (leaveLeg ((retire s u 0).setStrand h { x with region := some r }) u)

/-- A FORKI leg that has executed its last JOIN finishes (R62). -/
def finishLeg (s : State) (h u : Nat) (x : Strand) (r : Region) (l : Leg) : CRes :=
  if !s.blocksDone u 0 then .stall .blocks s
  else
    let counted := l.early
    let r := if counted then r else { r with finished := r.finished + 1 }
    let x := if counted then x else { x with flags := x.flags ||| (s.core u).v.flags, region := some r }
    let s := if counted then s else
      (s.setStrand h x).modCore u fun k =>
        { k with seq := { k.seq with reply := [] }, v := { k.v with flags := 0 }, leg := k.leg.map fun l => { l with early := true } }
    let s := barCheck s h
    if l.k + 1 = r.legs then
      if r.finished = r.legs then .final (endRegion s h u ((s.strand? h).getD x) r) else .stall .join s
    else .final (leaveLeg (retire s u 0) u)

/-- The implicit sends of a leg's last JOIN (R45). A register whose value has not been delivered is
passed on when it is. -/
def implicitSends (s : State) (h u : Nat) (r : Region) (l : Leg) : State :=
  if r.indep || l.k + 1 = r.legs then s
  else
    (regsIn (r.carried &&& ~~~l.pending)).foldl
      (fun s n => sendParcel s h (l.k + 1) (.value (BitVec.ofNat 5 n) ((s.ctx u 0).reg n))) s

/-- The rest of a leg's last JOIN, issued again until the leg has committed or finished. -/
def joinEnd (s : State) (h u : Nat) : CRes :=
  match s.strand? h, (s.core u).leg with
  | some x, some l =>
    match x.region with
    | none => .trap trapIllegal
    | some r =>
      if r.indep then finishLeg s h u x r l
      else if !s.isRunner u 0 then .stall .join s
      else commitLeg s h u x r l
  | _, _ => .trap trapIllegal

/-- JOIN of the region that forked the legs. -/
def joinOuter (s : State) (h u : Nat) (r : Region) (l : Leg) : CRes :=
  if l.joined then joinEnd s h u
  else
    let s := setX s r.xind (X s r.xind + r.step)
    if l.i + 1 ≤ r.last l.k then
      .jump (s.modHere fun c => { c with leg := c.leg.map fun l => { l with i := l.i + 1 } }) (r.forkPc + 4)
    else
      let s := s.modHere fun c => { c with leg := c.leg.map fun l => { l with i := l.i + 1, joined := true } }
      joinEnd (implicitSends s h u r l) h u

/-- The xind that a JOIN of an inner region advances is that of another open region (R41). -/
def joinClash (s : State) : Bool :=
  match s.me.nest with
  | [] => false
  | e :: rest =>
    (match s.regionOf s.cur.unit with
      | some r => r.xind == e.xind
      | none => false) || rest.any fun x => x.xind == e.xind

/-- JOIN of an inner region (R178). -/
def joinInner (s : State) (e : Nest) (rest : List Nest) : CRes :=
  let s := setX s e.xind (X s e.xind + e.step)
  if e.i + 1 < e.n then .jump (s.modMe fun c => { c with nest := { e with i := e.i + 1 } :: rest }) (e.forkPc + 4)
  else .done (s.modMe fun c => { c with nest := rest })

/-- The register that a JOIN reads and writes. -/
def joinInd (s : State) : List Reg :=
  match s.me.nest, s.regionOf s.cur.unit with
  | e :: _, _ => [e.xind]
  | [], some r => [r.xind]
  | [], none => []

/-- JOIN (R178). -/
def execJoin (s : State) : Res :=
  .next (if joinClash s then finish s (.trap trapIllegal)
    else strandControl s (joinInd s) none fun s =>
    let u := s.cur.unit
    match s.here.leg, s.here.strand, s.regionOf u with
    | some l, some h, some r =>
      match s.me.nest with
      | e :: rest => joinInner s e rest
      | [] => joinOuter s h u r l
    | _, _, _ => .trap trapIllegal)

/-! ## BSEND and LEGID -/

/-- BSEND (R45, R41, R179). -/
def execBsend (xa : Reg) (s : State) : Res :=
  .next (strandControl s [xa] none fun s =>
    match s.here.leg, s.here.strand, s.regionOf s.cur.unit with
    | some l, some h, some r =>
      if r.carried.getLsbD xa.toNat && l.k + 1 ≠ r.legs then .done (sendParcel s h (l.k + 1) (.value xa (X s xa)))
      else .done s
    | _, _, _ => .trap trapIllegal)

/-- LEGID.LEG of the issuing context (R39). -/
def legNumber (s : State) : Nat :=
  if s.cur.ctx = 0 then
    match s.here.leg with
    | some l => l.k
    | none => 0
  else 0

/-- LEGID (R179). -/
def execLegid (xd : Reg) (s : State) : Res :=
  .next (control s [] (some xd) fun s => .done (setX s xd (BitVec.ofNat 64 (legNumber s % 2 ^ 32))))

end Sys2Proof.Machine
end

