-- ==== Sys2Proof/Machine/BlockQueue.lean ====
section
/-!
DEFINITION. The control stream's side of the vector sequencer (R25 to R28, R180 to R182): VFETCH, VFETCHX,
VWAIT, RDREPLY, VSET.
-/
namespace Sys2Proof.Machine

/-- Carried registers of the leg that have not been written: a word of the block that names one reads the
value with which the leg starts (R26, R44). -/
def freshRegs (s : State) : BitVec 32 :=
  match s.here.leg, s.regionOf s.cur.unit with
  | some l, some r => if r.indep then 0 else r.carried &&& ~~~l.written
  | _, _ => 0

/-- Enqueue the block at an address (R25, R145, R180). A block keeps the shape, the rounding mode and
the scalar registers of its VFETCH (R26, R83). -/
def enqueueBlock (s : State) (target : Word) : CRes :=
  if target.toNat % 8 ≠ 0 then .trap (trapAt 0x04 target)
  else if 16 ≤ s.here.seq.fq.length then .stall .fetchFull s
  else
    let e : Fetch := ⟨target, s.vc.vrows, s.vc.vcols, s.vc.rmode, s.me.x, freshRegs s, s.here.copyNo⟩
    .done (s.modHere fun c => { c with seq := { c.seq with fq := c.seq.fq ++ [e] } })

/-- In trap mode a misaligned block address is reported ahead of the illegal instruction (R315, R322). -/
def badBlock (s : State) (target : Word) : Bool := inHandler s && target.toNat % 8 != 0

/-- VFETCH (R180). -/
def execVfetch (off : BitVec 26) (s : State) : Res :=
  .next (let target := s.me.pc + off.signExtend 64 <<< 2
    if badBlock s target then finish s (.trap (trapAt 0x04 target))
    else strandControl s [] none fun s => enqueueBlock s target)

/-- VFETCHX (R180). -/
def execVfetchx (xa : Reg) (s : State) : Res :=
  .next (if badBlock s (X s xa) && (pendingSrc s [xa]).isNone then finish s (.trap (trapAt 0x04 (X s xa)))
    else strandControl s [xa] none fun s => enqueueBlock s (X s xa))

/-- VWAIT (R181). -/
def execVwait (s : State) : Res :=
  .next (strandControl s [] none fun s => if s.blocksDone s.cur.unit 0 then .done s else .stall .blocks s)

/-- RDREPLY (R181, R28). -/
def execRdreply (xd : Reg) (s : State) : Res :=
  .next (strandControl s [] (some xd) fun s =>
    match s.here.seq.reply with
    | [] => .stall .replyEmpty s
    | v :: rest => .done (setX (s.modHere fun c => { c with seq := { c.seq with reply := rest } }) xd v))

/-- VSET (R182, R16). -/
def execVset (xd xa xb : Reg) (s : State) : Res :=
  .next (if s.cur.ctx ≠ 0 || isMgmt s.cur.unit || s.here.leg.isSome then finish s (.trap trapIllegal)
    else control s [xa, xb] (some xd) fun s =>
      let a := (X s xa).toNat
      let b := (X s xb).toNat
      if a = 0 || b = 0 then .trap trapOperand
      else
        let rows := min a 16
        let cols := min b 1024
        .done (setX (s.setVc { s.vc with vrows := BitVec.ofNat 5 rows, vcols := BitVec.ofNat 11 cols }) xd (BitVec.ofNat 64 (rows * cols))))

end Sys2Proof.Machine
end

