-- ==== Sys2Proof/Machine/Branch.lean ====
section
/-!
DEFINITION. Branches and jumps (R174, R175).
-/
namespace Sys2Proof.Machine

/-- A conditional branch on two registers. -/
def branchOp (rel : Word → Word → Bool) (xa xb : Reg) (off : BitVec 15) (s : State) : State :=
  control s [xa, xb] none fun s =>
    if rel (X s xa) (X s xb) then .jump s (s.me.pc + off.signExtend 64 <<< 2) else .done s

/-- BEQ (R174). -/
def execBeq (xa xb : Reg) (off : BitVec 15) (s : State) : Res := .next (branchOp (fun a b => a == b) xa xb off s)
/-- BNE (R174). -/
def execBne (xa xb : Reg) (off : BitVec 15) (s : State) : Res := .next (branchOp (fun a b => a != b) xa xb off s)
/-- BLT (R174). -/
def execBlt (xa xb : Reg) (off : BitVec 15) (s : State) : Res := .next (branchOp (fun a b => a.slt b) xa xb off s)
/-- BLTN (R174). -/
def execBltn (xa xb : Reg) (off : BitVec 15) (s : State) : Res := .next (branchOp (fun a b => a.ult b) xa xb off s)
/-- BGE (R174). -/
def execBge (xa xb : Reg) (off : BitVec 15) (s : State) : Res := .next (branchOp (fun a b => !a.slt b) xa xb off s)
/-- BGEN (R174). -/
def execBgen (xa xb : Reg) (off : BitVec 15) (s : State) : Res := .next (branchOp (fun a b => !a.ult b) xa xb off s)

/-- The target of a J-format word. -/
def jTarget (s : State) (off : BitVec 26) : Word := s.me.pc + off.signExtend 64 <<< 2

/-- JMP (R175). -/
def execJmp (off : BitVec 26) (s : State) : Res := .next (control s [] none fun s => .jump s (jTarget s off))

/-- CALL (R175). -/
def execCall (off : BitVec 26) (s : State) : Res :=
  .next (control s [] (some 31) fun s => .jump (setX s 31 (s.me.pc + 4)) (jTarget s off))

/-- A jump to a register's address; a target that is not a multiple of 4 traps at the jump (R145). -/
def jumpReg (target : Word) (link : State → State) (s : State) : CRes :=
  if target.toNat % 4 ≠ 0 then .trap (trapAt 0x04 target) else .jump (link s) target

/-- JR (R175). -/
def execJr (xa : Reg) (s : State) : Res := .next (control s [xa] none fun s => jumpReg (X s xa) (fun s => s) s)

/-- CALLR (R175). -/
def execCallr (xd xa : Reg) (s : State) : Res :=
  .next (control s [xa] (some xd) fun s => jumpReg (X s xa) (fun s => setX s xd (s.me.pc + 4)) s)

end Sys2Proof.Machine
end

