-- ==== Sys2Proof/Machine/LoadStore.lean ====
section
/-!
DEFINITION. Scalar loads and stores of memory (R170, R172) and of the scratchpad (R171), and the AMO
family (R173, R130).
-/
namespace Sys2Proof.Machine

/-- EA = Xa + sext(offset) x 2^sz (R147, R170). -/
def effAddr (s : State) (xa : Reg) (off : BitVec 14) (sz : Nat) : Word := X s xa + off.signExtend 64 <<< sz

/-- A load has completed. A poisoned result has a free value and raises the consumption event (R170,
R341); `pa` is the address of the error. -/
def loadDone (s : State) (xd : Reg) (v : Word) (bad : Bool) (pa : Nat) : CRes :=
  if bad then
    let u := s.cur.unit
    let c := s.cur.ctx
    let s := (setX s xd (Config.freeWord s.fresh)).tick
    .final (consume ((retire s u c).modCtx u c fun x => { x with pc := x.pc + 4 }) u c pa)
  else .done (setX s xd v)

/-- Physical address of an access of the issuing context, 0 when it has none. -/
def paOf (s : State) (va : Word) : Nat :=
  match s.xlate s.cur.unit s.cur.ctx .load false va with
  | .ok tg => tg.pa
  | .error _ => 0

/-- A scalar load (R170); `ext` extends the value. -/
def loadOp (sz : Nat) (ext : Nat → Word) (xd xa : Reg) (off : BitVec 14) (s : State) : State :=
  control s [xa] (some xd) fun s =>
    let va := effAddr s xa off sz
    match loadVa s s.cur.unit s.cur.ctx (2 ^ sz) va with
    | .trap t => .trap t
    | .wait w s => .stall w s
    | .ok v bad s => loadDone s xd (ext v) bad (paOf s va)

/-- A scalar store (R170). -/
def storeOp (sz : Nat) (xs xa : Reg) (off : BitVec 14) (s : State) : State :=
  control s [xs, xa] none fun s =>
    match storeVa s s.cur.unit s.cur.ctx (effAddr s xa off sz) (bvBytes (2 ^ sz) (X s xs)) with
    | .trap t => .trap t
    | .wait w s => .stall w s
    | .ok _ _ s => .done s

/-- LDB (R170). -/
def execLdb (xd xa : Reg) (off : BitVec 14) (s : State) : Res :=
  .next (loadOp 0 (sext 8) xd xa off s)

/-- LDH (R170). -/
def execLdh (xd xa : Reg) (off : BitVec 14) (s : State) : Res :=
  .next (loadOp 1 (sext 16) xd xa off s)

/-- LDW (R170). -/
def execLdw (xd xa : Reg) (off : BitVec 14) (s : State) : Res :=
  .next (loadOp 2 (sext 32) xd xa off s)

/-- LDD (R170). -/
def execLdd (xd xa : Reg) (off : BitVec 14) (s : State) : Res :=
  .next (loadOp 3 (sext 64) xd xa off s)

/-- LDBN (R170). -/
def execLdbn (xd xa : Reg) (off : BitVec 14) (s : State) : Res :=
  .next (loadOp 0 (zext 8) xd xa off s)

/-- LDHN (R170). -/
def execLdhn (xd xa : Reg) (off : BitVec 14) (s : State) : Res :=
  .next (loadOp 1 (zext 16) xd xa off s)

/-- LDWN (R170). -/
def execLdwn (xd xa : Reg) (off : BitVec 14) (s : State) : Res :=
  .next (loadOp 2 (zext 32) xd xa off s)

/-- STB (R170). -/
def execStb (xs xa : Reg) (off : BitVec 14) (s : State) : Res :=
  .next (storeOp 0 xs xa off s)

/-- STH (R170). -/
def execSth (xs xa : Reg) (off : BitVec 14) (s : State) : Res :=
  .next (storeOp 1 xs xa off s)

/-- STW (R170). -/
def execStw (xs xa : Reg) (off : BitVec 14) (s : State) : Res :=
  .next (storeOp 2 xs xa off s)

/-- STD (R170). -/
def execStd (xs xa : Reg) (off : BitVec 14) (s : State) : Res :=
  .next (storeOp 3 xs xa off s)

/-! ## Scratchpad (R171) -/

/-- The checks of a scalar scratchpad access, then the lock of R186. -/
def spAccess (s : State) (off : Word) (n : Nat) (body : State → CRes) : CRes :=
  if off.toNat % n ≠ 0 then .trap (trapAt 0x05 off)
  else
    match spCheck s.here off.toNat n with
    | some t => .trap { t with faddr := off }
    | none =>
      if s.here.spLocked s.cur.ctx off.toNat n then .stall .lock s
      else if s.padWait s.cur.unit s.cur.ctx then .stall .blocks s
      else body s

/-- LDS (R171). -/
def execLds (xd xa : Reg) (off : BitVec 14) (sz : BitVec 2) (s : State) : Res :=
  .next (control s [xa] (some xd) fun s =>
    let n := 2 ^ sz.toNat
    let o := effAddr s xa off sz.toNat
    spAccess s o n fun s =>
      let own := s.spOwn s.cur.unit s.cur.ctx
      loadDone s xd (sext (8 * n) (bytesBV (8 * n) (spRead s.here own o.toNat n)).toNat) (spReadBad s.here own o.toNat n) 0)

/-- STS (R171). -/
def execSts (xs xa : Reg) (off : BitVec 14) (sz : BitVec 2) (s : State) : Res :=
  .next (control s [xs, xa] none fun s =>
    let n := 2 ^ sz.toNat
    let o := effAddr s xa off sz.toNat
    spAccess s o n fun s =>
      match spWrite s s.cur.unit (s.speculative s.cur.unit s.cur.ctx) o.toNat (bvBytes n (X s xs)) with
      | some s => .done s
      | none => .stall .undoFull s)

/-! ## Acquire and release (R172, R127 to R129) -/

/-- Every earlier access of the context, those of its blocks included, is performed at the scope. -/
def orderedAt (s : State) (scope : BitVec 3) : Bool :=
  s.performedAt s.cur.unit s.cur.ctx scope.toNat && s.blocksDone s.cur.unit s.cur.ctx

/-- An earlier store of the context to these bytes, or one that it has read, has not reached its
home, where an access performed now would find an older value (R123). -/
def pendOver (s : State) (u c pa n : Nat) : Bool := (s.knownPend u c).any fun p => runsMeet p.pa p.bytes.length pa n

/-- An access of the issuing context at the home is kept back by such a store, or by an RSTORE. -/
def ownPendOver (s : State) (tg : Target) (n : Nat) : Bool :=
  pendOver s s.cur.unit s.cur.ctx tg.pa n || insideOver s s.cur.unit s.cur.ctx allEarlier tg n

/-- The value of a load performed at the home slice (R111), whether it is poisoned, and the state. -/
def homeLoad (s : State) (tg : Target) : Word × Bool × State :=
  let bad := s.fab.poison.contains (tg.pa / 16)
  if tg.attr = .errorTolerant && bad then (0, false, addSub s s.cur.unit s.cur.ctx 1)
  else (BitVec.ofNat 64 (s.mem.readLe tg.pa 8), bad, s)

/-- The host holds the line modified, so that a read at the home waits for its response (R363). -/
def hostHolds (s : State) (pa : Nat) : Bool := s.hostKeeps (pa / 64)

/-- A translated and checked operand of LDA, STL, MONWAIT or an AMO: an aligned doubleword. -/
def syncTarget (s : State) (va : Word) (write : Bool) : Except TrapInfo Target :=
  if va.toNat % 8 ≠ 0 then .error (trapAt 0x05 va)
  else
    match s.xlate s.cur.unit s.cur.ctx (if write then .store else .load) write va with
    | .error st => .error (trapXlate false st va)
    | .ok tg => .ok tg

/-- LDA (R172): wider than die scope it reads at the home slice (R111). -/
def execLda (xd xa : Reg) (scope : BitVec 3) (s : State) : Res :=
  .next (control s [xa] (some xd) fun s =>
    let va := X s xa
    match syncTarget s va false with
    | .error t => .trap t
    | .ok tg =>
      held (s.fillPage s.cur.unit s.cur.ctx va) fun s =>
        let s := markAcquire s s.cur.unit s.cur.ctx tg.pa
        if scope.toNat ≤ 2 || !(tg.attr.cached && isDevMem tg.pa) then
          match loadAt s s.cur.unit s.cur.ctx 8 tg with
          | .trap t => .trap t
          | .wait w s => .stall w s
          | .ok v bad s => loadDone s xd (BitVec.ofNat 64 v) bad tg.pa
        else if s.blockWait s.cur.unit s.cur.ctx tg 8 then .stall .blocks s
        else if ownPendOver s tg 8 || hostHolds s tg.pa then .stall .order s
        else
          let (v, bad, s) := homeLoad s tg
          loadDone s xd v bad tg.pa)

/-- A pending remote-access error is taken at an instruction of system scope that waits for remote
operations, before its own checks (R260, R315). -/
def takesRemote (s : State) (scope : BitVec 3) (body : State → CRes) : CRes :=
  if scope = 4 && remotePending s then .trap trapRemote else body s

/-- STL (R172): the ordering wait of R129, then the store. -/
def execStl (xa xb : Reg) (scope : BitVec 3) (s : State) : Res :=
  .next (control s [xa, xb] none fun s => takesRemote s scope fun s =>
    let va := X s xa
    match syncTarget s va true with
    | .error t => .trap t
    | .ok tg =>
      held s fun s =>
        if !orderedAt s scope then .stall .order s
        else
          match storeVa (markRelease s s.cur.unit s.cur.ctx tg.pa) s.cur.unit s.cur.ctx va (bvBytes 8 (X s xb)) with
          | .trap t => .trap t
          | .wait w s => .stall w s
          | .ok _ _ s => .done s)

/-! ## Atomics (R173, R130) -/

/-- What an AMO writes, from the old value, Xd and Xb: `none` for a compare that fails. The codes are
those of fn[6:3]. -/
def amoNew (op : Nat) (old expect b : Word) : Option Word :=
  match op with
  | 0 => some (old + b)
  | 1 => some b
  | 2 => if old = expect then some b else none
  | 3 => some (if old.slt b then old else b)
  | 4 => some (if old.slt b then b else old)
  | 5 => some (if old.ult b then old else b)
  | 6 => some (if old.ult b then b else old)
  | 7 => some (old &&& b)
  | 8 => some (old ||| b)
  | _ => some (old ^^^ b)

/-- The registers that an AMO reads: Xd only for a compare. -/
def amoSrcs (op : Nat) (xd xa xb : Reg) : List Reg := if op = 2 then [xd, xa, xb] else [xa, xb]

/-- An AMO of core scope on a cacheable line of device memory: performed in the leg cache, once the line is
owned (R130). Its write keeps other writes of the line back until it is performed at the home. A store to the line that
the context does not see yet is performed first: it would otherwise fall between the read and the write. -/
def amoCore (s : State) (op : Nat) (xd xb : Reg) (va : Word) (tg : Target) : CRes :=
  let u := s.cur.unit
  let c := s.cur.ctx
  let line := tg.pa / 64
  if (corePerformed s.fab.pend).any fun x => x.1.pa / 64 == line &&
      (x.1.unit != u || !x.1.cached || x.1.add.isSome || !x.1.seenBy x.2 u c (s.ownerOf u c)) then .stall .order s
  else
    match needOwn s u c .atomic tg.pa 8 with
    | .error (w, s) => .stall w s
    | .ok s =>
      match loadAt s u c 8 tg with
      | .trap t => .trap t
      | .wait w s => .stall w s
      | .ok v bad s =>
        let old := BitVec.ofNat 64 v
        match amoNew op old (X s xd) (X s xb) with
        | none => loadDone s xd old bad tg.pa
        | some w =>
          match storeAt s u c true va tg (bvBytes 8 w) with
          | .trap t => .trap t
          | .wait w s => .stall w s
          | .ok _ _ s => loadDone s xd old bad tg.pa

/-- The line of a host address is owned before an AMO is performed there (R120); a home slice needs no ownership. -/
def hostOwned (s : State) (u c : Nat) (tg : Target) : Except (Stall × State) State :=
  if isHost tg.pa && tg.attr.cached then needOwn s u c .atomic tg.pa 8 else .ok s

/-- A wider AMO, or one on an uncacheable page: read and written at the home (R130, R112). -/
def amoHome (s : State) (op : Nat) (xd xb : Reg) (tg : Target) : CRes :=
  let u := s.cur.unit
  let c := s.cur.ctx
  if ownPendOver s tg 8 || !s.writable (tg.pa / 64) then .stall .order (s.waitOn (.ctx u c) [tg.pa / 64])
  else
    match hostOwned s u c tg with
    | .error (w, s) => .stall w s
    | .ok s =>
    let (old, bad, s) := homeLoad s tg
    match amoNew op old (X s xd) (X s xb) with
    | none => loadDone s xd old bad tg.pa
    | some w =>
      let strand := if c = 0 then s.here.strand else none
      let s := homeWrite s (some u) strand (s.issuePart u c) tg.attr tg.pa (bvBytes 8 w)
      let s := if s.inLeg u c then broadcast s u (sectorsOf tg.pa 8) else s
      loadDone s xd old bad tg.pa

/-- The AMO family (R173): release and acquire at the scope (R127). -/
def amo (op : Nat) (xd xa xb : Reg) (scope : BitVec 3) (s : State) : State :=
  control s (amoSrcs op xd xa xb) (some xd) fun s => takesRemote s scope fun s =>
    let u := s.cur.unit
    let c := s.cur.ctx
    let va := X s xa
    match syncTarget s va true with
    | .error t => .trap t
    | .ok tg =>
      if tg.attr = .device then .trap (trapAt 0x08 va)
      else
        held (s.fillPage u c va) fun s =>
          if !orderedAt s scope || copyReads s u c allEarlier tg.pa 8 then .stall .order s
          else
            let s := markAcquire (markRelease s u c tg.pa) u c tg.pa
            if scope = 0 && tg.attr.cached && !s.cacheOff u then amoCore s op xd xb va tg
            else amoHome s op xd xb tg

/-- AMOADD (R173). -/
def execAmoadd (xd xa xb : Reg) (scope : BitVec 3) (s : State) : Res :=
  .next (amo 0 xd xa xb scope s)

/-- AMOSWP (R173). -/
def execAmoswp (xd xa xb : Reg) (scope : BitVec 3) (s : State) : Res :=
  .next (amo 1 xd xa xb scope s)

/-- AMOCAS (R173). -/
def execAmocas (xd xa xb : Reg) (scope : BitVec 3) (s : State) : Res :=
  .next (amo 2 xd xa xb scope s)

/-- AMOMIN (R173). -/
def execAmomin (xd xa xb : Reg) (scope : BitVec 3) (s : State) : Res :=
  .next (amo 3 xd xa xb scope s)

/-- AMOMAX (R173). -/
def execAmomax (xd xa xb : Reg) (scope : BitVec 3) (s : State) : Res :=
  .next (amo 4 xd xa xb scope s)

/-- AMOMINN (R173). -/
def execAmominn (xd xa xb : Reg) (scope : BitVec 3) (s : State) : Res :=
  .next (amo 5 xd xa xb scope s)

/-- AMOMAXN (R173). -/
def execAmomaxn (xd xa xb : Reg) (scope : BitVec 3) (s : State) : Res :=
  .next (amo 6 xd xa xb scope s)

/-- AMOAND (R173). -/
def execAmoand (xd xa xb : Reg) (scope : BitVec 3) (s : State) : Res :=
  .next (amo 7 xd xa xb scope s)

/-- AMOOR (R173). -/
def execAmoor (xd xa xb : Reg) (scope : BitVec 3) (s : State) : Res :=
  .next (amo 8 xd xa xb scope s)

/-- AMOXOR (R173). -/
def execAmoxor (xd xa xb : Reg) (scope : BitVec 3) (s : State) : Res :=
  .next (amo 9 xd xa xb scope s)

end Sys2Proof.Machine
end

