-- ==== Sys2Proof/Machine/Message.lean ====
section
/-!
DEFINITION. Messages and channels (R30 to R36, R252, R253), the end of a context (R254, R18), and the two
message events.
-/
namespace Sys2Proof.Machine

/-! ## SEND -/

/-- The payload registers of a SEND. -/
def payloadRegs (xb : Reg) (n : BitVec 3) : List Reg := (upTo n.toNat).map fun i => xb + BitVec.ofNat 5 i

/-- The trap of a SEND, CHBLK or CHUNB that names core `w`: its reserved bits, then its partition (R31,
R252, R253). -/
def targetTrap (s : State) (w : Word) : Option TrapInfo :=
  if bits w 10 54 ≠ 0 then some trapOperand
  else if !s.samePart s.cur.unit w.toNat then some trapPartition
  else none

/-- SEND (R252): a release at package scope (R35). -/
def execSend (xa xb : Reg) (chan : BitVec 6) (n : BitVec 3) (s : State) : Res :=
  .next (control s (xa :: payloadRegs xb n) none fun s =>
    match targetTrap s (X s xa) with
    | some t => .trap t
    | none =>
      held s fun s =>
        if !orderedAt s 3 then .stall .order s
        else if 4 ≤ s.me.sendq.length then .stall .sendFull s
        else
          let m : Msg := ⟨s.cur.unit, (X s xa).toNat, chan, (payloadRegs xb n).map (X s)⟩
          .done (s.modMe fun x => { x with sendq := x.sendq ++ [m] }))

/-! ## The task table -/

/-- A channel entry is valid and not blocked. -/
def startable (e : Word) : Bool := e.getLsbD 63 && !e.getLsbD 62

/-- Set or clear BLOCKED of a channel of a core. -/
def setBlocked (s : State) (u ch : Nat) (b : Bool) : State :=
  s.modCore u fun c => { c with table := vset c.table ch (putBit (vget c.table 0 ch) 62 b) }

/-- CHSET (R253). -/
def execChset (xa xb : Reg) (s : State) : Res :=
  .next (control s [xa, xb] none fun s =>
    let v := X s xb
    if bits (X s xa) 6 58 ≠ 0 || !zeroBits v 56 4 || !zeroBits v 0 2 then .trap trapOperand
    else held s fun s => .done (s.modHere fun c => { c with table := vset c.table (X s xa).toNat v }))

/-- CHBLK and CHUNB of the issuing core (R253). -/
def chLocal (b : Bool) (xa : Reg) (s : State) : State :=
  control s [xa] none fun s =>
    if bits (X s xa) 6 58 ≠ 0 then .trap trapOperand
    else held s fun s => .done (setBlocked s s.cur.unit (X s xa).toNat b)

/-- CHBLK and CHUNB of another core (R253). They stay behind the context's earlier messages to that
core, and wait while it is being vaulted (R348). -/
def chRemote (b : Bool) (xa xb : Reg) (s : State) : State :=
  control s [xa, xb] none fun s =>
    if bits (X s xa) 6 58 ≠ 0 then .trap trapOperand
    else
      match targetTrap s (X s xb) with
      | some t => .trap t
      | none =>
        held s fun s =>
          let v := (X s xb).toNat
          if s.vaulting v || s.me.sendq.any fun m => m.dst == v then .stall .system s
          else .done (setBlocked s v (X s xa).toNat b)

/-- CHBLK (R253). -/
def execChblk (xa : Reg) (s : State) : Res := .next (chLocal true xa s)
/-- CHUNB (R253). -/
def execChunb (xa : Reg) (s : State) : Res := .next (chLocal false xa s)
/-- CHBLK.REM (R253). -/
def execChblkRem (xa xb : Reg) (s : State) : Res := .next (chRemote true xa xb s)
/-- CHUNB.REM (R253). -/
def execChunbRem (xa xb : Reg) (s : State) : Res := .next (chRemote false xa xb s)

/-! ## HEXIT -/

/-- A handler context is freed (R19, R254). Its send queue stays with the slot (R252), and transfers it
issued go on; the lock it holds is freed (R187). -/
def freeHandler (s : State) (u c : Nat) : State :=
  s.modCore u fun k =>
    let x := k.ctx c
    let y : Ctx :=
      { sendq := x.sendq, rcopies := x.rcopies.map (fun r => { r with orphan := true }), ropNo := x.ropNo, colls := x.colls,
        lastIssue := x.lastIssue }
    { k.leaveRotation c with
      ctxs := vset k.ctxs c y
      lock := if k.lock = some c then none else k.lock
      lockQ := k.lockQ.filter (· != c)
      copies := k.copies.map fun p => if p.ctx = c then { p with ctx := 8 } else p
      aborted := k.aborted.map fun a => if a.2.1 = c then (a.1, 8, a.2.2) else a }

/-- The transfers that HEXIT of a strand waits for have completed (R254). -/
def transfersDone (s : State) (u : Nat) : Bool :=
  (s.streamCopies u 0).isEmpty && (s.stream u 0).all fun (v, _) => ((s.ctx v 0).rcopies.all fun r => r.orphan) && (s.ctx v 0).colls.all fun k => k.done

/-- The remote-access trap of a collective that an error between packages has ended (R365). -/
def trapColl (k : Coll) : TrapInfo := { cause := 0x0E, clears := .coll k.handle }

/-- A collective of the context's stream that such an error has ended, and whose trap is not yet taken (log entry 87). -/
def failedColl (s : State) (u c : Nat) : Option Coll :=
  ((s.stream u c).flatMap fun (v, i) => (s.ctx v i).colls).find? fun k => k.failed

/-- The strand's context ends; the span is released when its stores are performed (R18). -/
def endStrand (s : State) (h u : Nat) (x : Strand) : State :=
  let s := retire s u 0
  let clean (s : State) (v : Nat) : State :=
    s.modCore v fun k =>
      { k with
        xfwd := none, xbwd := none
        ctxs := vset k.ctxs 0 { k.ctx 0 with rops := [], colls := [], remErr := false, reply := none }
        aborted := k.aborted.filter fun a => a.2.1 != 0 }
  let s := (Strand.cores h x).foldl clean s
  let s := s.modCore u fun k => { freeStrandCtx k with lock := if k.lock = some 0 then none else k.lock }
  s.modStrand h fun x => { x with ended := true, flags := x.flags ||| (s.core u).v.flags }

/-- HEXIT (R254, R18). -/
def execHexit (s : State) : Res :=
  .next (if s.me.trap ≠ .none then finish s (.trap trapIllegal)
    else
      let u := s.cur.unit
      let c := s.cur.ctx
      let pending (s : State) (body : State → CRes) : CRes :=
        match abortedTrap s u c with
        | some t => .trap t
        | none =>
          if remotePending s then .trap trapRemote
          else
            match failedColl s u c with
            | some k => .trap (trapColl k)
            | none => body s
      control s [] none fun s =>
        if c ≠ 0 || isMgmt u then pending s fun s => .final (freeHandler (retire s u c) u c)
        else if s.here.leg.isSome then .trap trapIllegal
        else
          match s.here.strand with
          | none => .trap trapIllegal
          | some h =>
            match s.strand? h with
            | none => .trap trapIllegal
            | some x =>
              if !s.blocksDone u 0 then .stall .blocks s
              else if !transfersDone s u then .stall .transfer s
              else pending s fun s => .final (endStrand s h u x))

/-! ## Events -/

/-- SEND_QUEUE_TRANSFER (R31, R252, R350): the oldest message of a send queue enters the destination's
inbound queue, or is held at ring ingress while that core is being vaulted. -/
def execSendQueueTransfer (unit ctx : Nat) (s : State) : Res :=
  .next (match (s.ctx unit ctx).sendq with
    | [] => s
    | m :: rest =>
      let d := s.core m.dst
      let waiting := match (s.ring (ringOf m.dst)).vault with
        | some v => if s.vaulting m.dst then v.held.length else 0
        | none => 0
      if s.vaulting unit || decide (32 ≤ d.inq.length + waiting) then s
      else
        let s := s.modCtx unit ctx fun x => { x with sendq := rest }
        if s.vaulting m.dst then
          s.modRing (ringOf m.dst) fun r => { r with vault := r.vault.map fun v => { v with held := v.held ++ [m] } }
        else s.modCore m.dst fun c => { c with inq := c.inq ++ [m] })

/-- The priority of the entry for a message, when it can start (R32). -/
def startPrio (c : Core) (m : Msg) : Option Nat :=
  let e := vget c.table 0 m.chan.toNat
  if startable e then some (bits e 60 2) else none

/-- Position and priority of the message that starts: the highest priority, then the first (R32). -/
def pickMessage (c : Core) : Option (Nat × Nat) :=
  (c.inq.zipIdx).foldl (fun (best : Option (Nat × Nat)) mi =>
    match startPrio c mi.1 with
    | none => best
    | some p =>
      match best with
      | none => some (mi.2, p)
      | some b => if b.2 < p then some (mi.2, p) else some b) none

/-- Registers of a handler at its start (R33). -/
def handlerRegs (m : Msg) : Vector Word 32 :=
  let x : Vector Word 32 := (m.payload.zipIdx).foldl (fun x pi => vset x (pi.2 + 1) pi.1) (Vector.replicate 32 0)
  vset x 7 (0#45 ++ BitVec.ofNat 3 m.payload.length ++ m.chan ++ BitVec.ofNat 10 m.src)

/-- A handler context at its start (R33): what belongs to the slot stays. -/
def startHandler (s : State) (old : Ctx) (m : Msg) (e : Word) : Ctx :=
  { resident := true, pc := e &&& 0x00FF_FFFF_FFFF_FFFC#64, x := handlerRegs m, prio := BitVec.ofNat 2 (bits e 60 2),
    sendq := old.sendq, rcopies := old.rcopies, ropNo := old.ropNo, colls := old.colls, lastIssue := old.lastIssue,
    lastRetire := s.time }

/-- The context cannot start anything: its core is being vaulted, or its partition drains. -/
def startsHeld (s : State) (u : Nat) : Bool :=
  s.vaulting u || s.pkg.faulted ||
    match s.partOf u with
    | some p => !s.placing p
    | none => false

/-- MESSAGE_START (R32, R33). -/
def execMessageStart (unit : Nat) (s : State) : Res :=
  .next (let c := s.core unit
    match (upTo 8).find? fun i => i != 0 && !(c.ctx i).resident, pickMessage c with
    | some i, some (k, _) =>
      match c.inq[k]? with
      | none => s
      | some m =>
        if startsHeld s unit then s
        else
          let e := vget c.table 0 m.chan.toNat
          s.setCore unit { c with ctxs := vset c.ctxs i (startHandler s (c.ctx i) m e), inq := listDel c.inq k }
    | _, _ => s)

end Sys2Proof.Machine
end

