-- ==== Sys2Proof/Machine/Task.lean ====
section
/-!
DEFINITION. Tasks (R37, R255, R287 to R295): task images, scheduler nodes, TSPAWN and TWAIT, the order
point, placement, completion, and the launch unit.
-/
namespace Sys2Proof.Machine

/-! ## Reading a descriptor with loads of the context -/

/-- `n` doublewords from `va` up, loaded one after another. Poison is consumed at the load. -/
def readWords (s : State) (va : Word) : Nat → Except CRes (List Word × State)
  | 0 => .ok ([], s)
  | n + 1 =>
    match loadVa s s.cur.unit s.cur.ctx 8 va with
    | .trap t => .error (.trap t)
    | .wait w s => .error (.stall w s)
    | .ok v bad s =>
      if bad then .error (.final (consume s s.cur.unit s.cur.ctx (paOf s va)))
      else
        match readWords s (va + 8) n with
        | .error r => .error r
        | .ok (l, s) => .ok (BitVec.ofNat 64 v :: l, s)

/-- A descriptor of `n` doublewords at an address that is a multiple of its size. -/
def withDescriptor (s : State) (va : Word) (n : Nat) (body : List Word → State → CRes) : CRes :=
  if va.toNat % (8 * n) ≠ 0 then .trap (trapAt 0x05 va)
  else
    match readWords s va n with
    | .error r => r
    | .ok (l, s) => body l s

/-! ## Task images (R290, R291) and handles (R255) -/

/-- A task image: its sixteen doublewords. -/
structure Image where
  entry : Word
  arg : Word
  ctrl : Word
  origin : Word
  /-- used read and write ranges: write, base, length -/
  ranges : List (Bool × Nat × Nat)
  preds : List Word

def Image.ofWords (l : List Word) : Image :=
  let w (i : Nat) : Word := l.getD i 0
  let ctrl := w 2
  let range (wr : Bool) (i : Nat) : Bool × Nat × Nat := (wr, bits (w i) 0 44, bits (w i) 44 20)
  { entry := w 0, arg := w 1, ctrl := ctrl, origin := w 3,
    ranges := (upTo (min 4 (bits ctrl 16 3))).map (fun i => range false (4 + i)) ++
      (upTo (min 4 (bits ctrl 20 3))).map (fun i => range true (8 + i)),
    preds := (upTo (min 4 (bits ctrl 24 3))).map fun i => w (12 + i) }

def Image.queueNo (i : Image) : Nat := bits i.ctrl 8 2

/-- SEQ of a node now (R255): 0 when it has never been allocated. -/
def State.nodeSeq (s : State) (d n : Nat) : BitVec 32 := (s.die d).seqs.get 0 n

/-- The task that a handle names. -/
inductive Named where
  | bad
  | completed
  | live (die node : Nat)

/-- What a handle names, for a party of partition `p` (R255): SEQ values are serial numbers. -/
def State.named (s : State) (p : Nat) (h : Word) : Named :=
  let die := bits h 13 3
  let node := bits h 0 13
  let seq : BitVec 32 := h.extractLsb' 16 32
  let cur := s.nodeSeq die node
  let later := (seq - cur).toNat
  if bits h 48 16 ≠ 0 || !((s.ringsOf p).any fun r => r / 8 == die) then .bad
  else if 1 ≤ later && later < 2 ^ 31 then .bad
  else if later = 0 && ((s.die die).nodes.find? node).isSome then .live die node
  else .completed

/-- The checks of R291 on an image, other than that of its queue. -/
def imageFormOk (i : Image) : Bool :=
  let c := i.ctrl
  zeroBits c 27 37 && zeroBits c 23 1 && zeroBits c 19 1 && zeroBits c 10 6 && zeroBits c 6 2 && zeroBits c 3 1 &&
    decide (bits c 24 3 ≤ 4) && decide (bits c 20 3 ≤ 4) && decide (bits c 16 3 ≤ 4) && decide (bits c 0 3 ≤ 4) &&
    zeroBits i.entry 0 2 && zeroBits i.entry 56 8 && i.ranges.all fun r => r.2.2 != 0 && decide (r.2.1 + r.2.2 ≤ 2 ^ 44)

/-- Every check of R291 for a TSPAWN of partition `p`. -/
def imageOk (s : State) (p : Nat) (i : Image) : Bool :=
  imageFormOk i && (s.queue (4 * p + i.queueNo)).qctl.getLsbD 63 &&
    i.preds.all fun h => match s.named p h with
      | .bad => false
      | .completed => true
      | .live _ _ => true

/-! ## Nodes (R292) -/

/-- Nodes of a die in use, extension nodes included, and range entries in use. -/
def Die.nodesUsed (d : Die) : Nat := (d.nodes.map fun x => 1 + x.2.ext).sum
def Die.rangesUsed (d : Die) : Nat := (d.nodes.map fun x => x.2.ranges.length).sum

/-- A free node index: the first at or after `i`. The specification leaves open which one is taken. -/
def freeNode (nodes : FMap Node) : Nat → Nat → Nat
  | 0, i => i % 8192
  | fuel + 1, i => if (nodes.find? (i % 8192)).isSome then freeNode nodes fuel (i + 1) else i % 8192

/-- A node's links are full: one more takes an extension node (R292). -/
def Node.linksFull (n : Node) : Bool := decide (8 + 24 * n.ext ≤ n.succs.length)
/-- The node with one more link. -/
def Node.link (n : Node) (x : Nat × Nat) : Node :=
  { n with succs := n.succs ++ [x], ext := if n.linksFull then n.ext + 1 else n.ext }

/-- Two declared ranges conflict (R293). -/
def rangesMeet (a b : Bool × Nat × Nat) : Bool :=
  (a.1 || b.1) && decide (a.2.1 < b.2.1 + b.2.2) && decide (b.2.1 < a.2.1 + a.2.2)

/-- In-flight tasks of a queue that a task with these ranges follows (R293). -/
def rangePreds (s : State) (p : Nat) (q : Option Nat) (ranges : List (Bool × Nat × Nat)) : List (Nat × Nat) :=
  if q.isNone then []
  else
    s.dies.flatMap fun (d, x) => x.nodes.filterMap fun (k, n) =>
      if n.part = p && n.queue == q && n.st != .spawned && ranges.any (fun a => n.ranges.any (rangesMeet a)) then some (d, k) else none

/-- Explicit predecessors that are not yet completed. -/
def explicitPreds (s : State) (p : Nat) (hs : List Word) : List (Nat × Nat) :=
  hs.filterMap fun h => match s.named p h with
    | .live d k => some (d, k)
    | .completed => none
    | .bad => none

/-- The distinct predecessors of a task at its turn (R293). -/
def predsOf (s : State) (p : Nat) (q : Option Nat) (ranges : List (Bool × Nat × Nat)) (hs : List Word) : List (Nat × Nat) :=
  (rangePreds s p q ranges ++ explicitPreds s p hs).eraseDups

/-- Extension nodes that a die needs for one more link at each of these predecessors. -/
def extNeeded (s : State) (d : Nat) (preds : List (Nat × Nat)) : Nat :=
  (preds.filter fun x => x.1 == d && (match (s.die d).nodes.find? x.2 with
    | some n => n.linksFull
    | none => false)).length

/-- Every link has room at its predecessor's die; `own` is the die on which a further node is needed. -/
def linksFree (s : State) (own : Option Nat) (preds : List (Nat × Nat)) : Bool :=
  (upTo 8).all fun d =>
    let k := extNeeded s d preds
    k == 0 || decide ((s.die d).nodesUsed + k + (if own = some d then 1 else 0) ≤ 8192)

/-- The scheduler of a die can take the task: a node and its range entries are free (R292). -/
def nodeRoom (s : State) (d : Nat) (ranges : List (Bool × Nat × Nat)) : Bool :=
  decide ((s.die d).nodesUsed < 8192) && decide ((s.die d).rangesUsed + ranges.length ≤ 2048)

/-- The place of a context in the order of R293: by die, by core, by context. -/
def spawnKey (u c : Nat) : Nat := dieOf u * 2 ^ 16 + 8 * u + c
/-- The place of a party of a die other than a context, after them: a launch unit, by queue. The
specification does not place it (DESIGN CHOICE, log entry 55). -/
def launchKey (d q : Nat) : Nat := d * 2 ^ 16 + 2 ^ 15 + q

/-- Allocate a node for a task, spawned by party `by_`; it has not reached its order point. Its handle, and the state. -/
def allocNode (s : State) (d p : Nat) (q : Option Nat) (i : Image) (origin : Word) (by_ : Nat) : Word × State :=
  let x := s.die d
  let k := freeNode x.nodes 8192 (Config.freeNat s.fresh)
  let seq := x.seqs.get 0 k + 1
  let n : Node :=
    { st := .spawned, entry := i.entry, arg := i.arg, ctrl := i.ctrl, origin := origin, seq := seq, part := p, queue := q,
      ranges := i.ranges, preds := i.preds, count := 0, succs := [], ready := 0, ext := 0, from_ := by_, parked := [] }
  (0#16 ++ seq ++ BitVec.ofNat 3 d ++ BitVec.ofNat 13 k,
    s.tick.setDie d { x with nodes := x.nodes.set k n, seqs := x.seqs.set k seq })

/-! ## TSPAWN and TWAIT (R255) -/

/-- The issuing context is a dispatcher of R289 or a handler: ORIGIN comes from the image (R291). -/
def originFromImage (s : State) : Bool :=
  s.cur.ctx != 0 || isMgmt s.cur.unit ||
    match s.here.strand with
    | none => true
    | some h =>
      match s.strand? h with
      | none => true
      | some x =>
        match (s.die x.node.1).nodes.find? x.node.2 with
        | none => true
        | some n => n.queue.isNone

/-- The task that the handle names has still to have its turn at the order point. -/
def State.spawnWaits (s : State) (h : Word) : Bool :=
  match (s.die (bits h 13 3)).nodes.find? (bits h 0 13) with
  | some n => n.seq == h.extractLsb' 16 32 && n.st == .spawned
  | none => false

/-- Handle of the task of the context's TSPAWN under way, once it has had its turn at the order point. -/
def spawnServed (s : State) (u c : Nat) : Option Word := (s.ctx u c).spawning.filter fun h => !s.spawnWaits h

/-- A TSPAWN of the context that has not had its turn at the order point is taken back, and starts again later (R293,
R301). -/
def takeBackSpawn (s : State) (u c : Nat) : State :=
  match (s.ctx u c).spawning with
  | none => s
  | some h =>
    if s.spawnWaits h then
      (s.modDie (bits h 13 3) fun d => { d with nodes := d.nodes.del (bits h 0 13) }).modCtx u c fun x => { x with spawning := none }
    else s

/-- TSPAWN with its descriptor read: the task is sent to the order point (R255, R293), once its node, its range
entries and its links are free (R292). -/
def sendSpawn (s : State) (l : List Word) : CRes :=
  let i := Image.ofWords l
  let p := s.issuePart s.cur.unit s.cur.ctx
  let d := dieOf s.cur.unit
  if !imageOk s p i then .trap trapOperand
  else if !s.placing p || !nodeRoom s d i.ranges || !linksFree s (some d) (predsOf s p (some i.queueNo) i.ranges i.preds) then
    .stall .scheduler s
  else
    let origin := if originFromImage s then i.origin else s.originOf s.cur.unit
    let (h, s) := allocNode s d p (some i.queueNo) i origin (spawnKey s.cur.unit s.cur.ctx)
    .stall .scheduler (s.modMe fun x => { x with spawning := some h })

/-- TSPAWN (R255): a release at package scope. It completes once its task has had its turn at the order point, where
the task gets its links (R292, R293). -/
def execTspawn (xd xa : Reg) (s : State) : Res :=
  .next (match spawnServed s s.cur.unit s.cur.ctx with
    | some h => finish s (.done (setX (s.modMe fun x => { x with spawning := none }) xd h))
    | none =>
      control s [xa] (some xd) fun s => held s fun s =>
        if s.me.spawning.isSome then .stall .scheduler s
        else if !orderedAt s 3 && (X s xa).toNat % 128 == 0 then .stall .order s
        else withDescriptor s (X s xa) 16 fun l s => sendSpawn s l)

/-- TWAIT (R255): acquires the task's completion. -/
def execTwait (xa : Reg) (s : State) : Res :=
  .next (control s [xa] none fun s =>
    match s.named (s.issuePart s.cur.unit s.cur.ctx) (X s xa) with
    | .bad => .trap trapOperand
    | .completed => held s fun s => .done s
    | .live _ _ => held s fun s => .stall .task s)

/-! ## The order point and placement (R293, R294) -/

/-- Change a node. -/
def modNode (s : State) (x : Nat × Nat) (f : Node → Node) : State :=
  match (s.die x.1).nodes.find? x.2 with
  | some n => s.modDie x.1 fun d => { d with nodes := d.nodes.set x.2 (f n) }
  | none => s

/-- The turns at a queue's order point so far leave this party's TSPAWN its turn in this control cycle: in one
control cycle they go by die, core and context (R293). -/
def orderTurn (s : State) (n : Node) : Bool :=
  match n.queue with
  | none => true
  | some q =>
    match (s.queue (4 * n.part + q)).lastOrder with
    | none => true
    | some (t, k) => t != s.now || decide (k < n.from_)

/-- The order point has served the party's TSPAWN. -/
def servedOrder (s : State) (n : Node) : State :=
  match n.queue with
  | none => s
  | some q => s.modQueue (4 * n.part + q) fun k => { k with lastOrder := some (s.now, n.from_) }

/-- The task receives its predecessors and waits for them, or is ready (R292, R293). -/
def orderNode (s : State) (x : Nat × Nat) (preds : List (Nat × Nat)) : State :=
  let s := preds.foldl (fun s y => modNode s y fun m => m.link x) s
  modNode s x fun m => { m with count := preds.length, st := if preds.isEmpty then .ready else .wait, ready := s.time }

/-- The queue whose launch unit picked the task up. -/
def Node.launched (n : Node) : Option Nat := if n.from_ % 2 ^ 16 < 2 ^ 15 then none else some (n.from_ % 2 ^ 15)


/-- A span of `size` cores from `first` is free for a strand (R294). -/
def spanFree (s : State) (first size : Nat) : Bool :=
  (upTo size).all fun i => (s.core (first + i)).strand.isNone && !(s.ctx (first + i) 0).resident

/-- The first free aligned span of a size: on the node's own die, then on the others ascending (R294). -/
def findSpan (s : State) (p d size : Nat) : Option Nat :=
  let onDie (e : Nat) : List Nat :=
    ((upTo 8).filter fun r => s.ringPart (8 * e + r) == some p).flatMap fun r => (upTo (16 / size)).map fun k => 128 * e + 16 * r + size * k
  ((d :: (upTo 8).filter (· != d)).flatMap onDie).find? fun c => spanFree s c size

/-- Size of a task's span. -/
def Node.size (n : Node) : Nat := 2 ^ bits n.ctrl 0 3

/-- Effective priority of a ready node (R295). -/
def effPrio (s : State) (n : Node) : Nat := min 3 (bits n.ctrl 4 2 + (s.time - n.ready) / 2 ^ 20)

/-- The placement order of R294 between two ready nodes. -/
def placedBefore (s : State) (a b : Nat × Nat × Node) : Bool :=
  let pa := effPrio s a.2.2
  let pb := effPrio s b.2.2
  decide (pb < pa) || (pa == pb && (decide (a.2.2.ready < b.2.2.ready) || (a.2.2.ready == b.2.2.ready &&
    (decide (a.1 < b.1) || (a.1 == b.1 && decide (a.2.1 < b.2.1))))))

/-- The node that is placed next in a partition, with the span it takes. -/
def nextPlacement (s : State) (p : Nat) : Option ((Nat × Nat × Node) × Nat) :=
  let ready : List (Nat × Nat × Node) := s.dies.flatMap fun (d, x) => x.nodes.filterMap fun (k, n) =>
    if n.part = p && n.st == .ready then some (d, k, n) else none
  let fit := ready.filterMap fun x => (findSpan s p x.1 x.2.2.size).map fun c => (x, c)
  fit.foldl (fun best x => match best with
    | none => some x
    | some b => if placedBefore s x.1 b.1 then some x else some b) none

/-- Context 0 of a core as a strand starts in it (R13, R39, R84). -/
def strandCtx (s : State) (old : Ctx) (pc arg : Word) (first size : Nat) (prio : BitVec 2) : Ctx :=
  let x : Vector Word 32 := Vector.replicate 32 0
  { resident := true, pc := pc, x := vset (vset x 1 arg) 2 (BitVec.ofNat 64 (first + 2 ^ 16 * size)), prio := prio,
    sendq := old.sendq, ropNo := old.ropNo, lastIssue := old.lastIssue, lastRetire := s.time }

/-- The watchdog of a queue when a strand of it is placed (R298). -/
def Queue.arm (q : Queue) (time : Nat) : Queue := if q.wd = .idle then { q with wd := .armed, wdBase := time } else q

/-- Claim the cores of a span for a strand. -/
def claimSpan (s : State) (first size : Nat) : State :=
  (upTo size).foldl (fun s i => s.modCore (first + i) fun c => { c with strand := some first, leg := none, snaps := 0 }) s

/-- Start the strand of a node on a span (R13, R294). -/
def placeNode (s : State) (x : Nat × Nat × Node) (first : Nat) : State :=
  let n := x.2.2
  let s := claimSpan s first n.size
  let s := s.modCore first fun c =>
    { c with
      ctxs := vset c.ctxs 0 (strandCtx s (c.ctx 0) n.entry n.arg first n.size (BitVec.ofNat 2 (bits n.ctrl 4 2)))
      v := {}, seq := c.seq.cleared }
  let s := s.setStrand first
    { part := n.part, node := (x.1, x.2.1), size := n.size, at_ := first, flags := 0, subcnt := 0, region := none,
      ended := false, saving := none }
  let s := match n.queue with
    | some q => s.modQueue (4 * n.part + q) fun k => k.arm s.time
    | none => s
  let s := modNode s (x.1, x.2.1) fun m => { m with st := .placed }
  s.modDie x.1 fun d => { d with lastPlace := some s.now }

/-- The die has not placed a node in the last `k` control cycles. -/
def rateOk (last : Option Nat) (now k : Nat) : Bool :=
  match last with
  | none => true
  | some t => decide (t + k ≤ now)

/-- TASK_PLACEMENT (R294): the next node of the partition is placed, when it is the die's. -/
def execTaskPlacement (die part : Nat) (s : State) : Res :=
  .next (if !s.placing part || s.pkg.faulted || !rateOk (s.die die).lastPlace s.now 8 then s
    else
      match nextPlacement s part with
      | none => s
      | some (x, first) => if x.1 = die then placeNode s x first else s)

/-! ## Completion (R18, R292, R298) -/

/-- The address translates, and the device may read there now (R363). -/
def deviceReady (s : State) (p : Nat) (va : Word) : Bool :=
  match s.deviceXlate p false va with
  | .error _ => false
  | .ok tg => !s.hostKeeps (tg.pa / 64)

/-- A read of the address, or the walk for it, waits for the host (R363). -/
def deviceLater (s : State) (p : Nat) (va : Word) : Bool :=
  match s.deviceXlate p false va with
  | .error st => xLater st
  | .ok tg => s.hostKeeps (tg.pa / 64)

/-- Write a doubleword at an address of the partition's space, performed at once. `none` while a lease
or the host holds it back. An address that does not translate takes nothing. -/
def devicePut (s : State) (p : Nat) (va v : Word) : Option State :=
  match s.deviceXlate p true va with
  | .error st => if xLater st then none else some s
  | .ok tg => if s.writable (tg.pa / 64) then some (homeWrite s none none p tg.attr tg.pa (bvBytes 8 v)) else none

/-- Read a doubleword of the partition's space as memory holds it; 0 where it does not translate. -/
def deviceGet (s : State) (p : Nat) (va : Word) : Word :=
  match s.deviceXlate p false va with
  | .error _ => 0
  | .ok tg => BitVec.ofNat 64 (s.mem.readLe tg.pa 8)

/-- A write that the device is to make waits at the home of its line, which grants no new lease on it (R112). -/
def dutyWait (s : State) (p : Nat) (va : Word) : State :=
  match s.deviceXlate p true va with
  | .error _ => s
  | .ok tg => s.waitOn (.duty p) [tg.pa / 64]

/-- The address translates for a write. -/
def deviceTakes (s : State) (p : Nat) (va : Word) : Bool :=
  match s.deviceXlate p true va with
  | .error _ => false
  | .ok _ => true

/-- Virtual address of a queue's header, launch area and drain log (R286). -/
def Queue.header (q : Queue) : Word := q.qctl &&& 0x00FF_FFFF_FFFF_FF80#64

/-- CONS of a queue goes on by one (R288). `none` while its line is held back, or does not translate (log entry 49). -/
def advanceCons (s : State) (p q : Nat) : Option State :=
  let va := (s.queue (4 * p + q)).header + 64
  if deviceReady s p va && deviceTakes s p va then devicePut s p va (deviceGet s p va + 1) else none

/-- TASK_ORDER_POINT (R293): the task has its turn. CONS passes the image that a launch unit picked up, which stalls as
a TSPAWN does (R289). -/
def execTaskOrderPoint (die node : Nat) (s : State) : Res :=
  .next (match (s.die die).nodes.find? node with
    | none => s
    | some n =>
      if n.st ≠ .spawned || !s.placing n.part || !orderTurn s n then s
      else
        let preds := predsOf s n.part n.queue n.ranges n.preds
        if !linksFree s none preds then s
        else
          match n.launched with
          | none => orderNode (servedOrder s n) (die, node) preds
          | some q =>
            match advanceCons s n.part q with
            | none => dutyWait s n.part ((s.queue (4 * n.part + q)).header + 64)
            | some s => orderNode (servedOrder s n) (die, node) preds)

/-- A predecessor has completed: a count goes down, and a task whose count reaches 0 is ready (R292). -/
def releaseSucc (s : State) (x : Nat × Nat) : State :=
  modNode s x fun m =>
    let k := m.count - 1
    { m with count := k, st := if k = 0 && m.st == .wait then .ready else m.st, ready := if k = 0 && m.st == .wait then s.time else m.ready }

/-- The strands of a queue that are placed. -/
def queueStrands (s : State) (p q : Nat) : List (Nat × Strand) :=
  s.strands.filter fun (_, x) => x.part == p && (match (s.die x.node.1).nodes.find? x.node.2 with
    | some n => n.queue == some q
    | none => false)

/-- A queue's watchdog when a strand of it leaves its span (R298). -/
def settleWatchdog (s : State) (p q : Nat) : State :=
  if (queueStrands s p q).isEmpty then
    s.modQueue (4 * p + q) fun k => if k.wd = .armed then { k with wd := .idle, wdCount := 0 } else k
  else s

/-- Release the cores of a strand's span. -/
def releaseSpan (s : State) (h : Nat) (x : Strand) : State :=
  ((Strand.cores h x).foldl (fun s u => s.modCore u fun c => { c with strand := none, leg := none, snaps := 0 }) s).delStrand h

/-- A store that the strand has made, or has read, is not yet performed at its home (R18, R128). -/
def strandPending (s : State) (h : Nat) (x : Strand) : Bool :=
  s.fab.pend.any fun p => p.ownedBy 0 h || (Strand.cores h x).any fun o => p.readBy 0 o

/-- TASK_COMPLETION (R18, R292): once every store of the strand is performed at package scope, the span
and the node are released, successors count down, and DONE of the queue's header rises by one. -/
def execTaskCompletion (strand : Nat) (s : State) : Res :=
  .next (match s.strand? strand with
    | none => s
    | some x =>
      if !x.ended || strandPending s strand x then s
      else
        match (s.die x.node.1).nodes.find? x.node.2 with
        | none => releaseSpan s strand x
        | some n =>
          if n.part ≠ x.part || n.st ≠ .placed then releaseSpan s strand x
          else
          let done (s : State) : Option State :=
            match n.queue with
            | none => some s
            | some q =>
              let va := (s.queue (4 * n.part + q)).header + 72
              if deviceLater s n.part va then none else devicePut s n.part va (deviceGet s n.part va + 1)
          match done s with
          | none =>
            match n.queue with
            | some q => dutyWait s n.part ((s.queue (4 * n.part + q)).header + 72)
            | none => s
          | some s =>
            let s := s.modDie x.node.1 fun d => { d with nodes := d.nodes.del x.node.2 }
            let s := n.succs.foldl releaseSucc (releaseSpan s strand x)
            match n.queue with
            | some q => settleWatchdog s n.part q
            | none => s)

/-! ## The launch unit (R288, R289) -/

/-- The doublewords of an image that the launch unit reads. -/
def deviceWords (s : State) (p : Nat) (va : Word) (n : Nat) : List Word :=
  (upTo n).map fun i => deviceGet s p (va + BitVec.ofNat 64 (8 * i))

/-- An image that the launch unit of a queue has picked up has not had its turn at the order point: the unit stalls. -/
def launchBusy (s : State) (p key : Nat) : Bool :=
  s.dies.any fun x => x.2.nodes.any fun y => y.2.part == p && y.2.st == .spawned && y.2.from_ == key

/-- The launch unit has an image, at the address, to pick up now: LAUNCH mode 00, the rate of R289, and a launch area and
a header that translate (log entry 49). -/
def launchReady (s : State) (part queue : Nat) : Option Word :=
  let q := s.queue (4 * part + queue)
  if queue > 3 || (s.part part).launchMode ≠ 0 || !q.qctl.getLsbD 63 || !s.placing part || !rateOk q.lastLaunch s.now 16 || !s.ownsRing part ||
      launchBusy s part (launchKey (bits q.qctl 56 3) queue) then none
  else if !deviceReady s part q.header || !deviceReady s part (q.header + 64) || !deviceTakes s part (q.header + 64) then none
  else
    let cons := deviceGet s part (q.header + 64)
    let va := (q.qarea &&& 0x00FF_FFFF_FFFF_FF80#64) + BitVec.ofNat 64 (128 * (cons.toNat % 2 ^ bits q.qctl 0 5))
    if deviceGet s part q.header = cons || !((upTo 16).all fun i => deviceReady s part (va + BitVec.ofNat 64 (8 * i))) then none
    else some va

/-- LAUNCH_PICKUP (R289), LAUNCH mode 00: send the next image to the order point, or consume one that fails a check and
write a record of kind 16. An uncorrectable error in the header or the image is ignored: what the unit does with it
is not stated (DESIGN CHOICE, log entry 90). -/
def execLaunchPickup (part queue : Nat) (s : State) : Res :=
  .next (match launchReady s part queue with
    | none => s
    | some va =>
      let d := bits (s.queue (4 * part + queue)).qctl 56 3
      let i := Image.ofWords (deviceWords s part va 16)
      let noted (s : State) : State := s.modQueue (4 * part + queue) fun k => { k with lastLaunch := some s.now }
      if imageOk s part i then
        if !nodeRoom s d i.ranges || !linksFree s (some d) (predsOf s part (some i.queueNo) i.ranges i.preds) then s
        else (allocNode (noted s) d part (some i.queueNo) i i.origin (launchKey d queue)).2
      else
        match advanceCons s part queue with
        | none => dutyWait s part ((s.queue (4 * part + queue)).header + 64)
        | some s =>
          (noted s).logErr (some part) d
            (errRec (errWord0 16 part d 0 0x1F 0x3FF 0) (BitVec.ofNat 64 s.time) va (BitVec.ofNat 64 queue) i.origin 0 0))

end Sys2Proof.Machine
end

