-- ==== Sys2Proof/Machine/Retriever.lean ====
section
/-!
DEFINITION. The retriever (R256 to R259, R134 to R136, R58): RTCOPY, RTGATH, RTWAIT, the landing of chunks,
completion, and faults of engine accesses (R258, R297, R311).
-/
namespace Sys2Proof.Machine

/-! ## What a copy moves (R257) -/

/-- Least and greatest sums of strides over a list of dimensions, as exact integers. -/
def spread (l : List (Nat × Word)) : Int × Int :=
  l.foldl (fun b x =>
    let d := ((x.1 : Int) - 1) * x.2.toInt
    (b.1 + min 0 d, b.2 + max 0 d)) (0, 0)

/-- First and last byte that one side of a copy touches; `none` when it touches none. -/
def sideBounds (base : Word) (esize : Nat) (inner : Nat × Word) (outer : List (Nat × Word)) (rows : Option (List Int)) :
    Option (Int × Int) :=
  let i := spread [inner]
  let b : Int := base.toNat
  let e : Int := esize
  match rows with
  | none =>
    let o := spread outer
    some (b + i.1 + o.1, b + i.2 + o.2 + e - 1)
  | some [] => none
  | some (x :: l) => some (b + i.1 + l.foldl min x, b + i.2 + l.foldl max x + e - 1)

/-! ## The image (R256) -/

/-- A copy image, before its checks. -/
structure CopyImage where
  src : Word
  dst : Word
  ctrl : Word
  idx : Word
  dims : List (Nat × Word × Word)

/-- The image in a core's scratchpad, as its context sees it. -/
def CopyImage.read (k : Core) (own : Bool) (off : Nat) : CopyImage :=
  let w (i : Nat) : Word := bytesBV 64 (spRead k own (off + 8 * i) 8)
  let ctrl := w 2
  { src := w 0, dst := w 1, ctrl := ctrl, idx := w 3,
    dims := (upTo (bits ctrl 4 4 + 1)).map fun d => ((w (4 + 3 * d)).toNat, w (5 + 3 * d), w (6 + 3 * d)) }

def CopyImage.esize (i : CopyImage) : Nat := 2 ^ bits i.ctrl 0 3
def CopyImage.srck (i : CopyImage) : Nat := bits i.ctrl 8 2
def CopyImage.dstk (i : CopyImage) : Nat := bits i.ctrl 10 2
def CopyImage.score (i : CopyImage) : Nat := bits i.ctrl 16 10
def CopyImage.dcore (i : CopyImage) : Nat := bits i.ctrl 32 10
def CopyImage.pred (i : CopyImage) : BitVec 5 := BitVec.ofNat 5 (bits i.ctrl 48 5)

/-- Bytes of the image at an offset: NDIM gives its dimensions. -/
def imageSize (s : State) (off : Nat) : Nat :=
  32 + 24 * (bits (CopyImage.read s.here (s.spOwn s.cur.unit s.cur.ctx) off).ctrl 4 4 + 1)

/-- A core named by an image lies on the issuer's die and in its partition. -/
def nearCore (s : State) (v : Nat) : Bool := dieOf v == dieOf s.cur.unit && s.samePart s.cur.unit v

/-- The image breaks a check whose trap is illegal-operand (R257). -/
def imageBad (s : State) (gather : Bool) (i : CopyImage) : Bool :=
  let c := i.ctrl
  !zeroBits c 53 11 || !zeroBits c 42 6 || !zeroBits c 26 6 || !zeroBits c 12 4 || !zeroBits c 3 1 ||
    i.srck == 3 || i.dstk == 3 || bits c 0 3 == 7 || (i.srck != 2 && i.score != 0) || (i.dstk != 2 && i.dcore != 0) ||
    i.dims.any (fun d => d.1 == 0 || decide (2 ^ 32 < d.1)) || (i.srck == 0 && i.dstk == 0) ||
    (i.srck == 2 && !nearCore s i.score) || (i.dstk == 2 && !nearCore s i.dcore) ||
    (i.pred != 0 && (s.cur.ctx != 0 || isMgmt s.cur.unit)) || (gather && i.dims.length != 2) || (!gather && i.idx != 0)

/-- A field of the image is not a multiple of the element size, or of 4 for IDX (R257). -/
def imageMisaligned (gather : Bool) (i : CopyImage) : Bool :=
  let bad (w : Word) : Bool := w.toNat % i.esize != 0
  bad i.src || bad i.dst || i.dims.any (fun d => bad d.2.1 || bad d.2.2) || (gather && i.idx.toNat % 4 != 0)

/-- Rows of a gather that are not skipped, with their indices. -/
def liveRows (idx : List (BitVec 32)) : List (Nat × BitVec 32) :=
  (idx.zipIdx.map fun x => (x.2, x.1)).filter fun x => x.2 != BitVec.allOnes 32

/-- A scratchpad range runs beyond the scratchpad, or meets the snapshot area. -/
def beyondSp (b : Option (Int × Int)) : Bool :=
  match b with
  | none => false
  | some (lo, hi) => decide (lo < 0) || decide ((spSize : Int) ≤ hi)
def meetsSnaps (c : Core) (b : Option (Int × Int)) : Bool :=
  match b with
  | none => false
  | some (_, hi) => decide (0 < c.snaps) && decide ((c.snapBase : Int) ≤ hi)

/-- The core whose scratchpad a side names. -/
def sideCore (u kind core : Nat) : Nat := if kind = 2 then core else u

/-- The scratchpad ranges of a copy: core and bounds. -/
def spSides (u : Nat) (i : CopyImage) (gather : Bool) (idx : List (BitVec 32)) : List (Nat × Option (Int × Int)) :=
  match i.dims with
  | [] => []
  | (e, ss, ds) :: outer =>
    let s1 := match outer with
      | d :: _ => d.2.1.toInt
      | [] => 0
    let d1 := match outer with
      | d :: _ => d.2.2.toInt
      | [] => 0
    let srcRows := if gather then some ((liveRows idx).map fun x => (x.2.toNat : Int) * s1) else none
    let dstRows := if gather then some ((liveRows idx).map fun x => (x.1 : Int) * d1) else none
    let src := sideBounds i.src i.esize (e, ss) (outer.map fun d => (d.1, d.2.1)) srcRows
    let dst := sideBounds i.dst i.esize (e, ds) (outer.map fun d => (d.1, d.2.2)) dstRows
    (if i.srck = 0 then [] else [(sideCore u i.srck i.score, src)]) ++
      (if i.dstk = 0 then [] else [(sideCore u i.dstk i.dcore, dst)])

/-! ## RTCOPY and RTGATH -/

/-- The runner's instruction was held until the leg became the runner, and its early commit has not come about (R56). -/
def wasHeld (s : State) : Bool :=
  s.isRunner s.cur.unit s.cur.ctx && (s.me.stall == some .held || s.me.stall == some .order)

/-- A held action (R58, R59): the copy writes memory or another core's scratchpad, or reads another core's
scratchpad, or is a speculative leg's fifth that reads memory. One that was held is so still when it is released:
the runner commits first (R56). -/
def copyHeld (s : State) (i : CopyImage) : Bool :=
  i.dstk != 1 || i.srck == 2 || (i.srck == 0 && (wasHeld s || (s.speculative s.cur.unit s.cur.ctx && decide (4 ≤ (match s.here.leg with
    | some l => l.watches.length
    | none => 0)))))

/-- The copy touches scratchpad bytes of the issuing core that the lock keeps from its context (R186). -/
def copyLocked (s : State) (sides : List (Nat × Option (Int × Int))) : Bool :=
  sides.any fun x => x.1 == s.cur.unit && (match x.2 with
    | some (lo, _) => decide (lo < 0x78000)
    | none => false) && (match s.here.lock with
    | some h => h != s.cur.ctx
    | none => false)

/-- Issue a copy that has passed its checks. -/
def startCopy (s : State) (i : CopyImage) (idx : Option (List (BitVec 32))) (sides : List (Nat × Option (Int × Int))) : State :=
  let u := s.cur.unit
  let c := s.cur.ctx
  let spec := s.speculative u c
  let (seq, s) := useTick s
  let copy : Copy :=
    { handle := s.here.copyNo, ctx := c, part := s.issuePart u c, srck := BitVec.ofNat 2 i.srck, dstk := BitVec.ofNat 2 i.dstk,
      score := sideCore u i.srck i.score, dcore := sideCore u i.dstk i.dcore, src := i.src, dst := i.dst,
      esize := i.esize, dims := i.dims, gather := idx, pred := i.pred, chunks := chunkCount i.esize i.dims,
      landed := [], held := copyLocked s sides, paused := none, before := [],
      leg := if c = 0 then s.here.leg.map (·.k) else none, preQ := false,
      after := s.blocksSoFar u c, seq := seq }
  let s := s.modHere fun k =>
    { k with
      copies := k.copies ++ [copy], copyNo := k.copyNo + 1
      leg := if spec && i.srck = 0 then k.leg.map fun l => { l with watches := l.watches ++ [copy] } else k.leg }
  if i.pred = 0 then s
  else s.setVc { s.vc with p := vset s.vc.p i.pred.toNat 0, pdirty := putBit s.vc.pdirty i.pred.toNat true }

/-- The trap of the image's own bytes (R107, R42): an image runs to its last dimension, and NDIM is looked at where the
least image, of one dimension, lies inside the scratchpad. A range beyond it comes before the snapshot area (R315). -/
def imageFault (s : State) (off : Nat) : Option TrapInfo :=
  spCheck s.here off (if spSize < off + 56 then 56 else imageSize s off)

/-- RTCOPY and RTGATH (R257). The address of a fault of the image is the image's offset. The image is read when the
instruction issues, and with it the whole index array of an RTGATH: the spec fixes that moment for the image alone, and
for the array it is the model's choice (DESIGN CHOICE, log entry 84). -/
def retrieve (gather : Bool) (xd xa : Reg) (s : State) : State :=
  control s [xa] (some xd) fun s =>
    let off := (X s xa).toNat
    let u := s.cur.unit
    match abortedTrap s u s.cur.ctx with
    | some t => .trap t
    | none =>
      if off % 32 ≠ 0 then .trap (trapAt 0x05 (X s xa))
      else
        match imageFault s off with
        | some t => .trap { t with faddr := X s xa }
        | none =>
          if s.padWait u s.cur.ctx then .stall .blocks s
          else
          let own := s.spOwn u s.cur.ctx
          let i := CopyImage.read s.here own off
          if spReadBad s.here own off (32 + 24 * i.dims.length) then .final (consume s u s.cur.ctx 0)
          else if imageBad s gather i then .trap trapOperand
          else if imageMisaligned gather i then .trap (trapAt 0x05 (X s xa))
          else
            let rows := if gather then (i.dims.getD 1 (0, 0, 0)).1 else 0
            let idxSide : List (Nat × Option (Int × Int)) :=
              if gather then [(u, some ((i.idx.toNat : Int), (i.idx.toNat : Int) + 4 * rows - 1))] else []
            let idx := if gather && !beyondSp (some ((i.idx.toNat : Int), (i.idx.toNat : Int) + 4 * rows - 1)) then
                (upTo rows).map fun r => BitVec.ofNat 32 (bytesBV 32 (spRead s.here own (i.idx.toNat + 4 * r) 4)).toNat
              else []
            let sides := idxSide ++ spSides u i gather idx
            if sides.any fun x => beyondSp x.2 then .trap (trapAt 0x09 (X s xa))
            else if sides.any fun x => meetsSnaps (s.core x.1) x.2 then .trap (trapAt 0x0A (X s xa))
            else
              let go (s : State) : CRes :=
                if 16 ≤ s.here.copies.length then .stall .engine s
                else if i.pred ≠ 0 && !s.blocksDone u s.cur.ctx then .stall .blocks s
                else
                  let h := s.here.copyNo
                  .done (setX (startCopy s i (if gather then some idx else none) sides) xd (h.setWidth 64))
              if copyHeld s i then held s go else go s

/-- RTCOPY (R257). -/
def execRtcopy (xd xa : Reg) (s : State) : Res := .next (retrieve false xd xa s)
/-- RTGATH (R257). -/
def execRtgath (xd xa : Reg) (s : State) : Res := .next (retrieve true xd xa s)

/-- RTWAIT (R259, R258): it acquires the copy's chunks. A strand that has been pre-empted may also wait for a copy
that it issued on another core (R144, R327). The trap of an aborted copy comes before that of the operand (R315). -/
def execRtwait (xa : Reg) (s : State) : Res :=
  .next (control s [xa] none fun s =>
    let u := s.cur.unit
    let h : BitVec 32 := (X s xa).setWidth 32
    let old := s.parks u s.cur.ctx
    match (s.here.aborted.find? fun a => a.1 == h).map (fun a => (u, a.1, a.2.2)) |>.or
        (if old.isEmpty then none else (s.streamAborted u s.cur.ctx).find? fun a => a.2.1 == h) with
    | some a => .trap { cause := 0x0D, faddr := a.2.2, clears := .copy a.1 h }
    | none =>
      if bits (X s xa) 32 32 ≠ 0 then .trap trapOperand
      else if (s.here.copies.any fun c => c.handle == h) ||
          (!old.isEmpty && (s.streamCopies u s.cur.ctx).any fun c => old.contains c.2.ctx && c.2.handle == h) then .stall .transfer s
      else .done s)

/-! ## Whose accesses a copy makes (R58, R60, R134) -/

/-- The leg that issued the copy is the one on its core. -/
def Copy.current (c : Copy) (s : State) (u : Nat) : Bool := c.ctx == 0 && c.leg == (s.core u).leg.map (·.k)

/-- The state in which a transfer of context `ctx`, issued in this leg, sees memory: without the lines of a later
leg of the core (R60). -/
def seesFrom (s : State) (u ctx : Nat) (leg : Option Nat) : State :=
  if ctx != 0 || leg == (s.core u).leg.map (·.k) || s.indepLeg u then s else s.modCore u fun k => { k with leg := none }

/-- The state in which the copy's context sees memory. -/
def copySees (s : State) (u : Nat) (c : Copy) : State := seesFrom s u c.ctx c.leg

/-- The copy sees the scratchpad of core `v` as it stands: bytes of a speculative leg only that leg's own
copies see (R133). -/
def copySpOwn (s : State) (u : Nat) (c : Copy) (v : Nat) : Bool := (v == u && c.current s u) || !s.speculative v 0

/-- Poisoned sectors that a transfer of context `ctx`, issued in this leg, reads as zeros on an error-tolerant page
are counted for its issuer (R117). -/
def transferSub (s : State) (u ctx : Nat) (leg : Option Nat) (n : Nat) : State :=
  if 2048 ≤ ctx then
    match List.find? (fun (x : Nat × Strand) => (s.parks x.2.at_ 0).contains ctx) s.strands with
    | none => s
    | some x => s.modStrand x.1 fun x => { x with subcnt := BitVec.ofNat 32 (min (x.subcnt.toNat + n) (2 ^ 32 - 1)) }
  else if n = 0 || leg == (s.core u).leg.map (·.k) || ctx ≠ 0 then addSub s u ctx n
  else
    match (s.core u).strand with
    | none => s
    | some h => s.modStrand h fun x => { x with subcnt := BitVec.ofNat 32 (min (x.subcnt.toNat + n) (2 ^ 32 - 1)) }

/-- In program order copy `d` comes before copy `c` of the same stream: by leg, then as they were issued. -/
def Copy.before_ (d c : Copy) : Bool :=
  match d.leg, c.leg with
  | some j, some k => decide (j < k) || (j == k && decide (d.seq < c.seq))
  | _, _ => decide (d.seq < c.seq)

/-! ## Where a chunk lies -/

/-- Runs of bytes of two places meet. -/
def placesMeet (n m : Nat) : Place → Place → Bool
  | .mem a, .mem b => runsMeet a.pa n b.pa m
  | .pad u a, .pad v b => u == v && runsMeet a n b m
  | _, _ => false

/-- The element touches a device page. -/
def Elem.device (e : Elem) : Bool :=
  [e.src, e.dst].any fun p => match p with
    | .mem t => t.attr == .device
    | .pad _ _ => false

/-- Element `e` of an earlier copy and element `f` of a later one are accesses to a common byte, one of them a
write (R123), or both to a device page (R141). -/
def elemsClash (n m : Nat) (e f : Elem) : Bool :=
  placesMeet n m e.dst f.src || placesMeet n m e.dst f.dst || placesMeet n m e.src f.dst || (e.device && f.device)

/-! ## Landing (R135, R257, R134) -/

/-- The copies of the stream that copy `c`, in flight on core `u`, belongs to: of a strand that has been pre-empted
since, those that it had issued before. -/
def copyStream (s : State) (u : Nat) (c : Copy) : List (Nat × Copy) :=
  if c.ctx < 8 then s.streamCopies u c.ctx
  else if c.ctx < 2048 then []
  else s.cores.flatMap fun (v, k) => (k.copies.filter fun p => decide (2048 ≤ p.ctx) && p.ctx / 16 == c.ctx / 16).map fun p => (v, p)

/-- An earlier copy of the context's stream has yet to move bytes that these elements touch (R123, R134). What
does not translate now counts as among them. -/
def earlierCopy (s : State) (u : Nat) (c : Copy) (els : List Elem) : Bool :=
  (copyStream s u c).any fun (v, d) =>
    (d.before_ c || (decide (2048 ≤ d.ctx) && decide (c.ctx < 8))) && (upTo d.chunks).any fun j => !d.landed.contains j &&
      match planChunk s v d (d.elems j) with
      | none => true
      | some l => l.any fun e => els.any (elemsClash d.esize c.esize e)

/-- An earlier block of the context may still touch bytes of these elements, or a device page as they do (R134, R141). -/
def earlierBlock (s : State) (u : Nat) (c : Copy) (els : List Elem) : Bool :=
  s.blockBefore u c.ctx c.after
    (fun t n => els.any fun e => [e.src, e.dst].any fun p => match p with
      | .mem m => mustOrder m c.esize t n
      | .pad _ _ => false)
    (fun a n => els.any fun e => [e.src, e.dst].any fun p => match p with
      | .mem _ => false
      | .pad v b => v == u && runsMeet b c.esize a n)

/-- A copy has still to come after what an earlier block does (R134). -/
def copyBehind (s : State) (u : Nat) (p : Copy) : Bool :=
  (upTo p.chunks).any fun k => !p.landed.contains k &&
    match planChunk s u p (p.elems k) with
    | none => decide ((s.core u).seq.fin < p.after)
    | some els => earlierBlock s u p els

/-- Destination granules of a chunk, also of a row that a gather skips (R108). -/
def chunkGranules (c : Copy) (k : Nat) : List Nat :=
  (({ c with gather := none }).elems k).flatMap fun (e : Word × Word) => granulesOf e.2.toNat c.esize

/-- The granules of each bank land in ascending offset (R108): no other chunk that has yet to land, but a row that is
skipped, holds a lower granule of a bank of this one's. -/
def bankFirst (c : Copy) (k : Nat) : Bool :=
  (upTo c.chunks).all fun j => j == k || c.landed.contains j || (c.elems j).isEmpty ||
    !((chunkGranules c k).any fun g => (chunkGranules c j).any fun h => h % 32 == g % 32 && decide (h < g))

/-- The chunks that a turn of chunk `k` lands together: itself; but of a copy into a scratchpad all that are left, when
their rows interleave within banks so that no one of them may come first (log entry 56). -/
def together (c : Copy) (k : Nat) : List Nat :=
  let left := (upTo c.chunks).filter fun j => !c.landed.contains j && !(c.elems j).isEmpty
  if c.dstk = 0 || (c.elems k).isEmpty || left.any (bankFirst c) then [k] else left

/-- A chunk of a copy into a scratchpad is one whose turn it is. A skipped row counts as landed after the rows before it
(R108). -/
def chunkTurn (c : Copy) (k : Nat) : Bool :=
  if (c.elems k).isEmpty then (upTo k).all c.landed.contains
  else c.dstk == 0 || bankFirst c k || decide (1 < (together c k).length)

/-- The copy may land a chunk now: it is not paused, the lock lets it start, and it is not held by a vault. A
drain completes every copy (R301), and so does a vault those that were accepted before it (R348, R350; log entry
60). -/
def copyReady (s : State) (u : Nat) (c : Copy) : Bool :=
  let ending := !isMgmt u && !s.placing c.part
  c.paused.isNone &&
    (ending || c.preQ || !c.held || (match (s.core u).lock with
      | some h => h == c.ctx
      | none => true)) &&
    (c.preQ || !((c.srck != 0 && s.vaulting c.score) || (c.dstk != 0 && s.vaulting c.dcore)))

/-- Sources are read: every lease is taken, nothing that the read must see is still under way (R111, R123), and no
speculative leg reads an uncacheable or device page (R59).
`none` while it must wait. -/
def leaseSources (s : State) (u : Nat) (c : Copy) : List Elem → Option State
  | [] => some s
  | e :: rest =>
    match e.src with
    | .pad _ _ => leaseSources s u c rest
    | .mem t =>
      if loadWaits (copySees s u c) u c.ctx t.pa c.esize || insideOver s u c.ctx (issuedBefore c.seq) t c.esize then none
      else if !t.attr.cached then (if c.current s u && s.speculative u c.ctx then none else leaseSources s u c rest)
      else
        match leaseFor s u (t.pa / 64) c.part with
        | none => none
        | some (_, s) => leaseSources s u c rest

/-- A byte of core `v`'s scratchpad as the copy sees it (R133). -/
def copySpByte (s : State) (u : Nat) (c : Copy) (v a : Nat) : Byte :=
  if copySpOwn s u c v then (s.core v).sp.read a else (s.core v).spSeen a

/-- An element read from its source: its bytes, whether they are poisoned, and the poisoned sectors read as
zeros. A sector that several elements read counts for each (DESIGN CHOICE, log entry 39). -/
def readElem (s : State) (u : Nat) (c : Copy) (e : Elem) : List Byte × Bool × Nat :=
  match e.src with
  | .mem t =>
    let s := copySees s u c
    let bs := view s u c.ctx t.pa c.esize
    let bad := s.badSectors u c.ctx t.pa c.esize
    if t.attr = .errorTolerant then (tolerate s u c.ctx t.pa bs, false, bad.length) else (bs, !bad.isEmpty, 0)
  | .pad v off =>
    ((upTo c.esize).map fun i => (FMap.find? c.before (off + i)).getD (copySpByte s u c v (off + i)),
      spReadBad (s.core v) (copySpOwn s u c v) off c.esize, 0)

/-- Bytes written by chunks after `k` that have already landed: the later element of the traversal
keeps its value (R257). -/
def writtenLater (c : Copy) (k : Nat) (a : Nat) : Bool :=
  c.landed.any fun j => decide (k < j) && (c.elems j).any fun e => decide (e.2.toNat ≤ a) && decide (a < e.2.toNat + c.esize)

/-- Mark the poison of scratchpad sectors that a copy has written. -/
def markSp (s : State) (v off n : Nat) : State :=
  s.modCore v fun k => { k with spPoison := (sectorsOf off n).foldl (fun l x => insertNat x l) k.spPoison }

/-- Write bytes of a copy at a place (R51, R58, R112). `none` while the undo log is full. -/
def writeBytes (s : State) (u : Nat) (c : Copy) (dest : Place) (bs : List Byte) (bad : Bool) : Option State :=
  match dest with
  | .mem t =>
    let strand := if c.ctx = 0 then (s.core u).strand else none
    let s := homeWrite s none strand c.part t.attr t.pa bs
    let s := match strand with
      | none => s
      | some h => broadcastTo s h (fun j => match c.leg with
        | some k => decide (k < j)
        | none => true) (sectorsOf t.pa bs.length)
    some (if bad && t.attr ≠ .errorTolerant then
        s.modFab fun f => { f with poison := (sectorsOf t.pa bs.length).foldl (fun l x => insertNat x l) f.poison }
      else s)
  | .pad v off =>
    let spec := v == u && c.current s u && s.speculative u c.ctx
    (spWrite s v spec off bs).map fun s => if bad then markSp s v off bs.length else s

/-- A place some bytes further on. -/
def Place.plus : Place → Nat → Place
  | .mem t, i => .mem { t with pa := t.pa + i }
  | .pad v off, i => .pad v (off + i)

/-- Write an element, except the bytes that a later element has already written. -/
def writeElem (s : State) (u : Nat) (c : Copy) (k : Nat) (e : Elem) (bs : List Byte) (bad : Bool) : Option State :=
  if c.landed.any fun j => decide (k < j) then
    (bs.zipIdx).foldl (fun s bi =>
      match s with
      | none => none
      | some s => if writtenLater c k (e.da.toNat + bi.2) then some s else writeBytes s u c (e.dst.plus bi.2) [bi.1] bad) (some s)
  else writeBytes s u c e.dst bs bad

/-- Lines of memory that a chunk writes. -/
def destLines (els : List Elem) : List Nat :=
  (els.filterMap fun e => match e.dst with
    | .mem t => some (t.pa / 64)
    | .pad _ _ => none).eraseDups

/-- The destinations in memory may be written now: the homes take the lines, and no earlier store of the
context or one that it has read, nor an RCOPY that has yet to read there, is overtaken; nor is a store to a device page
(R112, R123, R141, R261). -/
def destsReady (s : State) (u : Nat) (c : Copy) (els : List Elem) : Bool :=
  (destLines els).all s.writable && (!(els.any Elem.device) || !(s.ownPend u c.ctx).any (·.dev)) && els.all fun e => match e.dst with
    | .pad _ _ => true
    | .mem t => !pendOver s u c.ctx t.pa c.esize && !insideOver s u c.ctx (issuedBefore c.seq) t c.esize &&
        !rcopyHits s u c.ctx (issuedBefore c.seq) fun r n => mustOrder r n t c.esize

/-- Scratchpad bytes that the chunk overwrites, kept for later reads of the same copy (R257). -/
def keepBefore (s : State) (u : Nat) (c : Copy) (els : List Elem) : FMap Byte :=
  if c.srck ≠ 0 && c.dstk ≠ 0 && c.score = c.dcore then
    els.foldl (fun m e => (upTo c.esize).foldl (fun m i =>
      let a := e.da.toNat + i
      if (FMap.find? m a).isSome then m else FMap.set m a (copySpByte s u c c.dcore a)) m) c.before
  else c.before

/-- The chunk predicate bit of a landed chunk (R135): chunks from 8,191 on share the last bit. -/
def predBit (c : Copy) (landed : List Nat) (k : Nat) : Option Nat :=
  if c.pred = 0 then none
  else if k < 8191 || c.chunks ≤ 8192 then some k
  else if (landed.filter fun j => decide (8191 ≤ j)).length = c.chunks - 8191 then some 8191
  else none

/-- The bytes of a chunk have landed: its bit of the chunk predicate is set (R135, R257). -/
def chunkLanded (s : State) (u : Nat) (c : Copy) (k : Nat) (before : FMap Byte) : State :=
  let landed := insertNat k c.landed
  let s := s.modCore u fun x =>
    { x with copies := x.copies.map fun y => if y.handle = c.handle then { y with landed := landed, before := before, held := false } else y }
  match predBit c landed k with
  | none => s
  | some b =>
    let v := (s.core u).v
    s.modCore u fun x => { x with v := { v with p := vset v.p c.pred.toNat (putBit (vget v.p 0 c.pred.toNat) b true), pdirty := putBit v.pdirty c.pred.toNat true } }

/-- The TLBs after a chunk has been translated (R307). -/
def fillChunk (s : State) (u : Nat) (c : Copy) (els : List Elem) : State :=
  els.foldl (fun s e =>
    let s := match e.src with
      | .mem _ => s.fillTlb u c.part e.sa
      | .pad _ _ => s
    match e.dst with
    | .mem _ => s.fillTlb u c.part e.da
    | .pad _ _ => s) s

/-- A chunk whose elements may move now: all are read, then all are written. -/
def moveChunk (s : State) (u : Nat) (c : Copy) (k : Nat) (els : List Elem) : Option State :=
  let got := els.map fun e => (e, readElem s u c e)
  let before := keepBefore s u c els
  let s := transferSub s u c.ctx c.leg (got.map fun x => x.2.2.2).sum
  (got.foldl (fun (s : Option State) x =>
    match s with
    | none => none
    | some s => writeElem s u c k x.1 x.2.1 x.2.2.1) (some s)).map fun s => chunkLanded s u c k before

/-- A chunk of a retriever copy lands; while it waits, the lines whose homes it waits for. -/
def landChunk (s : State) (u : Nat) (c : Copy) (k : Nat) : Except (List Nat) State :=
  match planChunk s u c (c.elems k) with
  | none => .error []
  | some els =>
    if earlierCopy s u c els || earlierBlock s u c els then .error []
    else if !destsReady s u c els then .error (destLines els)
    else
      match leaseSources (fillChunk s u c els) u c els with
      | none => .error []
      | some s1 =>
        match moveChunk s1 u c k els with
        | none => .error []
        | some s => .ok s

/-- Chunks of the copy on core `u` with this handle land one after another. -/
def landChunks (u : Nat) (handle : BitVec 32) : List Nat → State → Except (List Nat) State
  | [], s => .ok s
  | k :: ks, s =>
    match (s.core u).copies.find? fun c => c.handle == handle with
    | none => .error []
    | some c =>
      match landChunk s u c k with
      | .ok s => landChunks u handle ks s
      | .error l => .error l

/-- A chunk of the copy on core `u` with this handle lands, if it can. -/
def landRetriever (s : State) (u : Nat) (handle : BitVec 32) (k : Nat) : State :=
  match (s.core u).copies.find? fun c => c.handle == handle with
  | none => s
  | some c =>
    if decide (k < c.chunks) && !c.landed.contains k && chunkTurn c k && copyReady s u c then
      match landChunks u handle (together c k) s with
      | .ok s => s
      | .error l => s.waitOn (.copy u handle) l
    else s

/-- COPY_COMPLETION (R259): the slot is freed. -/
def execCopyCompletion (unit : Nat) (handle : BitVec 32) (s : State) : Res :=
  .next (match (s.core unit).copies.find? fun c => c.handle == handle with
    | none => s
    | some c =>
      if c.landed.length = c.chunks then
        s.modCore unit fun k => { k with copies := k.copies.filter fun x => x.handle != handle }
      else s)

/-! ## Faults of engine accesses (R258, R297, R311, R370) -/

/-- Raise a page fault of a party: a record that its partition's PFAULT duty serves. The number of the
record, and the state. What the two doublewords of the host's record hold is not given. -/
def postFault (s : State) (d part : Nat) (va : Word) (status : BitVec 16) (who : Faulter) : Nat × State :=
  let mode := (s.part part).pfaultMode
  let k := s.pkg.nextFault
  let s := s.modPkg fun p => { p with pfaults := p.pfaults.set k ⟨part, va, status, who, BitVec.ofNat 2 mode⟩, nextFault := k + 1 }
  if mode = 2 then
    (k, ({ s with fresh := s.fresh + 2 }).notify part (Config.freeWord s.fresh) (Config.freeWord (s.fresh + 1)))
  else (k, s.setEvent d 1)

/-- The party has an open fault record. -/
def faultOpen (s : State) (who : Faulter) : Bool := s.pkg.pfaults.any fun x => x.2.who == who

/-- The first fault of a chunk's elements: status and address. -/
def chunkFault (s : State) (u : Nat) (c : Copy) (k : Nat) : Option (BitVec 16 × Word) :=
  (c.elems k).findSome? fun e =>
    let one (kind : BitVec 2) (write : Bool) (va : Word) : Option (BitVec 16 × Word) :=
      if kind = 0 then
        match copyXlate s u c write va with
        | .error st => if xLater st then none else some (st, va)
        | .ok _ => none
      else none
    (one c.srck false e.1).or (one c.dstk true e.2)

/-- RETRIEVER_PAGE_FAULT (R258): the copy pauses while the PFAULT duty serves the fault. A fault of a
speculative leg's copy is deferred (R61). -/
def execRetrieverPageFault (unit : Nat) (handle : BitVec 32) (chunk : Nat) (s : State) : Res :=
  .next (match (s.core unit).copies.find? fun c => c.handle == handle with
    | none => s
    | some c =>
      if c.landed.contains chunk || !copyReady s unit c || s.speculative unit c.ctx then s
      else
        match chunkFault s unit c chunk with
        | none => s
        | some (st, va) =>
          let (k, s) := postFault s (dieOf unit) c.part va st (.copy unit handle)
          s.modCore unit fun x => { x with copies := x.copies.map fun y => if y.handle = handle then { y with paused := some k } else y })

/-- A copy aborts: it counts as complete, and its trap is pending (R258). -/
def abortCopy (s : State) (u : Nat) (handle : BitVec 32) (va : Word) : State :=
  match (s.core u).copies.find? fun c => c.handle == handle with
  | none => s
  | some c =>
    s.modCore u fun k =>
      { k with copies := k.copies.filter fun x => x.handle != handle, aborted := k.aborted ++ [(handle, c.ctx, va)] }

end Sys2Proof.Machine
end

