-- ==== Sys2Proof/Machine/LegEvents.lean ====
section
/-!
DEFINITION. The events of a FORK or FORKI region that no instruction makes: leg starts (R14), deliveries
along the baton ring (R45), store broadcasts (R51, R52), forwarded load misses (R50), the commit baton
(R55).
-/
namespace Sys2Proof.Machine

/-! ## LEG_START (R14, R43) -/

/-- The strand runs: it is not ended, not being pre-empted, and its partition is not draining. -/
def strandRuns (s : State) (x : Strand) : Bool := !x.ended && x.saving.isNone && s.placing x.part && !s.pkg.faulted

/-- The cores of a span that are free for their next leg: leg number, span index. A leg needs a leg cache that has
power and is admitted (log entry 57). -/
def legCandidates (s : State) (h : Nat) (x : Strand) (r : Region) : List (Nat × Nat) :=
  (upTo x.size).filterMap fun i =>
    let k := r.next.get r.legs i
    let c := s.core (h + i)
    if k < r.legs && c.leg.isNone && !(c.ctx 0).resident && !s.vaulting (h + i) && (r.indep || !s.cacheOff (h + i)) then some (k, i) else none

/-- The lowest leg number among candidates. -/
def lowestLeg (l : List (Nat × Nat)) : Option (Nat × Nat) :=
  l.foldl (fun (best : Option (Nat × Nat)) x =>
    match best with
    | none => some x
    | some b => if x.1 < b.1 then some x else some b) none

/-- Values held for a leg that has not started: which registers, and the values (R45). -/
def earlyValues (l : List (Nat × Parcel)) (k : Nat) : BitVec 32 × Vector Word 32 :=
  l.foldl (fun b x =>
    match x with
    | (j, .value n v) => if j = k then (putBit b.1 n.toNat true, vset b.2 n.toNat v) else b
    | (_, .store _) => b) (0, Vector.replicate 32 0)

/-- A pre-emption waits for the leg whose turn to commit it is (R64). -/
def runnerDue (s : State) (h : Nat) (x : Strand) (r : Region) : Bool :=
  strandRuns s { x with saving := none } && !r.indep && (s.legsOf h).all fun y => y.1 != r.runner

/-- LEG_START: the lowest leg whose core is free starts there. -/
def execLegStart (strand : Nat) (s : State) : Res :=
  .next (match s.strand? strand with
    | none => s
    | some x =>
      match x.region with
      | none => s
      | some r =>
        if !(strandRuns s x || runnerDue s strand x r) then s
        else
          match lowestLeg (legCandidates s strand x r) with
          | none => s
          | some (k, i) =>
            let got := earlyValues r.early k
            let r := { r with next := r.next.set i (k + x.size), early := r.early.filter fun p => p.1 != k }
            startLegOn (s.setStrand strand { x with region := some r }) (strand + i) r (r.newLeg k got.1 got.2 [] 0))

/-! ## Parcels (R45, R51, R52) -/

/-- The oldest parcel of the leg on a core, and the leg without it. Nothing reaches a core that is being
vaulted (R350). -/
def nextParcel (s : State) (u : Nat) : Option (Parcel × Leg) :=
  if s.vaulting u then none
  else
    match (s.core u).leg with
    | none => none
    | some l =>
      match l.inbox with
      | [] => none
      | p :: rest => some (p, { l with inbox := rest })

/-- A carried register in a leg that has not written it takes the delivered value, which ends a stall
on it (R45). -/
def takeValue (s : State) (u : Nat) (l : Leg) (n : Nat) (v : Word) : State :=
  if l.written.getLsbD n then s
  else s.modCtx u 0 fun x => { x.setReg n v with stall := if x.stall = some (.carried (BitVec.ofNat 5 n)) then none else x.stall }

/-- BATON_DELIVERY (R45): the leg takes the value, or is squashed with every younger leg when it has read
another. A leg that has ended passes on the registers that it has not written. -/
def execBatonDelivery (unit : Nat) (s : State) : Res :=
  .next (match nextParcel s unit, (s.core unit).strand, s.regionOf unit with
    | some (.value n v, l), some h, some r =>
      let (l', bad) := l.deliver n.toNat v
      let s := takeValue (s.modCore unit fun c => { c with leg := some l' }) unit l n.toNat v
      if bad then squashFrom s h l.k false
      else if l.joined && !l.written.getLsbD n.toNat && l.k + 1 ≠ r.legs then sendParcel s h (l.k + 1) (.value n v)
      else s
    | _, _, _ => s)

/-- Sectors that a watched copy reads (R58). -/
def watchedSectors (s : State) (u : Nat) (c : Copy) : List Nat :=
  (upTo c.chunks).flatMap fun k => (c.elems k).flatMap fun e =>
    match copyXlate s u c false e.1 with
    | .ok tg => sectorsOf tg.pa c.esize
    | .error _ => []

/-- A store to these sectors squashes the leg: one is exposed, or one is watched (R52, items 1 and 5). -/
def storeHits (s : State) (u : Nat) (l : Leg) (sectors : List Nat) : Bool :=
  ((s.core u).lines.any fun x => x.st == .L && sectors.any fun k => k / 4 == x.line && x.exposed.getLsbD (k % 4)) ||
    l.watches.any fun c => (watchedSectors s u c).any sectors.contains

/-- STORE_BROADCAST (R52). -/
def execStoreBroadcast (unit : Nat) (s : State) : Res :=
  .next (match nextParcel s unit, (s.core unit).strand with
    | some (.store sectors, l), some h =>
      let s := s.modCore unit fun c => { c with leg := some l }
      if storeHits s unit l sectors then squashFrom s h l.k false else s
    | _, _ => s)

/-! ## FORWARDING_REQUEST (R50) -/

/-- The vector sequencer's header has been answered for its slice (R109). -/
def answerHeader (s : State) (m : Miss) : State :=
  s.modCore m.unit fun c => { c with seq := { c.seq with answered := State.sliceKey m.unit m.line :: c.seq.answered } }

/-- A line of the leg cache as an answer leaves it: filled, and owned when ownership was asked for. -/
def Line.answered (x : Line) (own : Bool) (lease : Option Nat) (stamp : Nat) : Line :=
  { x with
    filled := true, used := stamp, lease := if own then none else lease
    st := if own && x.st != .L then .M else x.st }

/-- The answer's line in the leg cache; `none` while the line that it replaces may not leave. A line in state L keeps
its state when a handler's store asked for ownership: what that store then does is not stated, and the model has it ask
again until the leg has committed or has been squashed (DESIGN CHOICE, log entry 85). -/
def placeAnswer (s : State) (m : Miss) (lease : Option Nat) : Option State :=
  let (stamp, s) := useTick s
  if s.cacheOff m.unit then some s
  else if (s.core m.unit).lines.any fun x => x.line == m.line then
    some (s.modCore m.unit fun c => { c with lines := c.lines.map fun x => if x.line = m.line then x.answered m.own lease stamp else x })
  else
    let x : Line := ⟨m.line, .S, 0, 0, 0, 0, 0, false, true, lease, BitVec.ofNat 4 (s.issuePart m.unit m.ctx), m.ctx, stamp, [], 0⟩
    installLine s m.unit (x.answered m.own lease stamp)

/-- The request is no longer outstanding, and a context that stalled on it is ready. -/
def endMiss (s : State) (m : Miss) : State :=
  (s.modFab fun f => { f with misses := f.misses.filter fun x => x != m }).modCtx m.unit m.ctx fun x =>
    { x with stall := if x.stall = some (.miss m.line) then none else x.stall }

/-- A miss is answered (R106, R110, R111): for a read the line is there, with its lease, and an owner elsewhere
keeps a clean copy; a request for ownership takes every other copy away. The data is what `view` gives. -/
def fillLine (s : State) (m : Miss) (lease : Option Nat) : State :=
  if m.ctx = 8 then (answerHeader s m).modFab fun f => { f with misses := f.misses.filter fun x => x != m }
  else
    let s1 := if m.own then takeOwnership s m.unit m.line else shareLine s m.unit m.line
    match placeAnswer s1 m lease with
    | some s2 => endMiss s2 m
    | none => s

/-- Legs up to the one on core `u` have written every sector of the line: the newest older one supplies each that the
leg itself has not written, and nothing goes to the L2 or the RDC (R50). -/
def olderDirty (s : State) (u line : Nat) : Bool :=
  match (s.core u).leg, (s.core u).strand with
  | some l, some h => (upTo 4).all fun i => (s.legsOf h).any fun x => decide (x.1 ≤ l.k) &&
      (s.core x.2).lines.any fun y => y.line == line && y.st == .L && y.dirty.getLsbD i
  | _, _ => false

/-- The request would pass an older leg's core that is being vaulted: it is held there (R348). -/
def forwardHeld (s : State) (u : Nat) : Bool :=
  match (s.core u).leg, (s.core u).strand with
  | some l, some h => (s.legsOf h).any fun x => decide (x.1 < l.k) && s.vaulting x.2
  | _, _ => false

/-- FORWARDING_REQUEST (R50): a leg's miss is answered by an older leg, or goes on to the L2 or the RDC, whose data
CACHE_MISS_FILL brings. -/
def execForwardingRequest (unit ctx : Nat) (s : State) : Res :=
  .next (match s.fab.misses.find? fun m => m.unit == unit && m.ctx == ctx && m.forward with
    | none => s
    | some m =>
      if forwardHeld s unit || s.cacheBarred unit then s
      else if olderDirty s unit m.line then fillLine s m none
      else s.modFab fun f => { f with misses := f.misses.map fun x => if x = m then { x with forward := false } else x })

/-! ## COMMIT_BATON (R55, R49) -/

/-- COMMIT_BATON: the next leg becomes the runner, once what older legs sent it has arrived. -/
def execCommitBaton (strand : Nat) (s : State) : Res :=
  .next (match s.strand? strand with
    | none => s
    | some x =>
      match x.region with
      | none => s
      | some r =>
        if r.indep || r.arrived then s
        else
          match (s.legsOf strand).find? fun y => y.1 == r.runner with
          | none => s
          | some (_, u) =>
            if s.vaulting u || ((s.core u).leg.map fun l => !l.inbox.isEmpty) != some false then s
            else
              let s := s.setStrand strand { x with region := some { r with arrived := true } }
              s.modCore u fun c =>
                { c with
                  lines := c.lines.map fun y => { y with exposed := 0 }
                  leg := c.leg.map fun l => { l with watches := [] } })

end Sys2Proof.Machine
end

