-- ==== Sys2Proof/Machine/MemEvents.lean ====
section
/-!
DEFINITION. Events of the memory fabric: fills and retries (R106, R109), invalidation and leases (R110 to
R112), stores performed at their homes (R112, R120), write-backs (R343), power gating and rejoining
(R110, R344), monitors (R189), and walks that fill TLBs (R305 to R308).
-/
namespace Sys2Proof.Machine

/-! ## Fills and retries -/

/-- CACHE_MISS_FILL (R106, R109, R110): the data or the ownership that a miss asked for arrives, and the stalled
context is ready. A request for ownership bypasses the RDC (R111), and waits for the host to give its copy up (R363). A vector header's lines take their leases as
the word reads them. -/
def execCacheMissFill (unit ctx : Nat) (bad : BitVec 4) (s : State) : Res :=
  .next (match s.fab.misses.find? fun m => m.unit == unit && m.ctx == ctx && !m.forward with
    | none => s
    | some m =>
      -- an agent that is not admitted: refused, and never performed (R344)
      if s.cacheBarred unit then endMiss s m
      else if s.hostKeeps m.line || (m.own && !s.hostFree m.line) then s
      else if m.own || m.ctx = 8 then fillLine (poisonLine s m.line bad) m none
      else
        match leaseFor s unit m.line (s.issuePart unit ctx) with
        | none => s
        | some (e, s) => fillLine (poisonLine s m.line bad) m e)

/-- The refused headers of a vector word whose hinted times have passed are sent again (R109). -/
def retryWord (s : State) (u : Nat) : State :=
  let due := (s.core u).seq.refused.filter fun x => decide (x.2 ≤ s.now)
  due.foldl (fun s x =>
    let (w, s) := requestLine s u 8 x.1 false false
    let again : List (Header × Nat) := match w with
      | .refused h _ ready => [(h, ready)]
      | _ => []
    s.modCore u fun c => { c with seq := { c.seq with refused := (c.seq.refused.filter (· != x)) ++ again } }) s

/-- HEADER_RETRY (R109): once the hinted time has passed, the refused header is sent again. Context 8 is the
vector sequencer. A leg cache that is not admitted sends none (R344). -/
def execHeaderRetry (unit ctx : Nat) (s : State) : Res :=
  .next (if s.cacheBarred unit then s
    else if ctx = 8 then retryWord s unit
    else
      match (s.ctx unit ctx).stall with
      | some (.refused h own ready) =>
        if s.now < ready then s
        else
          let (w, s) := requestLine s unit ctx h (s.versioned unit ctx && !own) own
          s.modCtx unit ctx fun x => { x with stall := some w }
      | _ => s)

/-! ## Invalidation and leases -/

/-- COHERENCE_INVALIDATION (R110, R52 item 3): a copy goes; a speculative leg with the line exposed is
squashed. Lines that a leg has written stay its own. -/
def execCoherenceInvalidation (unit line : Nat) (s : State) : Res :=
  .next (let exposed := (s.core unit).lines.any fun x => x.line == line && x.st == .L && x.exposed != 0
    let s := evictLines s unit fun x => x.line == line && x.st != .L
    if exposed then squashAt s unit else s)

/-- The lease of a leg-cache line has ended. -/
def Line.leaseOver (x : Line) (line time : Nat) : Bool :=
  x.line == line &&
    match x.lease with
    | some e => decide (e ≤ time)
    | none => false

/-- LEASE_EXPIRY (R111, R52 item 4): the RDC line of a die goes at its expiry, and so do the leg-cache lines of the
die that were filled from it, each at the expiry that it carries. -/
def execLeaseExpiry (die line : Nat) (s : State) : Res :=
  .next (let s := match (s.die die).rdc.find? line with
      | some e => if s.time < e then s else s.modDie die fun d => { d with rdc := d.rdc.del line }
      | none => s
    let near (s : State) (f : Line → Bool) : List Nat :=
      (s.cores.filter fun (u, c) => dieOf u == die && c.lines.any fun x => x.leaseOver line s.time && f x).map (·.1)
    let hit := (near s fun x => x.st == .L && x.exposed != 0).filter fun u => s.speculative u 0
    let gone := near s fun x => x.st != .L
    let s := gone.foldl (fun s u => evictLines s u fun x => x.leaseOver line s.time && x.st != .L) s
    hit.foldl squashAt s)

/-! ## Stores that reach their homes -/

/-- The page attribute that a pending store went by. -/
def PStore.attr (p : PStore) : Attr :=
  if p.et then .errorTolerant else if p.cached then .cacheable else if p.dev then .device else .uncacheable

/-- Perform the pending store at `idx` at its home, once every lease granted on its line has ended and
nothing orders it behind another (R112, R120). -/
def performPend (s : State) (idx : Nat) : State :=
  match s.fab.pend[idx]? with
  | none => s
  | some p =>
    if p.add.isSome || !pendReady s idx p then s
    else
      let s' := homeWrite s (some p.unit) (p.strand s) p.part p.attr p.pa p.bytes
      s'.modFab fun f => { f with pend := listDel s.fab.pend idx }

/-- LEASE_WAIT_WRITE (R112, R120): a pending store is performed at its home slice. -/
def execLeaseWaitWrite (idx : Nat) (s : State) : Res := .next (performPend s idx)

/-! ## Write-backs (R343) -/

/-- The write-back of a dirty line of core `u` can be forced by the context that wrote it: by its FENCE, commit or
other wait for its stores, its own access that needs the place, its save, or a drain or vault of its core
(R343). -/
def forcedBy (s : State) (u : Nat) (x : Line) : Bool :=
  s.vaulting u || !s.placing x.writer.toNat || (s.ctx u x.wctx).stall == some .order || (s.ctx u x.wctx).stall == some .evict ||
    (x.wctx == 0 && (match (s.core u).strand with
      | some h => ((s.strand? h).map fun y => y.saving.isSome || y.ended).getD false
      | none => false)) ||
    s.fab.misses.any fun m => m.unit == u && (m.ctx == x.wctx || (m.ctx == 8 && x.wctx == 0)) && lineSet m.line == lineSet x.line

/-- The write-back of an L2 line can be forced by the partition that wrote it last: a strand or handler of it waits for
its stores, or the partition drains (R343). -/
def forcedByPart (s : State) (part : Nat) : Bool :=
  !s.placing part || s.cores.any fun (u, k) => s.partOf u == some part && (s.vaulting u || (upTo 8).any fun c =>
    (k.ctx c).stall == some .order || (k.ctx c).stall == some .evict)

/-- A runner gives up a line that it has written: the line is committed first, and then written back (R53). -/
def writebackLeg (s : State) (u line : Nat) (bad forced : Bool) (x : Line) : State :=
  if !lineReady s u line then s.waitOn (.ctx u 0) [line]
  else
    let s := evictLines (commitLine s u x) u fun y => y.line == line
    if bad && x.bad = 0 then chargeLegLine s u forced x else s

/-- LINE_WRITEBACK (R106, R343): a dirty line leaves its cache. A line that a full slice has displaced leaves its
write-back buffer for the LLC (R109). `forced`: it answers the wait of the party that wrote the line, where that party
does wait (log entry 58). Before a leg reads or writes a line with committed data it becomes clean and stays (R49). -/
def execLineWriteback (at_ : LineAt) (line : Nat) (bad forced : Bool) (s : State) : Res :=
  .next (match at_ with
    | .leg u =>
      match (s.core u).lines.find? fun x => x.line == line && (x.st == .M || (x.st == .L && x.dirty != 0 && s.isRunner u 0)) with
      | none => s
      | some x =>
        let forced := forced && forcedBy s u x
        if x.st = .L then writebackLeg s u line bad forced x
        else if linePending s line then s
        else
          let s := if s.versioned u 0 then s.modCore u fun c => { c with lines := c.lines.map fun y => if y.line = line then { y with st := .S } else y }
            else evictLines s u fun y => y.line == line
          if bad then chargeLegLine s u forced x else s
    | .l2 =>
      match (s.fab.wb.find? line).or (s.fab.l2.find? line) with
      | none => s
      | some p =>
        if linePending s line then s
        else
          let forced := forced && forcedByPart s p.toNat
          let s := s.modFab fun f => if (f.wb.find? line).isSome then { f with wb := f.wb.del line } else { f with l2 := f.l2.del line }
          if bad then
            chargeLine s forced (fun kind p => errWord0 kind p (homeDie (64 * line)) 0 0x1F 0x3FF 8) (homeDie (64 * line)) p.toNat line
          else s)

/-! ## Power gating and rejoining (R110, R344) -/

/-- L2 lines outside a slice. -/
def outsideSlice (d k : Nat) (m : FMap (BitVec 4)) : FMap (BitVec 4) :=
  m.filter fun x => !(homeDie (64 * x.1) == d && sliceOf (64 * x.1) == k)

/-- A cache is emptied: its dirty lines are at their homes. -/
def emptyAgent (s : State) (a : Agent) : State :=
  match a with
  | .legCache u => (evictLines s u fun _ => true).modCore u fun c => { c with tlb := [] }
  | .rdc d => s.modDie d fun x => { x with rdc := [] }
  | .l2 d k => s.modFab fun f => { f with l2 := outsideSlice d k f.l2 }
  | .llc _ => s
  | .slot _ _ => s

/-- A request of the core's leg cache is outstanding, or has been refused and is to be sent again. -/
def State.requesting (s : State) (u : Nat) : Bool :=
  (s.fab.misses.any fun m => m.unit == u) || !(s.core u).seq.refused.isEmpty || (upTo 8).any fun c => match (s.ctx u c).stall with
    | some (.refused _ _ _) => true
    | _ => false

/-- The agent can be gated: its dirty lines have been pushed to their homes, and no leg runs on the core of a leg
cache, which has no request under way (R110, log entry 57). -/
def canGate (s : State) (a : Agent) : Bool :=
  match a with
  | .legCache u =>
    (s.core u).leg.isNone && !s.requesting u && (s.core u).lines.all (fun x => x.st == .S) && !s.fab.pend.any fun p => p.unit == u && p.cached
  | .rdc _ => true
  | .l2 d k => (outsideSlice d k s.fab.l2).length == s.fab.l2.length && (outsideSlice d k s.fab.wb).length == s.fab.wb.length
  | .llc _ => false
  | .slot _ _ => false

/-- POWER_GATE (R110). -/
def execPowerGate (agent : Agent) (s : State) : Res :=
  .next (if s.fab.gated.contains agent || s.fab.sweeping.contains agent || !canGate s agent then s
    else (emptyAgent s agent).modFab fun f => { f with gated := agent :: f.gated })

/-- The agent is off: gated, a faulty slot, or an LLC that has been retrained. -/
def agentOff (s : State) (a : Agent) : Bool :=
  match a with
  | .slot r k => remapState (s.ring r).remap k == 2
  | .llc _ => true
  | .legCache _ => s.fab.gated.contains a
  | .rdc _ => s.fab.gated.contains a
  | .l2 _ _ => s.fab.gated.contains a

/-- CACHE_POWER_UP (R110, R344): active again and empty, and not yet admitted. -/
def execCachePowerUp (agent : Agent) (s : State) : Res :=
  .next (if s.fab.sweeping.contains agent || !agentOff s agent then s
    else (emptyAgent s agent).modFab fun f =>
      { f with gated := f.gated.filter (· != agent), sweeping := agent :: f.sweeping })

/-- Clear the monitors of a core's contexts. -/
def clearMonitors (s : State) (u : Nat) : State :=
  s.modCore u fun c => { c with ctxs := c.ctxs.map fun x => { x with monitor := none } }

/-- The first doubleword of an agent's record of kind 15, and its die and partition. -/
def agentRec (s : State) (a : Agent) : Word × Nat × Option Nat :=
  match a with
  | .legCache u => (errWord0 15 ((s.partOf u).getD 0) (dieOf u) (ringOf u % 8) (s.slotOf u) u 6, dieOf u, s.partOf u)
  | .rdc d => (errWord0 15 0 d 0 0x1F 0x3FF 9, d, none)
  | .l2 d _ => (errWord0 15 0 d 0 0x1F 0x3FF 8, d, none)
  | .llc d => (errWord0 15 0 d 0 0x1F 0x3FF 10, d, none)
  | .slot r k => (errWord0 15 ((s.ringPart r).getD 0) (r / 8) (r % 8) k 0x3FF 0, r / 8, s.ringPart r)

/-- REJOIN_ADMISSION (R344): the sweep has cleared the monitors that name the agent, its own caches are
empty, and it is admitted. A slot becomes a reserve again (R345). -/
def execRejoinAdmission (agent : Agent) (s : State) : Res :=
  .next (if !s.fab.sweeping.contains agent then s
    else
      let s := (emptyAgent s agent).modFab fun f => { f with sweeping := f.sweeping.filter (· != agent) }
      let s := match agent with
        | .legCache u => clearMonitors s u
        | .slot r k => s.modRing r fun x => { x with remap := putBits x.remap (80 + 2 * k) 1#2 }
        | _ => s
      let (w0, d, part) := agentRec s agent
      s.logErr part d (errRec w0 (BitVec.ofNat 64 s.time) 0 0 0 0 0))

/-! ## Monitors -/

/-- MONITOR_FIRE (R189): a monitor that a write, a full table or an eviction has fired wakes its MONWAIT, which reads its
location again. -/
def execMonitorFire (unit ctx : Nat) (s : State) : Res :=
  .next (if (s.ctx unit ctx).monitor.any (·.fired) then
      s.modCtx unit ctx fun x => { x with stall := if x.stall = some .monwait then none else x.stall }
    else s)

/-! ## Walks (R305 to R308) -/

/-- Address of the entry that a walk reads at a level, when it reads one there. -/
def entryAt (s : State) (p va : Nat) : Nat → Option Nat
  | 0 => none
  | 1 =>
    let b := (s.part p).ptbase
    if b.getLsbD 0 then some (bits b 11 41 * 2 ^ 11 + va / 2 ^ 48 % 2 ^ 8 * 8) else none
  | level + 2 =>
    match entryAt s p va (level + 1) with
    | none => none
    | some a =>
      match walkRead s a with
      | .error _ => none
      | .ok e =>
        if level ≤ 1 && e.getLsbD 0 && e.getLsbD 1 then
          some (bits e 18 34 * 2 ^ 18 + (if level = 0 then va / 2 ^ 33 else va / 2 ^ 18) % 2 ^ 15 * 8)
        else none

/-- TABLE_WALK (R305, R307): the leaf of a page that the core's TLB lacks enters it, and the shared TLB of its die
when that lacks it too. An access makes the same walk itself when no such event has come first (log entry 59).
`bad` is an uncorrectable error in the entry that the walk reads at a level. Nothing walks for a core that is being
vaulted. -/
def execTableWalk (unit ctx : Nat) (va : Word) (level : Nat) (bad : Bool) (s : State) : Res :=
  .next (let p := s.issuePart unit ctx
    let a := va.toNat
    let tag := (s.part p).tag
    if isMgmt unit || 2 ^ 56 ≤ a || s.vaulting unit || (s.core unit).tlb.any (·.hit tag a) then s
    else if bad then
      if (s.die (dieOf unit)).tlb.any (·.hit tag a) then s
      else
        match entryAt s p a level with
        | some e => s.modFab fun f => { f with poison := insertNat (e / 16) f.poison }
        | none => s
    else s.fillTlb unit p va)

end Sys2Proof.Machine
end

