-- ==== Sys2Proof/Machine/Vault.lean ====
section
/-!
DEFINITION. Corrected events (R336, R337, R346) and vaults (R347 to R351): CVAULT, ORDER_VAULT, the states of a
vault, and the window of corrected events.
-/
namespace Sys2Proof.Machine

/-! ## Stopping a core -/

/-- The strand on a core is being pre-empted. -/
def saves (s : State) (u : Nat) : Bool :=
  match (s.core u).strand with
  | some h => ((s.strand? h).map fun x => x.saving.isSome).getD false
  | none => false

/-- The context's access has been sent, or it waits for a reply: that completes first (R165, R251). -/
def accessSent (s : State) (u c : Nat) : Bool :=
  let x := s.ctx u c
  x.resident && (x.reply.isSome || x.spawning.isSome || match x.stall with
    | some (.miss line) => s.fab.misses.any fun m => m.unit == u && m.ctx == c && m.line == line
    | some .remote => true
    | _ => false)

/-- Contexts of a core stop at an instruction boundary, but for an access that has been sent: what the others wait
for is looked at again when they go on (R165, R251). -/
def stopContexts (s : State) (u : Nat) : State :=
  (upTo 8).foldl (fun s c =>
    let s := takeBackSpawn s u c
    if accessSent s u c then s.modCtx u c fun x => { x with finishing := true }
    else s.modCtx u c fun x => { x with stall := .none, monitor := .none }) s

/-- Every context of the core has stopped. -/
def contextsStopped (s : State) (u : Nat) : Bool := (s.core u).ctxs.toList.all fun x => !x.finishing

/-! ## Starting a vault -/

/-- The vault engine of a die is free (R347). -/
def vaultFree (s : State) (d : Nat) : Bool := (upTo 8).all fun r => ((s.ring (8 * d + r)).vault).isNone

/-- Record 13: no reserve slot (R347). -/
def vaultRefused (s : State) (core : Nat) : State :=
  s.logErr (s.partOf core) (dieOf core) (s.coreRec core 13 0 0 (BitVec.ofNat 64 (s.slotOf core)) 0 0)

/-- The copy reads or writes the scratchpad of the core. -/
def Copy.touches (c : Copy) (core : Nat) : Bool :=
  (c.srck != 0 && c.score == core) || (c.dstk != 0 && c.dcore == core)

/-- A copy of core `u` waits for a block of the core that a fault has stopped (R134): while the core is vaulted nothing
can end that wait, and the copy lands after it (log entry 60). -/
def behindFault (s : State) (u core : Nat) (p : Copy) : Bool :=
  let q := (s.core u).seq
  u == core && p.ctx == 0 && (q.fault.isSome || q.frozen) && copyBehind s u p

/-- The quiesce point Q (R348): a speculative leg is squashed, contexts stop, the sequencer's requests are taken
back, and the transfers that touch the core's scratchpad and that a retriever has accepted are marked (R350). -/
def quiesce (s : State) (core : Nat) : State :=
  let s := squashAt s core
  let s := s.modFab fun f => { f with misses := f.misses.filter fun m => !(m.unit == core && m.ctx == 8) }
  let mark (u : Nat) (c : Core) : Core :=
    { c with copies := c.copies.map fun p => if p.touches core && !behindFault s u core p then { p with preQ := true } else p }
  let s := { s with cores := FMap.mapVals mark s.cores }
  stopContexts (s.modCore core fun c => { c with seq := { c.seq with answered := [], refused := [] } }) core

/-- Begin the vault of a core to a slot. -/
def beginVault (s : State) (core target : Nat) (by_ : VaultBy) : State :=
  let v : Vault :=
    { core := core, old := s.slotOf core, target := target, st := .quiesce, q := s.time, failed := [], held := [], by_ := by_ }
  quiesce (s.modRing (ringOf core) fun r => { r with vault := some v }) core

/-- A management command is answered; the mailbox raises MSI-X vector 0 (R362, R369). -/
def answer (s : State) (status : Nat) (ws : List Word) : State :=
  (s.modPkg fun p => { p with reply := some ⟨status, ws⟩, command := false }).raiseMsix 0

/-- The result of a vault reaches the party that ordered it. -/
def giveResult (s : State) (core : Nat) (by_ : VaultBy) (res : Word) : State :=
  match by_ with
  | .hardware => s
  | .ctx u c => s.modRing (ringOf core) fun r => { r with vaultResults := r.vaultResults ++ [(u, c, res)] }
  | .mailbox => answer s 0 [res]

/-- The die's engine does not take a vault of the core now: one runs, others wait, or the core's strand is being
pre-empted, which reached the core first (R347, R351). -/
def vaultWaits (s : State) (core : Nat) : Bool :=
  !vaultFree s (dieOf core) || !(s.die (dieOf core)).vaultQ.isEmpty || saves s core

/-- The vault waits its turn. -/
def queueVault (s : State) (q : VaultReq) : State := s.modDie (dieOf q.core) fun x => { x with vaultQ := x.vaultQ ++ [q] }

/-- The slot can be named as a target: a reserve, or 0x1F for any. -/
def targetOk (m : BitVec 128) (slot : Nat) : Bool := slot == 0x1F || remapState m slot == 1

/-- A request at its turn: a start, or the answer 2 or 1. -/
def takeVault (s : State) (q : VaultReq) : State :=
  let m := (s.ring (ringOf q.core)).remap
  if !targetOk m q.slot then giveResult s q.core q.by_ 2
  else
    match reserveSlot m [] with
    | none => giveResult (vaultRefused s q.core) q.core q.by_ 1
    | some k => beginVault s q.core (if q.slot = 0x1F then k else q.slot) q.by_

/-- A hardware vault (R346, mode 00): at once, or when its turn comes. -/
def hardwareVault (s : State) (core : Nat) : State :=
  if vaultWaits s core then queueVault s ⟨core, 0x1F, .hardware⟩ else takeVault s ⟨core, 0x1F, .hardware⟩

/-- Waiting vaults of a die take their turns. -/
def nextVault : Nat → State → Nat → State
  | 0, s, _ => s
  | fuel + 1, s, d =>
    match (s.die d).vaultQ with
    | [] => s
    | q :: rest =>
      if !vaultFree s d || saves s q.core then s
      else nextVault fuel (takeVault (s.modDie d fun x => { x with vaultQ := rest }) q) d

/-! ## Ending a vault -/

/-- Held messages enter the inbound queue in arrival order, transfers go on, and the ring is free
(R348, R350). -/
def releaseVault (s : State) (v : Vault) (res : Word) : State :=
  let s := s.modCore v.core fun c => { c with inq := c.inq ++ v.held }
  let clear (c : Core) : Core :=
    { c with copies := c.copies.map fun (p : Copy) => if p.touches v.core then { p with preQ := false } else p }
  let s := { s with cores := FMap.mapVals (fun _ c => clear c) s.cores }
  let s := s.modRing (ringOf v.core) fun r => { r with vault := .none }
  giveResult s v.core v.by_ res

/-- Change the vault of a ring. -/
def modVault (s : State) (ring : Nat) (f : Vault → Vault) : State :=
  s.modRing ring fun r => { r with vault := r.vault.map f }

/-- VAULT_DRAIN (R348): the die's engine takes up a request that has waited (R347, R351); once every context has stopped the runner's lines are committed; then stores drain,
transfers issued before Q complete, and dirty lines are written back. -/
def execVaultDrain (ring : Nat) (s : State) : Res :=
  .next (if s.pkg.faulted then s
    else
    match (s.ring ring).vault with
    | none => nextVault 16 s (ring / 8)
    | some v =>
      match v.st with
      | .quiesce =>
        if !contextsStopped s v.core then s
        else
        match earlyCommit s v.core with
        | none => s
        | some s => modVault s ring fun v => { v with st := .drain }
      | .drain =>
        let busy := (s.fab.pend.any fun p => p.unit == v.core) || (s.cores.any fun x => x.2.copies.any fun p =>
          p.preQ && p.touches v.core) || (s.core v.core).lines.any fun x => x.st == .M
        if busy then s else modVault s ring fun v => { v with st := .copy }
      | .copy => s
      | .flip => s)

/-- VAULT_COPY (R348, R309): the core's state is on the target, whose leg cache and TLB are empty. -/
def execVaultCopy (ring : Nat) (s : State) : Res :=
  .next (match (s.ring ring).vault with
    | none => s
    | some v =>
      if v.st ≠ .copy || s.pkg.faulted then s
      else (modVault s ring fun v => { v with st := .flip }).modCore v.core fun c => { c with lines := [], tlb := [] })

/-- VAULT_COPY_FAILURE (R348): the target is faulty; the copy restarts on the next reserve slot, or the
vault is refused. -/
def execVaultCopyFailure (ring : Nat) (s : State) : Res :=
  .next (match (s.ring ring).vault with
    | none => s
    | some v =>
      if v.st ≠ .copy || s.pkg.faulted then s
      else
        let s := s.modRing ring fun r => { r with remap := putBits r.remap (80 + 2 * v.target) 2#2 }
        match reserveSlot (s.ring ring).remap v.failed with
        | some k => modVault s ring fun v => { v with failed := v.target :: v.failed, target := k }
        | none => nextVault 16 (vaultRefused (releaseVault s v 1) v.core) (dieOf v.core))

/-- The slots change places: the target takes the core over, and its clock runs (R345, R374, R346). -/
def flipSlots (s : State) (ring : Nat) (v : Vault) : State :=
  let count := s.cycleOf v.core
  let s := s.modPslot (18 * ring + v.old) fun p => { p with cycle := count, ce := 0, ceRaised := false }
  let s := s.modPslot (18 * ring + v.target) fun p => { p with since := s.now }
  s.modRing ring fun r =>
    { r with remap := putBits (putBits (putBits r.remap (5 * (v.core % 16)) (BitVec.ofNat 5 v.target)) (80 + 2 * v.old) 2#2) (80 + 2 * v.target) 0#2 }

/-- A vault that the events of the old slot asked for has nothing left to move (R351). -/
def moved (s : State) (core : Nat) : State :=
  s.modDie (dieOf core) fun d => { d with vaultQ := d.vaultQ.filter fun q => !(q.core == core && q.by_ == .hardware) }

/-- VAULT_FLIP (R348 to R350): in one control cycle the map names the target; then held items are
delivered and the contexts resume. -/
def execVaultFlip (ring : Nat) (s : State) : Res :=
  .next (match (s.ring ring).vault with
    | none => s
    | some v =>
      if v.st ≠ .flip || s.pkg.faulted then s
      else
        let s := releaseVault (flipSlots (moved s v.core) ring v) v 0
        let s := s.logErr (s.partOf v.core) (dieOf v.core)
          (s.coreRec v.core 12 0 0 (BitVec.ofNat 64 v.old) (BitVec.ofNat 64 v.target) (BitVec.ofNat 64 v.q))
        nextVault 16 (s.setEvent (dieOf v.core) 6) (dieOf v.core))

/-! ## Ordering a vault (R332, R347, R369) -/

/-- What becomes of an order to vault a core: an answer at once, or the vault starts or waits its turn. -/
inductive VaultOrder where
  | answer (v : Word) (s : State)
  | accepted (s : State)

/-- Order a vault of the core to a slot, 0x1F for any. -/
def orderVault (s : State) (core slot : Nat) (by_ : VaultBy) : VaultOrder :=
  let m := (s.ring (ringOf core)).remap
  if !targetOk m slot then .answer 2 s
  else if vaultWaits s core then .accepted (queueVault s ⟨core, slot, by_⟩)
  else
    match reserveSlot m [] with
    | none => .answer 1 (vaultRefused s core)
    | some k => .accepted (beginVault s core (if slot = 0x1F then k else slot) by_)

/-- A privileged instruction (R329); `mgmtOnly` is one marked M alone in R330. -/
def privileged (s : State) (mgmtOnly : Bool) (srcs : List Reg) (dst : Option Reg) (body : State → CRes) : State :=
  if dst.any (isOpenInd s) then finish s (.trap trapIllegal)
  else if !s.privileged s.cur.unit s.cur.ctx || (mgmtOnly && !isMgmt s.cur.unit) then finish s (.trap trapPrivilege)
  else control s srcs dst body

/-- CVAULT (R332, R347): it waits for the vault to end. -/
def execCvault (xd xa xb : Reg) (s : State) : Res :=
  .next (privileged s true [xa, xb] (some xd) fun s =>
    let a := (X s xa).toNat
    let b := (X s xb).toNat
    if 1024 ≤ a || 32 ≤ b || (18 ≤ b && b ≤ 30) then .trap trapOperand
    else
      let r := s.ring (ringOf a)
      let mine (x : Nat × Nat × Word) : Bool := x.1 == s.cur.unit && x.2.1 == s.cur.ctx
      match r.vaultResults.find? mine with
      | some x => .done (setX (s.modRing (ringOf a) fun r => { r with vaultResults := listDelFirst mine r.vaultResults }) xd x.2.2)
      | none =>
        let by_ : VaultBy := .ctx s.cur.unit s.cur.ctx
        if (r.vault.map fun v => v.by_) == some by_ || (s.die (dieOf a)).vaultQ.any fun q => q.by_ == by_ then .stall .system s
        else
          match orderVault s a b by_ with
          | .answer v s => .done (setX s xd v)
          | .accepted s => .stall .system s)

/-! ## Corrected events (R337, R346) -/

/-- Number of the window that TIME is in, for a core of the partition; a core of none has one window. -/
def State.ceWindow (s : State) (part : Option Nat) : Nat :=
  match part with
  | some p => s.time / bits (s.part p).cethresh 16 32
  | none => 0

/-- The count of a slot, restarted if its window has ended. -/
def PSlot.inWindow (p : PSlot) (w : Nat) : PSlot :=
  if p.ceWin = w then p else { p with ce := 0, ceRaised := false, ceWin := w }

/-- UNIT of a record (R338). -/
def Checker.code : Checker → Nat
  | .lane => 1
  | .alu => 2
  | .adder => 3
  | .array => 4

def Store.code : Store → Nat
  | .regs => 5
  | .legCache => 6
  | .pad => 7
  | .l2 => 8
  | .rdc => 9
  | .llc => 10
  | .hbm => 11
  | .link => 12

/-- Storage that is a core's own. -/
def Store.ofCore : Store → Bool
  | .regs => true
  | .legCache => true
  | .pad => true
  | .l2 => false
  | .rdc => false
  | .llc => false
  | .hbm => false
  | .link => false

/-- Count a corrected event of the physical core under a context: record kind 1 or 2, and the threshold. -/
def correctedEvent (s : State) (u kind unit pa : Nat) : State :=
  let part := s.partOf u
  let key := s.slotKey u
  let s := s.modPslot key fun p =>
    let p := p.inWindow (s.ceWindow part)
    { p with ce := p.ce + 1 }
  let n := (s.pslot key).ce
  let s := s.logErr part (dieOf u) (s.coreRec u kind unit (BitVec.ofNat 64 pa) (BitVec.ofNat 64 n) 0 0)
  let limit := bits (s.part (part.getD 0)).cethresh 0 16
  if isMgmt u || part.isNone || (s.pslot key).ceRaised || n < limit then s
  else
    let s := s.modPslot key fun p => { p with ceRaised := true }
    let s := (s.logErr part (dieOf u) (s.coreRec u 11 0 0 (BitVec.ofNat 64 n) 0 0)).setEvent (dieOf u) 4
    match (s.part (part.getD 0)).evacMode with
    | 0 => if s.vaulting u then s else hardwareVault s u
    | 2 => ({ s with fresh := s.fresh + 2 }).notify (part.getD 0) (Config.freeWord s.fresh) (Config.freeWord (s.fresh + 1))
    | _ => s

/-- The die that a storage error away from the cores belongs to: the line's home, or the requester's. -/
def Store.die (k : Store) (u pa : Nat) : Nat :=
  match k with
  | .l2 => homeDie pa
  | .llc => homeDie pa
  | .hbm => homeDie pa
  | _ => dieOf u

/-- A corrected storage error (R338, R339): counted against the core when the storage is its own. -/
def correctedStore (s : State) (u : Nat) (k : Store) (pa : Nat) : State :=
  if k.ofCore then correctedEvent s u 2 k.code pa
  else
    s.logErr (s.partOf u) (k.die u pa)
      (errRec (errWord0 2 ((s.partOf u).getD 0) (k.die u pa) 0 0x1F 0x3FF k.code) (BitVec.ofNat 64 s.time) (BitVec.ofNat 64 pa) 0
        (s.originOf u) 0 0)

/-- CORRECTED_EVENT_WINDOW (R346): once TIME has passed a multiple of the window, the counts of the
partition's cores that stand from an earlier window restart. -/
def execCorrectedEventWindow (part : Nat) (s : State) : Res :=
  .next ((s.coresOf part).foldl (fun s u => s.modPslot (s.slotKey u) fun p => p.inWindow (s.ceWindow (some part))) s)

/-- The mailbox takes commands other than 0xC009 only once bring-up is over (R372). -/
def mailboxReady (s : State) : Bool := s.pkg.phase == 6

/-- A command of the mailbox has been taken, and is answered later: the next one waits (R369). -/
def hold (s : State) : State := s.modPkg fun p => { p with reply := none, command := true }

/-- Status Invalid Input and Busy of the mailbox. -/
def invalidInput (s : State) : State := answer s 2 []
def busy (s : State) : State := answer s 3 []

/-- ORDER_VAULT (R369): mailbox command 0xC004. It is answered when the vault ends; while the engine is
taken the command waits. -/
def execOrderVault (core slot : Nat) (s : State) : Res :=
  .next (if !mailboxReady s then busy s
    else if s.pkg.command then s
    else if 1024 ≤ core || 32 ≤ slot || (18 ≤ slot && slot ≤ 30) then invalidInput s
    else
      match orderVault s core slot .mailbox with
      | .answer v s => answer s 0 [v]
      | .accepted s => hold s)

end Sys2Proof.Machine
end

