-- ==== Sys2Proof/Machine/Priv.lean ====
section
/-!
DEFINITION. Privileged instructions and state (R329 to R335, R303, R286, R287, R317, R318): GETP and SETP with the
two register writes that have rows of their own, ERET, TLB invalidation, ELRD, HCALL and WFE.
-/
namespace Sys2Proof.Machine

/-! ## Privileged registers (R333) -/

/-- A privileged state register and its instance. -/
inductive PReg where
  | ringown (ring : Nat)
  | fnmode (p : Nat)
  | qctl (q : Nat)
  | qarea (q : Nat)
  | qlog (q : Nat)
  | wdlimit (q : Nat)
  | wdstat (q : Nat)
  | ptbase (p : Nat)
  | astag (p : Nat)
  | tvec (p : Nat)
  | khead (p : Nat)
  | lease (p : Nat)
  | ckint (p : Nat)
  | cethresh (p : Nat)
  | podpair (p : Nat)
  | grpctl (e : Nat)
  | grplist (e : Nat)
  | fwtvec (die : Nat)
  | fwkhead (die : Nat)
  deriving DecidableEq, Repr

/-- The register of an instance, when the instance is in range. -/
def inRange (n i : Nat) (r : PReg) : Option PReg := if i < n then some r else none

/-- The register that a state number and an instance name (R331, R333). -/
def pregOf (num i : Nat) : Option PReg :=
  match num with
  | 0x100 => inRange 64 i (.ringown i)
  | 0x101 => inRange 16 i (.fnmode i)
  | 0x102 => inRange 64 i (.qctl i)
  | 0x103 => inRange 64 i (.qarea i)
  | 0x104 => inRange 64 i (.qlog i)
  | 0x105 => inRange 64 i (.wdlimit i)
  | 0x106 => inRange 64 i (.wdstat i)
  | 0x108 => inRange 16 i (.ptbase i)
  | 0x109 => inRange 16 i (.astag i)
  | 0x10A => inRange 16 i (.tvec i)
  | 0x10B => inRange 16 i (.khead i)
  | 0x10C => inRange 16 i (.lease i)
  | 0x10D => inRange 16 i (.ckint i)
  | 0x10E => inRange 16 i (.cethresh i)
  | 0x10F => inRange 16 i (.podpair i)
  | 0x110 => inRange 1024 i (.grpctl i)
  | 0x111 => inRange 1024 i (.grplist i)
  | 0x112 => inRange 8 i (.fwtvec i)
  | 0x113 => inRange 8 i (.fwkhead i)
  | _ => none

/-- The partition to which the instance belongs (R329): none for a die's register, or a free ring. -/
def PReg.part (s : State) : PReg → Option Nat
  | .ringown r => s.ringPart r
  | .fnmode p => some p
  | .qctl q => some (q / 4)
  | .qarea q => some (q / 4)
  | .qlog q => some (q / 4)
  | .wdlimit q => some (q / 4)
  | .wdstat q => some (q / 4)
  | .ptbase p => some p
  | .astag p => some p
  | .tvec p => some p
  | .khead p => some p
  | .lease p => some p
  | .ckint p => some p
  | .cethresh p => some p
  | .podpair p => some p
  | .grpctl e => some (e / 64)
  | .grplist e => some (e / 64)
  | .fwtvec _ => none
  | .fwkhead _ => none

/-- SETP is allowed on a compute core (R333). -/
def PReg.setC : PReg → Bool
  | .qctl _ => true
  | .qarea _ => true
  | .qlog _ => true
  | .wdlimit _ => true
  | .ckint _ => true
  | .grpctl _ => true
  | .grplist _ => true
  | .wdstat _ => true
  | _ => false

/-- WDSTAT (R286, R298). -/
def wdstatWord (s : State) (q : Nat) : Word :=
  let k := s.queue q
  match k.wd with
  | .idle => 0
  | .armed => 1#2 ++ 0#22 ++ BitVec.ofNat 40 (s.time - k.wdBase)
  | .expired => 2#2 ++ 0#22 ++ BitVec.ofNat 40 k.wdCount

/-- The value of a privileged register. -/
def readPriv (s : State) : PReg → Word
  | .ringown r => (s.ring r).own
  | .fnmode p => (s.part p).fnmode
  | .qctl q => (s.queue q).qctl
  | .qarea q => (s.queue q).qarea
  | .qlog q => (s.queue q).qlog
  | .wdlimit q => (s.queue q).wdlimit
  | .wdstat q => wdstatWord s q
  | .ptbase p => (s.part p).ptbase
  | .astag p => (s.part p).astag
  | .tvec p => (s.part p).tvec
  | .khead p => (s.part p).khead
  | .lease p => (s.part p).lease
  | .ckint p => (s.part p).ckint
  | .cethresh p => (s.part p).cethresh
  | .podpair p => (s.part p).podpair
  | .grpctl e => (s.part (e / 64)).grpctl.get 0 (e % 64)
  | .grplist e => (s.part (e / 64)).grplist.get 0 (e % 64)
  | .fwtvec d => (s.die d).fwtvec
  | .fwkhead d => (s.die d).fwkhead

/-! ## Writes -/

/-- Another partition that owns a ring holds the tag (R287, R303). -/
def tagTaken (s : State) (p : Nat) (tag : BitVec 12) : Bool :=
  (upTo 16).any fun q => q != p && s.ownsRing q && (s.part q).tag == tag

/-- The ring holds a resident context, a placed strand or a queued message, also one that a vault holds at its
ingress (R287, R348). -/
def ringBusy (s : State) (r : Nat) : Bool :=
  (match (s.ring r).vault with
    | some v => !v.held.isEmpty
    | none => false) ||
  (upTo 16).any fun i =>
    let c := s.core (16 * r + i)
    c.strand.isSome || !c.inq.isEmpty || (upTo 8).any fun k => (c.ctx k).resident || !(c.ctx k).sendq.isEmpty

/-- A value of RINGOWN that may be written now (R287). -/
def ringownOk (s : State) (r : Nat) (v : Word) : Bool :=
  zeroBits v 5 59 &&
    (v == (s.ring r).own || (!((s.ring r).own.getLsbD 4 && ringBusy s r) &&
      (!v.getLsbD 4 || !tagTaken s (bits v 0 4) (s.part (bits v 0 4)).tag)))

/-- A value of FNMODE: no field 11, and PFAULT not 00 (R286, R297). -/
def fnmodeOk (v : Word) : Bool := zeroBits v 12 52 && ((upTo 6).all fun i => bits v (2 * i) 2 != 3) && bits v 2 2 != 0

/-- The value sets no reserved bit and writes no reserved encoding of the register, and its write is not
refused (R7, R286, R287, R303, R317, R334, R335). -/
def privOk (s : State) (r : PReg) (v : Word) : Bool :=
  match r with
  | .ringown r => ringownOk s r v
  | .fnmode _ => fnmodeOk v
  | .qctl _ => zeroBits v 59 4 && zeroBits v 5 2 && decide (4 ≤ bits v 0 5) && decide (bits v 0 5 ≤ 16)
  | .qarea _ => zeroBits v 56 8 && zeroBits v 0 7
  | .qlog _ => zeroBits v 56 8 && zeroBits v 0 3
  | .wdlimit _ => zeroBits v 40 24 && decide (2 ^ 16 ≤ v.toNat)
  | .wdstat _ => false
  | .ptbase _ => zeroBits v 52 12 && zeroBits v 1 10
  | .astag p => zeroBits v 12 52 && !tagTaken s p (v.setWidth 12)
  | .tvec _ => zeroBits v 56 8 && zeroBits v 1 1
  | .khead _ => zeroBits v 56 8 && zeroBits v 0 21
  | .lease _ => decide (256 ≤ v.toNat) && decide (v.toNat ≤ 65536)
  | .ckint _ => zeroBits v 40 24 && decide (2 ^ 16 ≤ v.toNat)
  | .cethresh _ => zeroBits v 48 16 && decide (2 ^ 10 ≤ bits v 16 32) && decide (1 ≤ bits v 0 16)
  | .podpair p =>
    zeroBits v 4 59 && (!v.getLsbD 63 || (upTo 16).all fun q =>
      q == p || !(s.part q).podpair.getLsbD 63 || bits (s.part q).podpair 0 4 != bits v 0 4)
  | .grpctl _ => zeroBits v 10 52
  | .grplist _ => zeroBits v 56 8 && zeroBits v 0 6
  | .fwtvec _ => zeroBits v 56 8 && zeroBits v 1 1
  | .fwkhead _ => zeroBits v 56 8 && zeroBits v 0 21

/-- The state with a privileged register written. -/
def writePriv (s : State) (r : PReg) (v : Word) : State :=
  match r with
  | .ringown r => s.modRing r fun x => { x with own := v }
  | .fnmode p => s.modPart p fun x => { x with fnmode := v }
  | .qctl q => s.modQueue q fun x => { x with qctl := v }
  | .qarea q => s.modQueue q fun x => { x with qarea := v }
  | .qlog q => s.modQueue q fun x => { x with qlog := v }
  | .wdlimit q => s.modQueue q fun x => { x with wdlimit := v }
  | .wdstat _ => s
  | .ptbase p => s.modPart p fun x => { x with ptbase := v }
  | .astag p => s.modPart p fun x => { x with astag := v }
  | .tvec p => s.modPart p fun x => { x with tvec := v }
  | .khead p => s.modPart p fun x => { x with khead := v }
  | .lease p => s.modPart p fun x => { x with lease := v }
  | .ckint p => s.modPart p fun x => { x with ckint := v }
  | .cethresh p => s.modPart p fun x => { x with cethresh := v }
  | .podpair p => s.modPart p fun x => { x with podpair := v }
  | .grpctl e => s.modPart (e / 64) fun x => { x with grpctl := x.grpctl.set (e % 64) v }
  | .grplist e => s.modPart (e / 64) fun x => { x with grplist := x.grplist.set (e % 64) v }
  | .fwtvec d => s.modDie d fun x => { x with fwtvec := v }
  | .fwkhead d => s.modDie d fun x => { x with fwkhead := v }

/-- A write that is refused changes nothing. -/
def tryWrite (s : State) (r : PReg) (v : Word) : State := if privOk s r v then writePriv s r v else s

/-- RINGOWN_WRITE (R287): a write of RINGOWN reaches the register; refused, it changes nothing. -/
def execRingownWrite (ring : Nat) (value : Word) (s : State) : Res :=
  .next (if ring < 64 then tryWrite s (.ringown ring) value else s)

/-- ASTAG_WRITE (R303). -/
def execAstagWrite (part : Nat) (value : Word) (s : State) : Res :=
  .next (if part < 16 then tryWrite s (.astag part) value else s)

/-! ## Writes in one control cycle (R332) -/

/-- State number and instance of a register (R333). -/
def PReg.number : PReg → Nat × Nat
  | .ringown r => (0x100, r)
  | .fnmode p => (0x101, p)
  | .qctl q => (0x102, q)
  | .qarea q => (0x103, q)
  | .qlog q => (0x104, q)
  | .wdlimit q => (0x105, q)
  | .wdstat q => (0x106, q)
  | .ptbase p => (0x108, p)
  | .astag p => (0x109, p)
  | .tvec p => (0x10A, p)
  | .khead p => (0x10B, p)
  | .lease p => (0x10C, p)
  | .ckint p => (0x10D, p)
  | .cethresh p => (0x10E, p)
  | .podpair p => (0x10F, p)
  | .grpctl e => (0x110, e)
  | .grplist e => (0x111, e)
  | .fwtvec d => (0x112, d)
  | .fwkhead d => (0x113, d)

/-- The note of a write of the register in this control cycle. -/
def setNote (s : State) (r : PReg) : Option SetNote :=
  s.pkg.setps.find? fun n => (n.num, n.inst) == r.number && n.at_ == s.now

/-- The value that a GETP reads: in a control cycle in which the register is written, the one from before. -/
def getPriv (s : State) (r : PReg) : Word :=
  match setNote s r with
  | some n => n.old
  | none => readPriv s r

/-- A write by the party at place `key` of R332: of several in one control cycle the last in that order remains. -/
def setPriv (s : State) (r : PReg) (v : Word) (key : Nat) : State :=
  match setNote s r with
  | some n =>
    if key < n.key then s
    else (writePriv s r v).modPkg fun p => { p with setps := p.setps.map fun m => if m = n then { m with key := key } else m }
  | none =>
    let note : SetNote := ⟨r.number.1, r.number.2, s.now, readPriv s r, key⟩
    (writePriv s r v).modPkg fun p => { p with setps := note :: p.setps.filter fun m => m.at_ == s.now }

/-- A mailbox write comes after every SETP of its control cycle (R369). -/
def hostKey : Nat := 2 ^ 32

/-! ## GETP and SETP -/

/-- The register a selector names, with the checks of R329 and R331; `set` is a SETP. -/
def selectPriv (s : State) (sel : Word) (set : Bool) (body : PReg → CRes) : CRes :=
  match pregOf (bits sel 0 12) (bits sel 16 12) with
  | none => .trap trapOperand
  | some r =>
    if !isMgmt s.cur.unit && (r.part s != s.partOf s.cur.unit || (r.part s).isNone || (set && !r.setC)) then .trap trapPrivilege
    else if zeroBits sel 28 36 && zeroBits sel 12 4 then body r
    else .trap trapOperand

/-- GETP (R331, R332). -/
def execGetp (xd xa : Reg) (s : State) : Res :=
  .next (privileged s false [xa] (some xd) fun s => selectPriv s (X s xa) false fun r => .done (setX s xd (getPriv s r)))

/-- SETP (R332): it waits for the context's earlier stores. -/
def execSetp (xa xb : Reg) (s : State) : Res :=
  .next (privileged s false [xa, xb] none fun s => selectPriv s (X s xa) true fun r =>
    if !privOk s r (X s xb) then .trap trapOperand
    else if !orderedAt s 3 then .stall .order s
    else .done (setPriv s r (X s xb) (spawnKey s.cur.unit s.cur.ctx)))

/-! ## ERET (R322) -/

/-- ERET: illegal outside trap mode. -/
def execEret (s : State) : Res :=
  .next (if s.me.trap = .none then finish s (.trap trapIllegal)
    else privileged s false [] none fun s =>
      let u := s.cur.unit
      let c := s.cur.ctx
      match eretFrom s u c with
      | .error t => .trap t
      | .ok s' => .final (retire s' u c))

/-! ## TLB invalidation (R312) -/

/-- An access by a tag and an address was translated for this tag and address: it lies in the largest page that can
hold both, or any address is meant. -/
def samePage (tag : BitVec 12) (va : Option Word) (t : BitVec 12) (a : Word) : Bool :=
  t == tag && match va with
    | some b => a.toNat / 2 ^ 33 == b.toNat / 2 ^ 33
    | none => true

/-- A leg has stored to the line through the tag and address, and has not committed. -/
def Line.wroteBy (x : Line) (tag : BitVec 12) (va : Option Word) : Bool :=
  x.st == .L && x.dirty != 0 && x.through.any fun y => samePage tag va y.1 y.2

/-- A pending store was translated for the tag and address. -/
def PStore.through (p : PStore) (tag : BitVec 12) (va : Option Word) : Bool :=
  !isMgmt p.unit && samePage tag va p.tag p.va

/-- A store that was translated by the removed entries is still on its way (R312, item 4): it is pending, or a
leg that has not committed holds it. -/
def oldAccess (s : State) (tag : BitVec 12) (va : Option Word) : Bool :=
  (s.fab.pend.any fun p => p.through tag va) || s.cores.any fun (_, c) => c.lines.any fun x => x.wroteBy tag va

/-- Speculative legs that hold such a store are squashed, so that it is never performed. -/
def squashOld (s : State) (tag : BitVec 12) (va : Option Word) : State :=
  (s.cores.filter fun (u, c) => s.speculative u 0 && c.lines.any fun x => x.wroteBy tag va).foldl (fun s x => squashAt s x.1) s

/-- Take entries out of every TLB of the package. -/
def dropTlb (s : State) (p : TlbEntry → Bool) : State :=
  { s with
    cores := FMap.mapVals (fun _ (c : Core) => { c with tlb := c.tlb.filter fun t => !p t }) s.cores
    dies := FMap.mapVals (fun _ (d : Die) => { d with tlb := d.tlb.filter fun t => !p t }) s.dies }

/-- The entries that a TLBINV of the tag and address, or a TLBINVA, removes. -/
def removes (tag : BitVec 12) (va : Option Word) (t : TlbEntry) : Bool :=
  t.tag == tag && match va with
    | some a => t.vpage == a.toNat / 2 ^ t.size
    | none => true

/-- TLBINV and TLBINVA: it completes once no access through a removed entry is outstanding. -/
def invalidate (s : State) (tag : Word) (va : Option Word) : CRes :=
  if !zeroBits tag 12 52 then .trap trapOperand
  else if !orderedAt s 3 then .stall .order s
  else
    let s := squashOld s (tag.setWidth 12) va
    if oldAccess s (tag.setWidth 12) va then .stall .order s else .done (dropTlb s (removes (tag.setWidth 12) va))

/-- TLBINV. -/
def execTlbinv (xa xb : Reg) (s : State) : Res :=
  .next (privileged s false [xa, xb] none fun s => invalidate s (X s xa) (some (X s xb)))

/-- TLBINVA. -/
def execTlbinva (xa : Reg) (s : State) : Res :=
  .next (privileged s false [xa] none fun s => invalidate s (X s xa) none)

/-! ## ELRD, HCALL and WFE (R332) -/

/-- The log that ELRD reads: the die's on a management core, the partition's on a compute core. -/
def logOf (s : State) : ErrLog :=
  if isMgmt s.cur.unit then (s.die (dieOf s.cur.unit)).log else (s.part ((s.partOf s.cur.unit).getD 0)).log

/-- Remove its oldest record. -/
def popLog (s : State) : State :=
  if isMgmt s.cur.unit then s.modDie (dieOf s.cur.unit) fun d => { d with log := { d.log with recs := d.log.recs.drop 1 } }
  else s.modPart ((s.partOf s.cur.unit).getD 0) fun p => { p with log := { p.log with recs := p.log.recs.drop 1 } }

/-- ELRD and ELRD.pop: an empty log reads as 0. -/
def readLog (pop : Bool) (xd xa : Reg) (s : State) : State :=
  privileged s false [xa] (some xd) fun s =>
    if !zeroBits (X s xa) 3 61 then .trap trapOperand
    else
      let v := match (logOf s).recs with
        | [] => 0
        | r :: _ => vget r 0 (X s xa).toNat
      .done (setX (if pop then popLog s else s) xd v)

/-- ELRD. -/
def execElrd (xd xa : Reg) (s : State) : Res := .next (readLog false xd xa s)
/-- ELRD.pop. -/
def execElrdPop (xd xa : Reg) (s : State) : Res := .next (readLog true xd xa s)

/-- HCALL (R332, R370). -/
def execHcall (xd xa xb : Reg) (s : State) : Res :=
  .next (privileged s false [xa, xb] (some xd) fun s =>
    if s.outFull then .stall .mailbox s
    else .done (setX (s.pushOut (X s xa) (X s xb)) xd s.pkg.outSeq))

/-- WFE (R332). -/
def execWfe (xd : Reg) (s : State) : Res :=
  .next (privileged s true [] (some xd) fun s =>
    let d := dieOf s.cur.unit
    let e := (s.die d).events
    if e = 0 then .stall .event s else .done (setX (s.modDie d fun x => { x with events := 0 }) xd (e.setWidth 64)))

end Sys2Proof.Machine
end

