-- ==== Sys2Proof/Machine/Partition.lean ====
section
/-!
DEFINITION. Recovery of a partition (R298 to R301): QDRAIN, PARTRST, the watchdogs, the drain and the reset,
and the mailbox commands that order them (R369).
-/
namespace Sys2Proof.Machine

/-! ## Watchdog events (R297 to R300) -/

/-- Die whose firmware hears of an event of a partition: that of its lowest ring. -/
def State.partDie (s : State) (p : Nat) : Nat := ((s.ringsOf p).headD 0) / 8

/-- The watchdog event of a partition (R300). The host hears of a partition event through MSI-X vector 2
(R362); in mode 10 a notification enters the outbound queue (R370). -/
def watchdogEvent (s : State) (p : Nat) : State :=
  match (s.part p).recov with
  | .run =>
    let s := s.raiseMsix 2
    match (s.part p).wdogMode with
    | 0 => s.setRecovery p .drain
    | 2 => (({ s with fresh := s.fresh + 2 }).notify p (Config.freeWord s.fresh) (Config.freeWord (s.fresh + 1))).setRecovery p (.wait s.time)
    | _ => (s.setEvent (s.partDie p) 0).setRecovery p (.wait s.time)
  | .wait _ => s
  | .drain => s
  | .drained => s

/-- WATCHDOG_EXPIRY (R298). -/
def execWatchdogExpiry (part queue : Nat) (s : State) : Res :=
  .next (let q := s.queue (4 * part + queue)
    if queue > 3 || q.wd ≠ .armed || s.time - q.wdBase < q.wdlimit.toNat then s
    else watchdogEvent (s.modQueue (4 * part + queue) fun k => { k with wd := .expired, wdCount := s.time - q.wdBase }) part)

/-- HANDLER_STALL_EXPIRY (R299): the count of a handler context reaches the limit of queue 0. -/
def execHandlerStallExpiry (unit ctx : Nat) (s : State) : Res :=
  .next (match s.partOf unit with
    | none => s
    | some p =>
      let x := s.ctx unit ctx
      let q := s.queue (4 * p)
      if ctx = 0 || !x.resident || q.wd = .expired || s.time - x.lastRetire < q.wdlimit.toNat then s
      else watchdogEvent (s.modQueue (4 * p) fun k => { k with wd := .expired, wdCount := (wdstatWord s (4 * p)).toNat % 2 ^ 40 }) p)

/-- RECOVERY_WAIT_TIMEOUT (R300). -/
def execRecoveryWaitTimeout (part : Nat) (s : State) : Res :=
  .next (match (s.part part).recov with
    | .wait since => if since + 2 ^ 24 ≤ s.time then s.setRecovery part .drain else s
    | .run => s
    | .drain => s
    | .drained => s)

/-! ## DRAIN (R301) -/

/-- Where transfers of the partition's pre-empted strands stand. -/
def parkedOf (s : State) (p : Nat) : List Nat := (s.cores.filter fun x => decide (2048 ≤ x.1) && s.issuePart x.1 0 == p).map (·.1)

/-- The copy belongs to the speculative leg on the core, with which it is squashed (R54, R301, step 2). -/
def squashed (s : State) (u : Nat) (c : Copy) : Bool :=
  s.speculative u 0 && c.ctx == 0 && c.leg == (s.core u).leg.map (·.k)

/-- Every copy and RCOPY of the partition has completed, its stores are performed, its dirty lines are written back,
and no vault runs on its rings (steps 2 and 3, R351). -/
def drainReady (s : State) (p : Nat) : Bool :=
  (s.ringsOf p).all (fun r => ((s.ring r).vault).isNone) &&
    (parkedOf s p).all (fun u => (s.ctx u 0).rcopies.isEmpty) &&
    (s.coresOf p).all fun u =>
      let c := s.core u
      c.copies.all (squashed s u) && c.lines.all (fun x => x.st != .M) && ((upTo 8).all fun i => (c.ctx i).rcopies.isEmpty) && !s.fab.pend.any fun e => e.unit == u

/-- Contexts stop (step 2): speculative legs are squashed, and a runner's uncommitted lines are dropped. -/
def stopCore (s : State) (u : Nat) : State :=
  (squashAt s u).modCore u fun c =>
    { c with
      lines := c.lines.filter fun x => x.st != .L
      ctxs := c.ctxs.map fun x => { x with colls := [], monitor := none } }

/-- The nodes of a partition: die, index and node. What has not had its turn at the order point is no task yet: its
TSPAWN stalls until RUN, and its image is picked up again (R301). -/
def partNodes (s : State) (p : Nat) : List (Nat × Nat × Node) :=
  s.dies.flatMap fun (d, x) => x.nodes.filterMap fun (k, n) => if n.part = p && n.st != .spawned then some (d, k, n) else none

/-- TSPAWNs of the partition that have not had their turn at the order point stall until RUN (R301, step 1). -/
def takeBackSpawns (s : State) (p : Nat) : State :=
  let waits (x : Ctx) : Bool := x.spawning.any fun h => s.spawnWaits h && match (s.die (bits h 13 3)).nodes.find? (bits h 0 13) with
    | some n => n.part == p
    | none => false
  { s with cores := FMap.mapVals (fun _ (c : Core) =>
    if c.ctxs.toList.any waits then { c with ctxs := c.ctxs.map fun x => if waits x then { x with spawning := none } else x } else c) s.cores }

/-- Write a doubleword, or say at which address the write is held back. -/
def putWord (s : State) (p : Nat) (va v : Word) : Except Word State :=
  match devicePut s p va v with
  | none => .error va
  | some s => .ok s

/-- Write doublewords one after another. -/
def putWords (s : State) (p : Nat) (va : Word) : List Word → Except Word State
  | [] => .ok s
  | w :: ws =>
    match putWord s p va w with
    | .error va => .error va
    | .ok s => putWords s p (va + 8) ws

/-- The distinct ORIGINs of nodes, ascending (step 5). -/
def drainOrigins (nodes : List (Nat × Nat × Node)) : List Word :=
  ((nodes.foldl (fun l x => insertNat x.2.2.origin.toNat l) []).take 65536).map (BitVec.ofNat 64)

/-- The drain log and status line of one queue (step 5), or the address of a write that is held back. -/
def logQueue (s : State) (p q : Nat) (nodes : List (Nat × Nat × Node)) : Except Word State :=
  let mine := nodes.filter fun x => x.2.2.queue == some q
  let k := s.queue (4 * p + q)
  if !k.qctl.getLsbD 63 && mine.isEmpty then .ok s
  else
    let origins := drainOrigins mine
    if deviceLater s p (k.header + 80) then .error (k.header + 80)
    else
    match putWords s p (k.qlog &&& 0x00FF_FFFF_FFFF_FFF8#64) origins with
    | .error va => .error va
    | .ok s =>
      match putWord s p (k.header + 88) (BitVec.ofNat 64 origins.length) with
      | .error va => .error va
      | .ok s => putWord s p (k.header + 80) (deviceGet s p (k.header + 80) + 1)

/-- The drain logs of every queue, ascending. -/
def logQueues (s : State) (p : Nat) (nodes : List (Nat × Nat × Node)) : Except Word State :=
  (upTo 4).foldl (fun s q =>
    match s with
    | .error va => .error va
    | .ok s => logQueue s p q nodes) (.ok s)

/-- Discard the nodes of the partition, and links to them (step 4). -/
def discardNodes (s : State) (p : Nat) : State :=
  let parked := parkedOf s p
  let s := takeBackSpawns s p
  { s with
    cores := s.cores.filter fun x => !parked.contains x.1
    dies := FMap.mapVals (fun _ (d : Die) => { d with nodes := d.nodes.filter fun x => x.2.part != p }) s.dies }

/-! ## The reset (R301) -/

/-- A core after the reset of its partition: the numbers of its remote operations go on, so that a late
answer names nothing new. -/
def resetCore (c : Core) : Core :=
  { Core.reset with
    ctxs := c.ctxs.map fun x => { ropNo := x.ropNo, lastIssue := x.lastIssue }
    checks := c.checks }

/-- The watchdog after the reset (R298). -/
def resetWatchdog (q : Queue) : Queue := { q with wd := .idle, wdBase := 0, wdCount := 0 }

/-- Reset the partition and re-enable placement. -/
def resetPart (s : State) (p : Nat) : State :=
  let s := (s.coresOf p).foldl (fun s u => s.modCore u resetCore) s
  let s := (s.ringsOf p).foldl (fun s r => s.modRing r fun x => { x with sites := [] }) s
  let s := (upTo 4).foldl (fun s q => s.modQueue (4 * p + q) resetWatchdog) s
  let s := { s with strands := s.strands.filter fun x => x.2.part != p }
  let s := s.modFab fun f => { f with misses := f.misses.filter fun m => s.partOf m.unit != some p }
  let tell := (s.part p).tellReset
  let s := s.modPart p fun x => { x with recov := .run, resetAsked := false, tellReset := false }
  if tell then answer s 0 [] else s

/-- PARTITION_DRAIN (R301): the steps of DRAIN; the reset follows at once when what caused the
drain was raised in WDOG mode 00 (R297), or when PARTRST has been asked for (R300). -/
def execPartitionDrain (part : Nat) (s : State) : Res :=
  .next (if (s.part part).recov ≠ .drain || !drainReady s part then s
    else
      let nodes := partNodes s part
      let s1 := discardNodes ((s.coresOf part).foldl stopCore s) part
      match logQueues s1 part nodes with
      | .error va => dutyWait s part va
      | .ok s =>
        let tell := (s.part part).tellDrain
        let s := s.modPart part fun x => { x with recov := .drained, tellDrain := false }
        let s := if tell then answer s 0 [] else s
        if (s.part part).drainMode = 0 || (s.part part).resetAsked then resetPart s part else s)

/-! ## QDRAIN and PARTRST (R300, R330) -/

/-- The partition that an operand names, or the trap: one that owns a ring (R330). -/
def partOperand (s : State) (v : Word) (body : Nat → CRes) : CRes :=
  if !zeroBits v 4 60 || !s.ownsRing v.toNat then .trap trapOperand else body v.toNat

/-- The context has already ordered what it waits for. -/
def waiting (s : State) : Bool := s.me.stall == some .system

/-- Enter DRAIN from RUN or WAIT. -/
def startDrain (s : State) (p : Nat) : State :=
  match (s.part p).recov with
  | .run => s.setRecovery p .drain
  | .wait _ => s.setRecovery p .drain
  | .drain => s
  | .drained => s

/-- The partition is in DRAIN and its steps have not ended. -/
def draining (s : State) (p : Nat) : Bool := (s.part p).recov == .drain

/-- QDRAIN: it completes when the drain log and the status line are written. -/
def execQdrain (xa : Reg) (s : State) : Res :=
  .next (privileged s true [xa] none fun s => partOperand s (X s xa) fun p =>
    if (s.part p).recov == .drained || (waiting s && !draining s p) then .done s
    else .stall .system (startDrain s p))

/-- Ask for the reset: DRAIN comes first unless it has ended (R300). -/
def startReset (s : State) (p : Nat) : State :=
  if (s.part p).recov = .drained then resetPart s p
  else (startDrain s p).modPart p fun x => { x with resetAsked := true }

/-- PARTRST: it completes when the partition is back in RUN. -/
def execPartrst (xa : Reg) (s : State) : Res :=
  .next (privileged s true [xa] none fun s => partOperand s (X s xa) fun p =>
    if (s.part p).recov = .drained then .done (resetPart s p)
    else if waiting s && (s.part p).recov == .run then .done s
    else .stall .system (if waiting s then s else startReset s p))

/-- A mailbox command on a partition that owns a ring, once bring-up is over and the command before it has been
answered (R369, R372). -/
def partCommand (s : State) (p : Nat) (body : State) : State :=
  if !mailboxReady s then busy s else if s.pkg.command then s else if 16 ≤ p || !s.ownsRing p then invalidInput s else body

/-- DRAIN_PARTITION (R369): as QDRAIN; answered when the drain has ended. -/
def execDrainPartition (part : Nat) (s : State) : Res :=
  .next (partCommand s part (if (s.part part).recov = .drained then answer s 0 []
    else hold ((startDrain s part).modPart part fun x => { x with tellDrain := true })))

/-- RESET_PARTITION (R369): as PARTRST; answered when the partition is back in RUN. -/
def execResetPartition (part : Nat) (s : State) : Res :=
  .next (partCommand s part (startReset (hold (s.modPart part fun x => { x with tellReset := true })) part))

end Sys2Proof.Machine
end

