-- ==== Sys2Proof/Machine/Checkpoint.lean ====
section
/-!
DEFINITION. Background checkpoints (R352 to R354): CKSYNC, the timer, the host's request, and the pass.
-/
namespace Sys2Proof.Machine

/-- Virtual address of a partition's checkpoint descriptor. -/
def State.descVa (s : State) (p : Nat) : Word := (s.part p).khead + 0x200000

/-- A checkpoint descriptor: where its image goes, and its ranges as base and length. -/
structure Descriptor where
  count : Nat
  dest : Nat
  ranges : List (Nat × Nat)

/-- The descriptor as memory holds it. -/
def readDescriptor (s : State) (p : Nat) : Descriptor :=
  let va := s.descVa p
  let w (o : Nat) : Nat := (deviceGet s p (va + BitVec.ofNat 64 o)).toNat
  let n := w 8
  { count := n, dest := w 16, ranges := (upTo (min n 16)).map fun r => (w (32 + 16 * r), w (40 + 16 * r)) }

/-- A read of the descriptor waits for the host. -/
def descriptorLater (s : State) (p : Nat) : Bool :=
  (upTo 36).any fun i => deviceLater s p (s.descVa p + BitVec.ofNat 64 (8 * i))

/-- Bytes of all ranges. -/
def Descriptor.total (d : Descriptor) : Nat := (d.ranges.map (·.2)).sum

/-- The checks of R353. -/
def Descriptor.ok (d : Descriptor) : Bool :=
  decide (1 ≤ d.count) && decide (d.count ≤ 16) && d.dest % 4096 == 0 &&
    d.ranges.all fun r => r.1 % 4096 == 0 && r.2 % 4096 == 0 && decide (r.1 + r.2 ≤ 2 ^ 56) &&
      (decide (d.dest + d.total ≤ r.1) || decide (r.1 + r.2 ≤ d.dest) || r.2 == 0 || d.total == 0)

/-- Start a pass: STATE.RUNNING is set, and nothing else of STATE changes. `none` while that write is held back. -/
def startPass (s : State) (p : Nat) (d : Descriptor) : Option State :=
  let number : BitVec 32 := (deviceGet s p (s.descVa p)).extractLsb' 32 32
  (devicePut s p (s.descVa p) (deviceGet s p (s.descVa p) ||| 1)).map fun s =>
    s.modPart p fun x =>
      { x with passAsked := false, pass := some { number := number, dest := d.dest, next := 0, copied := 0, ranges := d.ranges, desc := (s.descVa p).toNat, paused := false } }

/-- CKSYNC (R332, R353): a pass that runs ends first. It starts one in every CKPT mode: neither R332 nor R353 names a
mode (DEDUCED, log entry 61). -/
def execCksync (xa : Reg) (s : State) : Res :=
  .next (privileged s false [xa] none fun s =>
    let p := (X s xa).toNat
    if !isMgmt s.cur.unit && zeroBits (X s xa) 4 60 && s.partOf s.cur.unit != some p then .trap trapPrivilege
    else partOperand s (X s xa) fun p =>
      if !orderedAt s 3 then .stall .order s
      else if (s.part p).pass.isSome then .stall .system s
      else if descriptorLater s p then .stall .order s
      else
        let d := readDescriptor s p
        if !d.ok then .trap trapOperand
        else
          match startPass s p d with
          | none => .stall .order (dutyWait s p (s.descVa p))
          | some s => .done s)

/-- The record of kind 14 of a partition (R339). -/
def passRecord (s : State) (p : Nat) (w3 w5 : Word) : State :=
  s.logErr (some p) (s.partDie p) (errRec (errWord0 14 p (s.partDie p) 0 0x1F 0x3FF 0) (BitVec.ofNat 64 s.time) 0 w3 0 w5 0)

/-- CHECKPOINT_TIMER (R297, R353), CKPT mode 00: a pass starts every CKINTERVAL ticks. A start that fails
the checks writes a record. -/
def execCheckpointTimer (part : Nat) (s : State) : Res :=
  .next (let x := s.part part
    if 16 ≤ part || x.ckptMode ≠ 0 || !s.ownsRing part || x.pass.isSome || s.time < x.lastPass + x.ckint.toNat || descriptorLater s part then s
    else
      let d := readDescriptor s part
      if !d.ok then (passRecord s part (BitVec.allOnes 64) 0).modPart part fun x => { x with lastPass := s.time }
      else
        match startPass s part d with
        | none => dutyWait s part (s.descVa part)
        | some s' => s'.modPart part fun x => { x with lastPass := s.time })

/-- The host's pass starts, or fails its checks. -/
def hostPass (s : State) (part : Nat) : State :=
  if descriptorLater s part then hold (s.modPart part fun x => { x with passAsked := true })
  else
    let d := readDescriptor s part
    if !d.ok then invalidInput (s.modPart part fun x => { x with passAsked := false })
    else
      match startPass s part d with
      | none => dutyWait (hold (s.modPart part fun x => { x with passAsked := true })) part (s.descVa part)
      | some s => answer s 0 []

/-- REQUEST_CHECKPOINT_PASS (R369): mailbox command 0xC008, as CKSYNC, in every CKPT mode (DEDUCED, log entry 61). It
waits for a pass that runs. -/
def execRequestCheckpointPass (part : Nat) (s : State) : Res :=
  .next (partCommand s part (if (s.part part).pass.isSome then hold (s.modPart part fun x => { x with passAsked := true })
    else hostPass s part))

/-- The granule that a pass examines next, as virtual source and destination. -/
def Pass.granule (ps : Pass) : Option (Nat × Nat) :=
  let rec go (l : List (Nat × Nat)) (k : Nat) : Option Nat :=
    match l with
    | [] => none
    | (b, n) :: rest => if k < n / 4096 then some (b + 4096 * k) else go rest (k - n / 4096)
  (go ps.ranges ps.next).map fun g => (g, ps.dest + 4096 * ps.next)

/-- Every copy of the granule's lines leaves the leg caches (R353, recall). -/
def recallGranule (s : State) (pa : Nat) : State :=
  { s with cores := FMap.mapVals (fun _ (c : Core) =>
    { c with lines := c.lines.filter fun x => !(x.line / 64 == pa / 4096 && x.st != .L) }) s.cores }

/-- A pass meets a fault: the PFAULT duty serves it (R297, R353). -/
def passFault (s : State) (p : Nat) (va : Nat) (st : BitVec 16) : State :=
  (postFault s (s.partDie p) p (BitVec.ofNat 64 va) st (.pass p)).2.modPart p fun x =>
    { x with pass := x.pass.map fun ps => { ps with paused := true } }

/-- Go on to the next granule. -/
def passNext (s : State) (p copied : Nat) : State :=
  s.modPart p fun x => { x with pass := x.pass.map fun ps => { ps with next := ps.next + 1, copied := ps.copied + copied } }

/-- A granule's source may be read and its place in the image written now. -/
def granuleReady (s : State) (src dst : Nat) : Bool :=
  (upTo 64).all fun i => s.writable (dst / 64 + i) && !s.hostKeeps (src / 64 + i)

/-- A granule is copied into the image, with its poison, and its write bit cleared (R352, R353). -/
def copyGranule (s : State) (p : Nat) (src : Target) (dst : Target) : State :=
  let s := recallGranule (s.modFab fun f => { f with unwritten := insertNat (src.pa / 4096) f.unwritten }) src.pa
  let bytes := s.mem.readN src.pa 4096
  let bad := s.fab.poison.filter fun k => k / 256 == src.pa / 4096
  let s := homeWrite s none none p dst.attr dst.pa bytes
  passNext (s.modFab fun f => { f with poison := bad.foldl (fun l k => insertNat (dst.pa / 16 + k % 256) l) f.poison }) p 1

/-- Examine one granule: it is copied when its write bit is set. -/
def passGranule (s : State) (p g d : Nat) : State :=
  match s.deviceXlate p false (BitVec.ofNat 64 g) with
  | .error st => if xLater st then s else passFault s p g st
  | .ok src =>
    if !isDevMem src.pa || s.fab.unwritten.contains (src.pa / 4096) then passNext s p 0
    else
      match s.deviceXlate p true (BitVec.ofNat 64 d) with
      | .error st => if xLater st then s else passFault s p d st
      | .ok dst =>
        if granuleReady s src.pa dst.pa then copyGranule s p src dst
        else s.waitOn (.pass p) ((upTo 64).map (dst.pa / 64 + ·))

/-- The pass has examined every granule: COPIED and STATE are written, and it ends. -/
def passEnd (s : State) (p : Nat) (ps : Pass) : State :=
  let va := BitVec.ofNat 64 ps.desc
  let number := ps.number + 1
  match devicePut s p (va + 24) (BitVec.ofNat 64 ps.copied) with
  | none => dutyWait s p (va + 24)
  | some s1 =>
    match devicePut s1 p va (number ++ 0#30 ++ BitVec.ofBool (ps.copied = 0) ++ 0#1) with
    | none => dutyWait s p va
    | some s => (passRecord (s.modPart p fun x => { x with pass := none }) p (BitVec.ofNat 64 ps.copied) (number.setWidth 64)).setEvent (s.partDie p) 5

/-- CHECKPOINT_PASS (R353): a running pass examines its next granule, or ends; without one, a pass that the host has
asked for starts. -/
def execCheckpointPass (part : Nat) (s : State) : Res :=
  .next (match (s.part part).pass with
    | none => if (s.part part).passAsked then hostPass s part else s
    | some ps =>
      if ps.paused then s
      else
        match ps.granule with
        | none => passEnd s part ps
        | some (g, d) => passGranule s part g d)

/-- A fault that is not served ends the pass with CLOSED and RUNNING clear (R353). -/
def passAbort (s : State) (p : Nat) : State :=
  match (s.part p).pass with
  | none => s
  | some ps =>
    let s' := match devicePut s p (BitVec.ofNat 64 ps.desc) (ps.number ++ 0#32) with
      | some s => s
      | none => s
    s'.modPart p fun x => { x with pass := none }

end Sys2Proof.Machine
end

