-- ==== Sys2Proof/Machine/Remote.lean ====
section
/-!
DEFINITION. Remote package memory (R114, R142, R143, R260, R261, R365, R366): RLOAD, RSTORE, the RAMO family,
RCOPY, and the events that answer them or serve other packages.
-/
namespace Sys2Proof.Machine

/-! ## Pairing and routes (R365, R366) -/

/-- Package id (R367). -/
def Pkg.id (p : Pkg) : Nat := bits p.link 0 10

/-- A station is trained and has not failed. -/
def Pkg.stationUp (p : Pkg) (k : Nat) : Bool := p.link.getLsbD (38 + k) && !p.downSt.getLsbD k

/-- The station of a pair that carries a request: the one named, or its partner when it has failed. -/
def Pkg.carries (p : Pkg) (k : Nat) : Option Nat :=
  let other := k / 2 * 2 + (1 - k % 2)
  if p.stationUp k then some k else if p.stationUp other then some other else none

/-- Whether a move from `a` to `b` in a ring of `n` nodes goes in the + direction: fewer hops, + on a tie. -/
def plusHop (n a b : Nat) : Bool := decide ((b + n - a) % n ≤ (a + n - b) % n)

/-- Dimensions of the torus. -/
def Pkg.dims (p : Pkg) : Nat × Nat × Nat := (bits p.link 10 5 + 1, bits p.link 15 11, bits p.link 26 11)

/-- The direction of the first hop in the torus: 0 to 5 for +X, −X, +Y, −Y, +Z, −Z. -/
def Pkg.direction (p : Pkg) (target : Nat) : Option Nat :=
  let (x, y, z) := p.dims
  let o := p.id
  if x * y * z ≤ target || x * y * z = 0 then none
  else if o % x ≠ target % x then some (if plusHop x (o % x) (target % x) then 0 else 1)
  else if o / x % y ≠ target / x % y then some (if plusHop y (o / x % y) (target / x % y) then 2 else 3)
  else some (if plusHop z (o / x / y % z) (target / x / y % z) then 4 else 5)

/-- The station that a request takes, if a route leads to the target. -/
def Pkg.route (p : Pkg) (target : Nat) (va : Word) : Option Nat :=
  if p.link.getLsbD 37 then
    match p.direction target with
    | none => none
    | some d => p.carries (2 * d + bits va 12 1)
  else
    let up := (upTo 12).filter fun k => p.link.getLsbD (38 + k)
    if up.isEmpty then none
    else
      match up[(target + bits va 12 4) % up.length]? with
      | none => none
      | some k => p.carries k

/-- The issuing partition's POD, when its PODPAIR is enabled (R334). -/
def podOf (s : State) (u c : Nat) : Option (BitVec 4) :=
  let r := (s.part (s.issuePart u c)).podpair
  if r.getLsbD 63 then some (r.setWidth 4) else none

/-- The partition of this package that serves a POD. -/
def pairedPart (s : State) (pod : BitVec 4) : Option Nat :=
  (upTo 16).find? fun p => (s.part p).podpair.getLsbD 63 && (s.part p).podpair.setWidth 4 == pod

/-! ## Serving an access from outside the package (R114, R260) -/

/-- Bytes in pieces that lie in one line each. -/
def pieces (va : Word) (bytes : List Byte) : List (Word × List Byte) :=
  if va.toNat % 8 = 0 then (upTo (ceilDiv bytes.length 8)).map fun i => (va + BitVec.ofNat 64 (8 * i), (bytes.drop (8 * i)).take 8)
  else bytes.zipIdx.map fun (b, i) => (va + BitVec.ofNat 64 i, [b])

/-- What serving comes to: a value with the poisoned sectors that were read as zeros (R117), a wait with its lines
noted (R112), or a translation fault. -/
inductive Served where
  | ok (v : Word) (sub : Nat) (s : State)
  | wait (s : State)
  | fault (st : BitVec 16) (va : Word)
  | bad

/-- A fault of a translation, or a wait when the walk waits for the host. -/
def serveFault (s : State) (st : BitVec 16) (va : Word) : Served := if xLater st then .wait s else .fault st va

/-- The targets of pieces in a partition's space, or the first fault. -/
def pieceTargets (s : State) (p : Nat) (write : Bool) : List (Word × List Byte) → Except (BitVec 16 × Word) (List (Target × List Byte))
  | [] => .ok []
  | (va, bs) :: rest =>
    match s.deviceXlate p write va with
    | .error st => .error (st, va)
    | .ok tg =>
      match pieceTargets s p write rest with
      | .error e => .error e
      | .ok l => .ok ((tg, bs) :: l)

/-- Write bytes at their home slices, all or none. -/
def serveWrite (s : State) (w : Waiter) (p : Nat) (va : Word) (bytes : List Byte) : Served :=
  match pieceTargets s p true (pieces va bytes) with
  | .error (st, va) => serveFault s st va
  | .ok l =>
    if l.all fun x => s.writable (x.1.pa / 64) then
      .ok 0 0 (l.foldl (fun s x => homeWrite s none none p x.1.attr x.1.pa x.2) s)
    else .wait (s.waitOn w (l.map fun x => x.1.pa / 64).eraseDups)

/-- A write has brought poisoned data: the sectors that its poisoned doublewords lie in are poisoned, but on
error-tolerant pages (R117, R340). -/
def bringPoison (s : State) (p : Nat) (va : Word) (bad : List Nat) : State :=
  bad.foldl (fun s k =>
    match s.deviceXlate p true (va + BitVec.ofNat 64 (8 * k)) with
    | .ok t => if t.attr = .errorTolerant then s else s.modFab fun f => { f with poison := insertNat (t.pa / 16) f.poison }
    | .error _ => s) s

/-- Read `n` bytes at the home slice. -/
def serveRead (s : State) (p : Nat) (va : Word) (n : Nat) : Served :=
  match s.deviceXlate p false va with
  | .error st => serveFault s st va
  | .ok tg =>
    if s.hostKeeps (tg.pa / 64) then .wait s
    else if !s.fab.poison.contains (tg.pa / 16) then .ok (BitVec.ofNat 64 (s.mem.readLe tg.pa n)) 0 s
    else if tg.attr = .errorTolerant then .ok 0 1 s
    else .bad

/-- An atomic at the home slice (R130, R142). -/
def serveAmo (s : State) (w : Waiter) (p : Nat) (va : Word) (op : Nat) (expect data : Word) : Served :=
  match s.deviceXlate p true va with
  | .error st => serveFault s st va
  | .ok tg =>
    if !s.writable (tg.pa / 64) then .wait (s.waitOn w [tg.pa / 64])
    else
      match serveRead s p va 8 with
      | .ok old n s =>
        match amoNew op old expect data with
        | none => .ok old n s
        | some w => .ok old n (homeWrite s none none p tg.attr tg.pa (bvBytes 8 w))
      | .wait s => .wait s
      | .fault st va => .fault st va
      | .bad => .bad

/-- Perform a remote operation in a partition, for party `w`. -/
def serve (s : State) (w : Waiter) (p : Nat) (va : Word) (op : RemoteOp) : Served :=
  match op with
  | .load size => serveRead s p va (2 ^ size.toNat)
  | .store size data => serveWrite s w p va (bvBytes (2 ^ size.toNat) data)
  | .amo op e d => serveAmo s w p va op.toNat e d
  | .bulk data bad =>
    match serveWrite s w p va data with
    | .ok v n s => .ok v n (bringPoison s p va bad)
    | .wait s => .wait s
    | .fault st va => .fault st va
    | .bad => .bad
  | .flag v => serveWrite s w p va (bvBytes 8 v)
  -- the collective engine takes it: COLLECTIVE_COMPLETE says what the members have brought
  | .part _ _ _ _ _ => .ok 0 0 s
  | .result _ _ _ => .ok 0 0 s

/-! ## RLOAD, RSTORE and RAMO (R260) -/

/-- The second register of an address pair. -/
def pairReg (xa : Reg) : Reg := xa + 1

/-- The remote-access trap at the instruction itself. -/
def trapNoRoute : TrapInfo := { cause := 0x0E }

/-- The checks of an address pair for an access of `n` bytes. -/
def pairTrap (s : State) (xa : Reg) (n : Nat) : Option TrapInfo :=
  let va := X s xa
  if !zeroBits va 56 8 || !zeroBits (X s (pairReg xa)) 10 54 then some trapOperand
  else if va.toNat % n ≠ 0 then some (trapAt 0x05 va)
  else none

/-- A remote operation of the issuing context, and the state with its number taken: `load` is one whose reply carries a
value. -/
def newRop (s : State) (pkg station : Nat) (pod : BitVec 4) (va : Word) (op : RemoteOp) (load : Bool) : Sent × State :=
  let u := s.cur.unit
  let c := s.cur.ctx
  let id := s.me.ropNo
  let (seq, s) := useTick s
  (⟨u, c, id, pkg, station, pod, va, op, seq, s.blocksSoFar u c⟩,
    s.modMe fun x => { x with ropNo := id + 1, rops := x.rops ++ [⟨id, !load⟩] })

/-- Send a request to another package. -/
def sendRemote (s : State) (pkg station : Nat) (pod : BitVec 4) (va : Word) (op : RemoteOp) (load : Bool) : State :=
  let (x, s) := newRop s pkg station pod va op load
  s.modPkg fun p => { p with sent := p.sent ++ [x], wire := (pkg, pod, va, op) :: p.wire }

/-- Send an RSTORE on the own package on its way to the home slice (R260). -/
def sendInside (s : State) (pod : BitVec 4) (va : Word) (op : RemoteOp) : State :=
  let (x, s) := newRop s s.pkg.id 0 pod va op false
  s.modPkg fun p => { p with inside := p.inside ++ [x] }

/-- Raise the page fault of the context's own remote operation, once. -/
def ownFault (s : State) (st : BitVec 16) (va : Word) : State :=
  let who := Faulter.own s.cur.unit s.cur.ctx
  if faultOpen s who then s else (postFault s (dieOf s.cur.unit) (s.issuePart s.cur.unit s.cur.ctx) va st who).2

/-- An RSTORE of the context on its own package has yet to be performed (R142). -/
def insideBusy (s : State) (u c : Nat) : Bool := s.pkg.inside.any fun x => x.unit == u && x.ctx == c

/-- A remote operation on the own package may be performed now, for a context: nothing of the context that it must
follow is under way (R141, R142, R261). -/
def ownReady (s : State) (u c : Nat) (tg : Target) (n : Nat) (write : Bool) : Bool :=
  !ownPendOver s tg n && !s.blockWait u c tg n && !(write && copyReads s u c allEarlier tg.pa n) &&
    !(tg.attr == .device && s.devicePending u c allEarlier)

/-- A remote operation that returns a value: RLOAD or RAMO. -/
def remoteValue (s : State) (xd xa : Reg) (size : Nat) (op : RemoteOp) (write : Bool) : CRes :=
  let u := s.cur.unit
  let c := s.cur.ctx
  let va := X s xa
  let pkg := (X s (pairReg xa)).toNat
  let take (v : Word) (s : State) : CRes := .done (setX s xd (zext (8 * size) v.toNat))
  match s.me.reply with
  | some (v, true) => take v (s.modMe fun x => { x with reply := none })
  | some (_, false) => .trap { cause := 0x0E, clears := .reply }
  | none =>
    if s.me.rops.any fun r => !r.store then .stall .remote s
    else
      match podOf s u c with
      | none => .trap trapNoRoute
      | some pod =>
        if pkg = s.pkg.id then
          if faultOpen s (.own u c) then .stall .remote s
          else if insideBusy s u c then .stall .order s
          else
            match s.deviceXlate (s.issuePart u c) write va with
            | .error st => if xLater st then .stall .order s else .stall .remote (ownFault s st va)
            | .ok tg =>
              if !ownReady s u c tg size write then .stall .order s
              else
                match serve s (.ctx u c) (s.issuePart u c) va op with
                | .ok v n s => take v (addSub s u c n)
                | .wait s => .stall .order s
                | .fault st va => .stall .remote (ownFault s st va)
                | .bad => loadDone s xd 0 true tg.pa
        else
          match s.pkg.route pkg va with
          | none => .trap trapNoRoute
          | some k => .stall .remote (sendRemote s pkg k pod va op true)

/-- RLOAD (R260). -/
def execRload (xd xa : Reg) (sz : BitVec 2) (s : State) : Res :=
  .next (control s [xa, pairReg xa] (some xd) fun s =>
    match pairTrap s xa (2 ^ sz.toNat) with
    | some t => .trap t
    | none => held s fun s => remoteValue s xd xa (2 ^ sz.toNat) (.load sz) false)

/-- An error of an RSTORE or RCOPY is pending in the context (R260). -/
def setRemErr (s : State) : State := s.modMe fun x => { x with remErr := true }

/-- RSTORE (R260): it completes when the store is sent. -/
def execRstore (xd xa : Reg) (sz : BitVec 2) (s : State) : Res :=
  .next (control s [xa, pairReg xa, xd] none fun s =>
    match pairTrap s xa (2 ^ sz.toNat) with
    | some t => .trap t
    | none => held s fun s =>
      let va := X s xa
      let pkg := (X s (pairReg xa)).toNat
      let op : RemoteOp := .store sz (X s xd)
      match podOf s s.cur.unit s.cur.ctx with
      | none => .done (setRemErr s)
      | some pod =>
        if pkg = s.pkg.id then .done (sendInside s pod va op)
        else
          match s.pkg.route pkg va with
          | none => .done (setRemErr s)
          | some k => .done (sendRemote s pkg k pod va op false))

/-- The RAMO family (R260): the operations of R173 on a doubleword. -/
def ramo (op : BitVec 4) (xd xa xb : Reg) (s : State) : State :=
  control s ([xa, pairReg xa, xb] ++ (if op = 2 then [xd] else [])) (some xd) fun s =>
    match pairTrap s xa 8 with
    | some t => .trap t
    | none => held s fun s => remoteValue s xd xa 8 (.amo op (X s xd) (X s xb)) true

/-- RAMOADD (R260). -/
def execRamoadd (xd xa xb : Reg) (s : State) : Res := .next (ramo 0 xd xa xb s)
/-- RAMOSWP (R260). -/
def execRamoswp (xd xa xb : Reg) (s : State) : Res := .next (ramo 1 xd xa xb s)
/-- RAMOCAS (R260). -/
def execRamocas (xd xa xb : Reg) (s : State) : Res := .next (ramo 2 xd xa xb s)
/-- RAMOMIN (R260). -/
def execRamomin (xd xa xb : Reg) (s : State) : Res := .next (ramo 3 xd xa xb s)
/-- RAMOMAX (R260). -/
def execRamomax (xd xa xb : Reg) (s : State) : Res := .next (ramo 4 xd xa xb s)
/-- RAMOMINN (R260). -/
def execRamominn (xd xa xb : Reg) (s : State) : Res := .next (ramo 5 xd xa xb s)
/-- RAMOMAXN (R260). -/
def execRamomaxn (xd xa xb : Reg) (s : State) : Res := .next (ramo 6 xd xa xb s)
/-- RAMOAND (R260). -/
def execRamoand (xd xa xb : Reg) (s : State) : Res := .next (ramo 7 xd xa xb s)
/-- RAMOOR (R260). -/
def execRamoor (xd xa xb : Reg) (s : State) : Res := .next (ramo 8 xd xa xb s)
/-- RAMOXOR (R260). -/
def execRamoxor (xd xa xb : Reg) (s : State) : Res := .next (ramo 9 xd xa xb s)

/-! ## RCOPY (R261, R143) -/

/-- The operand checks of a descriptor (R261): reserved bits and length, then alignment. -/
def rcopyTrap (l : List Word) (desc : Word) : Option TrapInfo :=
  let w (i : Nat) : Word := l.getD i 0
  if !zeroBits (w 3) 10 54 || w 6 ≠ 0 || w 7 ≠ 0 || 2 ^ 40 < (w 2).toNat then some trapOperand
  else if [w 0, w 1, w 2, w 4].any fun x => x.toNat % 8 != 0 then some (trapAt 0x05 desc)
  else none

/-- Issue an RCOPY whose descriptor has passed its checks. -/
def startRcopy (s : State) (l : List Word) (pod : BitVec 4) : State :=
  let w (i : Nat) : Word := l.getD i 0
  let u := s.cur.unit
  let c := s.cur.ctx
  let (seq, s) := useTick s
  let id := s.me.ropNo
  let r : RCopy :=
    { id := id, src := (w 0).toNat, dst := w 1, len := (w 2).toNat, pkg := (w 3).toNat, flagVa := w 4, flagVal := w 5,
      landed := [], orphan := false, pod := pod, leg := if c = 0 then s.here.leg.map (·.k) else none, seq := seq,
      after := s.blocksSoFar u c }
  s.modMe fun x => { x with ropNo := id + 1, rcopies := x.rcopies ++ [r] }

/-- Chunks of an RCOPY: 4 KiB of target (R261). -/
def RCopy.chunks (r : RCopy) : Nat := ceilDiv r.len 4096
/-- Bytes of chunk k. -/
def RCopy.chunkLen (r : RCopy) (k : Nat) : Nat := min 4096 (r.len - 4096 * k)

/-- Target addresses of the requests that the copy has yet to send: chunks, and the flag (R366). -/
def RCopy.unsent (r : RCopy) : List Word :=
  (((upTo r.chunks).filter fun k => !r.landed.contains k).map fun k => r.dst + BitVec.ofNat 64 (4096 * k)) ++
    if r.flagVa = 0 then [] else [r.flagVa]

/-- RCOPY (R261). A copy whose first request has no route fails at once. -/
def execRcopy (xa : Reg) (s : State) : Res :=
  .next (control s [xa] none fun s => held s fun s =>
    withDescriptor s (X s xa) 8 fun l s =>
      let w (i : Nat) : Word := l.getD i 0
      match rcopyTrap l (X s xa) with
      | some t => .trap t
      | none =>
        let pkg := (w 3).toNat
        if 8 ≤ (s.me.rcopies.filter fun r => !r.orphan).length then .stall .engine s
        else
          match podOf s s.cur.unit s.cur.ctx with
          | none => .done (setRemErr s)
          | some pod =>
            let s' := startRcopy s l pod
            match s'.me.rcopies.getLast? with
            | some r => if pkg ≠ s.pkg.id && (r.unsent.take 1).any (fun va => (s.pkg.route pkg va).isNone) then .done (setRemErr s) else .done s'
            | none => .done s')

/-- Change the RCOPYs of a context. -/
def modRcopy (s : State) (u c id : Nat) (f : RCopy → RCopy) : State :=
  s.modCtx u c fun x => { x with rcopies := x.rcopies.map fun r => if r.id = id then f r else r }
def dropRcopy (s : State) (u c id : Nat) : State :=
  s.modCtx u c fun x => { x with rcopies := x.rcopies.filter fun r => r.id != id }

/-- The source of a chunk where it stands in memory, doubleword by doubleword; or the first fault. -/
def rcopySources (s : State) (u c : Nat) (va : Nat) : Nat → Except (BitVec 16 × Word) (List Target)
  | 0 => .ok []
  | n + 1 =>
    match s.translate u (s.issuePart u c) (s.privileged u c) .engine false (BitVec.ofNat 64 va) with
    | .error st => .error (st, BitVec.ofNat 64 va)
    | .ok tg =>
      match rcopySources s u c (va + 8) n with
      | .error e => .error e
      | .ok l => .ok (tg :: l)

/-- An earlier copy of the context has yet to write one of these bytes (R123, R134). -/
def copyWrites (s : State) (u c : Nat) (r : RCopy) (l : List Target) : Bool :=
  c < 8 && (s.streamCopies u c).any fun (v, d) =>
    d.dstk == 0 && decide (d.seq < r.seq) && (upTo d.chunks).any fun j => !d.landed.contains j &&
      match planChunk s v d (d.elems j) with
      | none => true
      | some es => es.any fun e => l.any fun t => placesMeet d.esize 8 e.dst (.mem t)

/-- The sources may be read now: what the context stored to them earlier is visible to it, or they wait. -/
def rcopyReady (s : State) (u c : Nat) (r : RCopy) (l : List Target) : Bool :=
  !(l.any fun t => loadWaits (seesFrom s u c r.leg) u c t.pa 8 || insideOver s u c (issuedBefore r.seq) t 8) && !copyWrites s u c r l &&
    !(l.any (fun t => t.attr == .device) && s.devicePending u c (issuedBefore r.seq)) &&
    !s.blockBefore u c r.after (fun b n => l.any fun t => mustOrder t 8 b n) fun _ _ => false

/-- The doublewords of the source (R261): their bytes, those that are poisoned by position, and the number of
poisoned sectors read as zeros (R117). -/
def rcopyBytes (s : State) (u c : Nat) (r : RCopy) (l : List Target) : List Byte × List Nat × Nat :=
  let v := seesFrom s u c r.leg
  let bad (t : Target) : Bool := !(v.badSectors u c t.pa 8).isEmpty
  let bytes := l.flatMap fun t => if t.attr = .errorTolerant then tolerate v u c t.pa (view v u c t.pa 8) else view v u c t.pa 8
  let poison := (l.zipIdx.filter fun x => bad x.1 && x.1.attr != .errorTolerant).map (·.2)
  (bytes, poison, ((l.filter fun t => t.attr == .errorTolerant && bad t).map fun t => t.pa / 16).eraseDups.length)

/-- A chunk of an RCOPY meets a fault of its source, or of a target in this package. -/
def rcopyFault (s : State) (u c id : Nat) (st : BitVec 16) (va : Word) : State :=
  if xLater st then s else (postFault s (dieOf u) (s.issuePart u c) va st (.rcopy u c id)).2

/-- An RCOPY fails: it is no longer in flight, and its context is told of it later (R260). -/
def failRcopy (s : State) (u c id : Nat) (r : RCopy) : State :=
  (dropRcopy s u c id).modCtx u c fun x => { x with remErr := x.remErr || !r.orphan }

/-- Deliver a part of an RCOPY, a chunk or the flag, to its target: to another package it leaves with the POD of its
issuer. -/
def rcopyPut (s : State) (u c id : Nat) (r : RCopy) (va : Word) (op : RemoteOp) (done : State → State) : State :=
  if r.pkg = s.pkg.id then
    match serve s (.rcopy u c id) (s.issuePart u c) va op with
    | .ok _ _ s => done s
    | .wait s => s
    | .fault st va => rcopyFault s u c id st va
    | .bad => s
  else if (s.pkg.route r.pkg va).isNone then failRcopy s u c id r
  else done (s.modPkg fun p => { p with wire := (r.pkg, r.pod, va, op) :: p.wire })

/-- An earlier access of the context to these bytes of this package has not been performed: a store, or one that it has
read, a block's, an RSTORE's, or what an RCOPY reads there (R123, R141). -/
def transferBehind (s : State) (u c seq after : Nat) (tg : Target) : Bool :=
  pendOver s u c tg.pa 8 || insideOver s u c (issuedBefore seq) tg 8 || (rcopyHits s u c (issuedBefore seq) fun t n => mustOrder t n tg 8) ||
    (tg.attr == .device && s.devicePending u c (issuedBefore seq)) ||
    s.blockBefore u c after (fun t n => mustOrder t n tg 8) fun _ _ => false

/-- An earlier access of the context to the target of a chunk, in this package, has not been performed. -/
def rcopyBehind (s : State) (u c : Nat) (r : RCopy) (k : Nat) : Bool :=
  r.pkg == s.pkg.id && (upTo (r.chunkLen k / 8)).any fun i =>
    match s.deviceXlate (s.issuePart u c) true (r.dst + BitVec.ofNat 64 (4096 * k + 8 * i)) with
    | .error _ => false
    | .ok tg => transferBehind s u c r.seq r.after tg

/-- The flag write is a release at system scope (R127, R143): every earlier access of the context, its blocks' and its
remote operations' included, and every store that it has read has been performed. -/
def flagReady (s : State) (u c : Nat) (r : RCopy) : Bool :=
  (s.knownPend u c).isEmpty && !insideHits s u c (issuedBefore r.seq) (fun _ _ => true) &&
    ((s.remotes u c).all fun (v, k) => ((s.ctx v k).rcopies.all fun x => x.orphan || decide (r.seq ≤ x.seq)) &&
      (s.ctx v k).rops.all fun x => v == u && decide (r.id < x.id)) &&
    (c != 0 || decide (r.after ≤ if 2048 ≤ u then 0 else (s.core u).seq.fin) || !s.placing (s.issuePart u c))

/-- A chunk of an RCOPY lands at its target (R143). A vault of the core does not hold it (R348). -/
def landRcopy (s : State) (u c id k : Nat) : State :=
  match (s.ctx u c).rcopies.find? fun r => r.id == id with
  | none => s
  | some r =>
    if r.chunks ≤ k || r.landed.contains k || faultOpen s (.rcopy u c id) then s
    else
      match rcopySources s u c (r.src + 4096 * k) (r.chunkLen k / 8) with
      | .error (st, va) => rcopyFault s u c id st va
      | .ok l =>
        if !rcopyReady s u c r l || rcopyBehind s u c r k then s
        else
          let (bytes, bad, sub) := rcopyBytes s u c r l
          rcopyPut (s.fillPage u c (BitVec.ofNat 64 (r.src + 4096 * k))) u c id r (r.dst + BitVec.ofNat 64 (4096 * k)) (.bulk bytes bad) fun s =>
            transferSub (modRcopy s u c id fun r => { r with landed := insertNat k r.landed }) u c r.leg sub

/-- RCOPY_FLAG_WRITE (R143, R261): once every chunk has landed the flag is written and the copy has
completed. -/
def execRcopyFlagWrite (unit ctx id : Nat) (s : State) : Res :=
  .next (match (s.ctx unit ctx).rcopies.find? fun r => r.id == id with
    | none => s
    | some r =>
      if r.landed.length < r.chunks || faultOpen s (.rcopy unit ctx id) || !flagReady s unit ctx r then s
      else if r.flagVa = 0 then dropRcopy s unit ctx id
      else rcopyPut s unit ctx id r r.flagVa (.flag r.flagVal) fun s => dropRcopy s unit ctx id)

/-- CHUNK_LANDING (R135, R143): a chunk of a retriever copy, or of an RCOPY. -/
def execChunkLanding (copy : CopyRef) (chunk : Nat) (s : State) : Res :=
  .next (match copy with
    | .retriever u h => landRetriever s u h chunk
    | .rcopy u c id => landRcopy s u c id chunk)

/-! ## Answers of other packages, and their requests -/

/-- REMOTE_REPLY (R260): an operation has been performed at its target, or has failed there. -/
def execRemoteReply (unit ctx id : Nat) (value : Word) (ok : Bool) (s : State) : Res :=
  .next (match (s.ctx unit ctx).rops.find? fun r => r.id == id with
    | none => s
    | some r =>
        let s := s.modPkg fun p => { p with sent := p.sent.filter fun x => !(x.unit == unit && x.ctx == ctx && x.id == id) }
        s.modCtx unit ctx fun x =>
          { x with
            rops := x.rops.filter fun y => y.id != id
            reply := if r.store then x.reply else some (value, ok)
            remErr := if r.store then x.remErr || !ok else x.remErr })

/-- A remote store of a context has failed: the error is pending, when that context has not ended (R260). -/
def failStore (s : State) (u c id : Nat) : State :=
  let mine (x : Sent) : Bool := x.unit == u && x.ctx == c && x.id == id
  let s := s.modPkg fun p => { p with sent := p.sent.filter fun x => !mine x, inside := p.inside.filter fun x => !mine x }
  s.modCtx u c fun x => { x with rops := x.rops.filter fun y => y.id != id, remErr := x.remErr || x.rops.any fun y => y.id == id }

/-- REMOTE_ERROR (R260): an error of an RSTORE or an RCOPY is pending in its context; an RCOPY of a
handler that has ended tells nobody. -/
def execRemoteError (unit ctx id : Nat) (s : State) : Res :=
  .next (match (s.ctx unit ctx).rcopies.find? fun r => r.id == id with
    | some r => failRcopy s unit ctx id r
    | none =>
      match (s.ctx unit ctx).rops.find? fun r => r.id == id && r.store with
      | none => s
      | some _ => failStore s unit ctx id)

/-- Answer a request of another package. -/
def reply (s : State) (src : Nat) (ok : Bool) (v : Word) : State :=
  s.modPkg fun p => { p with answers := p.answers ++ [(src, ok, v)] }

/-- The RSTORE on the own package waits for what its context did earlier to its bytes (R123, R142). -/
def insideWaits (s : State) (x : Sent) : Bool :=
  match s.deviceXlate (s.issuePart x.unit x.ctx) true x.va with
  | .error _ => false
  | .ok tg => transferBehind s x.unit x.ctx x.seq x.after tg

/-- The RSTORE on the own package that a request stands for: the first with its address and operation that need not
wait. -/
def insideFor (s : State) (va : Word) (op : RemoteOp) : Option Sent :=
  s.pkg.inside.find? fun x => x.va == va && x.op == op && !insideWaits s x

/-- An RSTORE on the own package is performed at its home slice as an access from outside (R260). -/
def serveInside (s : State) (x : Sent) : State :=
  let p := s.issuePart x.unit x.ctx
  let who := Faulter.inside x.unit x.ctx x.id
  if faultOpen s who then s
  else
    match s.deviceXlate p true x.va with
    | .error st => if xLater st then s else (postFault s (dieOf x.unit) p x.va st who).2
    | .ok _ =>
      match serve s (.remote s.pkg.id) p x.va x.op with
      | .ok _ _ s =>
        (s.modPkg fun p => { p with inside := p.inside.filter (· != x) }).modCtx x.unit x.ctx fun c =>
          { c with rops := c.rops.filter fun y => y.id != x.id }
      | .wait s => s
      | .fault st va => (postFault s (dieOf x.unit) p va st who).2
      | .bad => failStore s x.unit x.ctx x.id

/-- REMOTE_REQUEST (R260, R365): served by the paired partition at the home slice; while the request
waits, for a lease, the host or a fault that is being served, it comes again. `src` is this package for an RSTORE
that names it. -/
def execRemoteRequest (src : Nat) (pod : BitVec 4) (va : Word) (op : RemoteOp) (s : State) : Res :=
  .next (if s.pkg.faulted then s
    else if src = s.pkg.id then
      match insideFor s va op with
      | none => s
      | some x => serveInside s x
    else if faultOpen s (.remote src) then s
    else
      match pairedPart s pod with
      | none => reply s src false 0
      | some p =>
        match serve s (.remote src) p va op with
        | .ok v _ s => reply s src true v
        | .wait s => s
        | .fault st va => (postFault s (s.partDie p) p va st (.remote src)).2
        | .bad => reply s src false 0)

end Sys2Proof.Machine
end

