-- ==== Sys2Proof/Machine/SysRegs.lean ====
section
/-!
DEFINITION. User state registers (R39, R80 to R83, R190) and LOCQ (R191).
-/
namespace Sys2Proof.Machine

/-! ## Numbers and access (R80) -/

/-- Registers of the vector context, marked V. -/
def isVReg (n : Nat) : Bool := n == 0 || n == 1 || n == 6 || n == 7 || n == 8 || n == 9 || (decide (0x80 ≤ n) && decide (n ≤ 0xFF))
/-- Assigned user numbers. -/
def isUserReg (n : Nat) : Bool := decide (n ≤ 0xE) || (decide (0x80 ≤ n) && decide (n ≤ 0xFF))
/-- Registers without SETS access: VROWS, VCOLS, CORE, TIME, CYCLE and LEGID. -/
def isReadOnlyReg (n : Nat) : Bool := n == 0 || n == 1 || n == 0xB || n == 0xC || n == 0xD || n == 0xE
/-- Registers whose access waits for earlier blocks (R83): MSHAPE, FLAGS, VFSTAT and VCM. -/
def waitsBlocks (n : Nat) : Bool := n == 6 || n == 7 || n == 9 || decide (0x80 ≤ n)
/-- The leg registers that SETS writes outside a region (R39). -/
def isLegReg (n : Nat) : Bool := decide (2 ≤ n) && decide (n ≤ 5)

/-- GETS or SETS of this number is illegal in the issuing context (R80, R190). The rule speaks of contexts 1-7; context 0
of a management core, which has no vector context, is treated as they are (DESIGN CHOICE, log entry 70). -/
def regIllegal (s : State) (n : Nat) : Bool :=
  !isUserReg n || (isVReg n && (s.cur.ctx != 0 || isMgmt s.cur.unit))

/-- FLAGS as GETS reads it: the strand's, ORed with those of the current vector context (R55, R62). -/
def flagsNow (s : State) : BitVec 7 :=
  (match s.here.strand with
    | some h => match s.strand? h with
      | some x => x.flags
      | none => 0
    | none => 0) ||| s.vc.flags

/-- SUBCNT of the issuing context: with the leg count inside a leg (R82). -/
def subcntNow (s : State) : BitVec 32 :=
  if s.cur.ctx = 0 then
    let base := match s.here.strand with
      | some h => match s.strand? h with
        | some x => x.subcnt
        | none => 0
      | none => s.me.subcnt
    BitVec.ofNat 32 (min (base.toNat + s.me.legSub.toNat) (2 ^ 32 - 1))
  else s.me.subcnt

/-- LEGID (R39). -/
def legidNow (s : State) : Word :=
  if s.cur.ctx = 0 then
    match s.here.leg, s.regionOf s.cur.unit with
    | some l, some r => 1#1 ++ BitVec.ofBool r.indep ++ 0#30 ++ BitVec.ofNat 32 l.k
    | _, _ => 0
  else 0

/-- The value of a user state register (R81). -/
def readUser (s : State) (n : Nat) : Word :=
  if 0x80 ≤ n then s.vc.vcm.extractLsb' (64 * (n - 0x80)) 64
  else
    match n with
    | 0 => s.vc.vrows.setWidth 64
    | 1 => s.vc.vcols.setWidth 64
    | 2 => s.me.legsz.setWidth 64
    | 3 => s.me.carrym.setWidth 64
    | 4 => s.me.predm.setWidth 64
    | 5 => s.me.vcarry.setWidth 64
    | 6 => s.vc.mshape
    | 7 => (flagsNow s).setWidth 64
    | 8 => s.vc.rmode.setWidth 64
    | 9 => s.vc.vfstat
    | 0xA => (subcntNow s).setWidth 64
    | 0xB => BitVec.ofNat 64 s.cur.unit
    | 0xC => BitVec.ofNat 64 s.time
    | 0xD => BitVec.ofNat 64 (s.cycleOf s.cur.unit)
    | _ => legidNow s

/-- GETS (R190); FLAGS, and SUBCNT, are read as the runner (R55, R82). CORE of a management core, which has no logical id, is a free value of 10 bits. -/
def execGets (xd : Reg) (num : BitVec 12) (s : State) : Res :=
  .next (let n := num.toNat
    if regIllegal s n then finish s (.trap trapIllegal)
    else control s [] (some xd) fun s =>
      let read (s : State) : CRes :=
        if waitsBlocks n && !s.blocksDone s.cur.unit s.cur.ctx then .stall .blocks s
        else if n = 0xB && isMgmt s.cur.unit then .done (setX s xd (Config.freeWord s.fresh &&& 0x3FF)).tick
        else .done (setX s xd (readUser s n))
      if n = 7 || n = 0xA then held s read else read s)

/-! ## SETS -/

/-- A valid value of MSHAPE (R81, R232). -/
def mshapeOk (v : Word) : Bool :=
  zeroBits v 34 30 && decide (bits v 32 2 ≤ 1) && zeroBits v 28 4 && decide (1 ≤ bits v 16 12) && decide (bits v 16 12 ≤ 1024) &&
    zeroBits v 14 2 && decide (1 ≤ bits v 8 6) && decide (bits v 8 6 ≤ 32) && zeroBits v 6 2 && decide (1 ≤ bits v 0 6) &&
    decide (bits v 0 6 ≤ 32)

/-- The value sets no reserved bit and writes no reserved encoding (R39, R81). -/
def userOk (n : Nat) (v : Word) : Bool :=
  if 0x80 ≤ n then true
  else
    match n with
    | 2 => zeroBits v 32 32
    | 3 => zeroBits v 32 32 && !v.getLsbD 0
    | 4 => zeroBits v 32 32 && !v.getLsbD 0
    | 5 => zeroBits v 32 32
    | 6 => mshapeOk v
    | 7 => zeroBits v 7 57
    | 8 => zeroBits v 5 59 && decide (bits v 0 3 ≤ 4)
    | 9 => zeroBits v 46 17 && zeroBits v 16 16
    | _ => zeroBits v 32 32

/-- A write of FLAGS replaces the strand's flags and clears those of the vector context (R55, R83). -/
def writeFlags (s : State) (v : BitVec 7) : State :=
  match s.here.strand with
  | some h => (s.modStrand h fun x => { x with flags := v }).setVc { s.vc with flags := 0 }
  | none => s.setVc { s.vc with flags := v }

/-- A write of SUBCNT. -/
def writeSubcnt (s : State) (v : BitVec 32) : State :=
  if s.cur.ctx = 0 then
    match s.here.strand with
    | some h => (s.modStrand h fun x => { x with subcnt := v }).modMe fun x => { x with legSub := 0 }
    | none => s.modMe fun x => { x with subcnt := v, legSub := 0 }
  else s.modMe fun x => { x with subcnt := v }

/-- The state with a user register written. -/
def writeUser (s : State) (n : Nat) (v : Word) : State :=
  if 0x80 ≤ n then s.setVc { s.vc with vcm := putBits s.vc.vcm (64 * (n - 0x80)) v }
  else
    match n with
    | 2 => s.modMe fun x => { x with legsz := v.setWidth 32 }
    | 3 => s.modMe fun x => { x with carrym := v.setWidth 32 }
    | 4 => s.modMe fun x => { x with predm := v.setWidth 32 }
    | 5 => s.modMe fun x => { x with vcarry := v.setWidth 32 }
    | 6 => s.setVc { s.vc with mshape := v }
    | 7 => writeFlags s (v.setWidth 7)
    | 8 => s.setVc { s.vc with rmode := v.setWidth 5 }
    | 9 => s.setVc { s.vc with vfstat := v }
    | 0xA => writeSubcnt s (v.setWidth 32)
    | _ => s

/-- SETS (R190): illegal accesses, then reserved values, then the waits of R83. SUBCNT in a
speculative leg is held, since the strand's count is written (R82). -/
def execSets (xs : Reg) (num : BitVec 12) (s : State) : Res :=
  .next (let n := num.toNat
    let inRegion := s.cur.ctx == 0 && s.here.leg.isSome
    if regIllegal s n || isReadOnlyReg n || (isLegReg n && inRegion) then finish s (.trap trapIllegal)
    else control s [xs] none fun s =>
      let v := X s xs
      let write (s : State) : CRes :=
        if waitsBlocks n && !s.blocksDone s.cur.unit s.cur.ctx then .stall .blocks s
        else .done (writeUser s n v)
      if !userOk n v then .trap trapOperand
      else if n = 7 || n = 0xA then held s write
      else write s)

/-! ## LOCQ (R191) -/

/-- What LOCQ reports of this core and a target of the partition. -/
def locqWord (s : State) (u t : Nat) : Word :=
  let own := s.slotOf u
  let slot := s.slotOf t
  let hops := if ringOf u = ringOf t then (slot + 18 - own) % 18 else 0xFF
  0#16 ++ BitVec.ofNat 8 hops ++ 0#3 ++ BitVec.ofNat 5 slot ++ 0#6 ++ BitVec.ofNat 10 u ++ 0#5 ++
    BitVec.ofNat 3 (dieOf u) ++ BitVec.ofNat 3 (ringOf u % 8) ++ BitVec.ofNat 5 own

/-- LOCQ (R191). -/
def execLocq (xd xa : Reg) (s : State) : Res :=
  .next (control s [xa] (some xd) fun s =>
    let t := (X s xa).toNat
    if 1024 ≤ t || !s.samePart s.cur.unit t then .trap trapOperand
    else .done (setX s xd (locqWord s s.cur.unit t)))

end Sys2Proof.Machine
end

