-- ==== Sys2Proof/Machine/VecInt.lean ====
section
/-!
DEFINITION. Integer arithmetic, comparison and moves of vectors (R202 to R207).
-/
namespace Sys2Proof.Machine

/-- An element read as a number, signed for i types (R202). -/
def intElem (ty : BitVec 5) (x : Nat) : Int := if isSigned ty then (BitVec.ofNat (tyBits ty) x).toInt else (x : Int)

/-- A number wrapped to the element width (R85). -/
def wrapTo (ty : BitVec 5) (i : Int) : Nat := (i % (2 ^ tyBits ty : Nat)).toNat

/-- A number saturated to the type's range (R202). -/
def satTo (ty : BitVec 5) (i : Int) : Nat :=
  let w := tyBits ty
  let lo : Int := if isSigned ty then -(2 ^ (w - 1)) else 0
  let hi : Int := if isSigned ty then 2 ^ (w - 1) - 1 else 2 ^ w - 1
  wrapTo ty (max lo (min hi i))

/-- A binary integer instruction with SX (R202). -/
def intBinary (f : BlockFields) (op : BitVec 5 → Int → Int → Int) (s : State) : State :=
  elementwise s f (binSrcs f) fun v h j =>
    (wrapTo f.ty (op f.ty (intElem f.ty (elem (v.reg f.va) h f.ty j)) (intElem f.ty (second s f v h j))), 0)

/-- A bit pattern of the element width. -/
def pattern (ty : BitVec 5) (i : Int) : BitVec 64 := BitVec.ofNat 64 (wrapTo ty i)

/-- Shift count: the second source modulo the width. -/
def vshCount (ty : BitVec 5) (b : Int) : Nat := (b % (tyBits ty : Nat)).toNat

/-- Quotient truncated toward zero; all ones for a zero divisor (R203). -/
def vdivInt (a b : Int) : Int := if b = 0 then -1 else Int.tdiv a b

/-- VADD (R202). -/
def execVadd (f : BlockFields) (s : State) : Res :=
  .next (intBinary f (fun _ a b => a + b) s)

/-- VSUB (R202). -/
def execVsub (f : BlockFields) (s : State) : Res :=
  .next (intBinary f (fun _ a b => a - b) s)

/-- VMUL (R202). -/
def execVmul (f : BlockFields) (s : State) : Res :=
  .next (intBinary f (fun _ a b => a * b) s)

/-- VMULH (R202). -/
def execVmulh (f : BlockFields) (s : State) : Res :=
  .next (intBinary f (fun ty a b => (a * b) / (2 ^ tyBits ty : Nat)) s)

/-- VDIV (R202, R203). -/
def execVdiv (f : BlockFields) (s : State) : Res :=
  .next (intBinary f (fun _ a b => vdivInt a b) s)

/-- VMIN (R202). -/
def execVmin (f : BlockFields) (s : State) : Res :=
  .next (intBinary f (fun _ a b => min a b) s)

/-- VMAX (R202). -/
def execVmax (f : BlockFields) (s : State) : Res :=
  .next (intBinary f (fun _ a b => max a b) s)

/-- VAND (R202). -/
def execVand (f : BlockFields) (s : State) : Res :=
  .next (intBinary f (fun ty a b => (pattern ty a &&& pattern ty b).toNat) s)

/-- VOR (R202). -/
def execVor (f : BlockFields) (s : State) : Res :=
  .next (intBinary f (fun ty a b => (pattern ty a ||| pattern ty b).toNat) s)

/-- VXOR (R202). -/
def execVxor (f : BlockFields) (s : State) : Res :=
  .next (intBinary f (fun ty a b => (pattern ty a ^^^ pattern ty b).toNat) s)

/-- VSHL (R202). -/
def execVshl (f : BlockFields) (s : State) : Res :=
  .next (intBinary f (fun ty a b => a * (2 ^ vshCount ty b : Nat)) s)

/-- VSHR (R202). -/
def execVshr (f : BlockFields) (s : State) : Res :=
  .next (intBinary f (fun ty a b => (wrapTo ty a / 2 ^ vshCount ty b : Nat)) s)

/-- VSAR (R202). -/
def execVsar (f : BlockFields) (s : State) : Res :=
  .next (intBinary f (fun ty a b => (BitVec.ofInt (tyBits ty) a).toInt / (2 ^ vshCount ty b : Nat)) s)

/-- VABSD (R202, R203). -/
def execVabsd (f : BlockFields) (s : State) : Res :=
  .next (intBinary f (fun _ a b => ((a - b).natAbs : Int)) s)

/-- VADDS (R202, R203). -/
def execVadds (f : BlockFields) (s : State) : Res :=
  .next (intBinary f (fun ty a b => (satTo ty (a + b) : Nat)) s)

/-- VSUBS (R202, R203). -/
def execVsubs (f : BlockFields) (s : State) : Res :=
  .next (intBinary f (fun ty a b => (satTo ty (a - b) : Nat)) s)

/-- VMADD (R204): vd is read as a source. -/
def execVmadd (f : BlockFields) (s : State) : Res :=
  .next (elementwise s f ((f.vd, f.ty) :: binSrcs f) fun v h j =>
    (wrapTo f.ty (elem (v.reg f.vd) h f.ty j + elem (v.reg f.va) h f.ty j * second s f v h j), 0))

/-- VADDC and VSUBB (R205): `res` gives the element and the carry of two elements and a carry. -/
def carryInstr (f : BlockFields) (res : Nat → Nat → Nat → Nat → Nat × Bool) (s : State) : State :=
  let h := blockShape s f
  let v := s.vc
  let on := active v f f.ty
  let out (j : Nat) : Nat × Bool :=
    res (2 ^ tyBits f.ty) (elem (v.reg f.va) h f.ty j) (elem (v.reg f.vb) h f.ty j) ((v.pred f.vc).getLsbD j).toNat
  finishWord
    (if shapeTrap h [f.ty] then .trap trapOperand s
    else if poisoned v h [(f.va, f.ty), (f.vb, f.ty)] on then .lost s 0
    else
      let l := maskedPuts h.count f.zm on fun j => ⟨j, (out j).1, false⟩
      .done (s.setVc ((v.put f.vd h f.ty l).putPred (f.func.extractLsb' 0 5) h.count f.zm on fun j => (out j).2)))

/-- VADDC (R205). -/
def execVaddc (f : BlockFields) (s : State) : Res :=
  .next (carryInstr f (fun m a b c => ((a + b + c) % m, decide (m ≤ a + b + c))) s)

/-- VSUBB (R205). -/
def execVsubb (f : BlockFields) (s : State) : Res :=
  .next (carryInstr f (fun m a b c => ((2 * m + a - b - c) % m, decide (a < b + c))) s)

/-- The relation of FUNC[3:1] on an ordering: less, equal, and whether the two are ordered at all
(R93, R206). -/
def relation (cond : Nat) (lt eq ordered : Bool) : Bool :=
  match cond with
  | 0 => ordered && eq
  | 1 => !(ordered && eq)
  | 2 => ordered && lt
  | 3 => ordered && (lt || eq)
  | 4 => ordered && !(lt || eq)
  | _ => ordered && !lt

/-- The comparison of two elements, and its flags (R92, R93, R206). -/
def compareElems (s : State) (f : BlockFields) (a b : Nat) : Bool × Flags :=
  let cond := bits f.func 1 3
  if isFloat f.ty then
    let (x, fx) := inValue (ftzOn s) f.ty a
    let (y, fy) := inValue (ftzOn s) f.ty b
    let nv : Flags := if x.isSnan || y.isSnan then fNV else 0
    (relation cond (fLt x y) (fEq x y) (!x.isNan && !y.isNan), fx ||| fy ||| nv)
  else
    let x := intElem f.ty a
    let y := intElem f.ty b
    (relation cond (decide (x < y)) (decide (x = y)) true, 0)

/-- VCMP (R206). -/
def execVcmp (f : BlockFields) (s : State) : Res :=
  .next (let h := blockShape s f
    let v := s.vc
    let on := active v f f.ty
    let out (j : Nat) : Bool × Flags := compareElems s f (elem (v.reg f.va) h f.ty j) (second s f v h j)
    finishWord
      (if shapeTrap h [f.ty] then .trap trapOperand s
      else if poisoned v h (binSrcs f) on then .lost s 0
      else
        let fl := (upTo h.count).foldl (fun fl j => if on j then fl ||| (out j).2 else fl) 0
        .done (raiseFlags (s.setVc (v.putPred f.vd h.count f.zm on fun j => (out j).1)) fl)))

/-- VSEL (R207): a move from the register that each bit of P[vc] selects. -/
def execVsel (f : BlockFields) (s : State) : Res :=
  .next (let h := blockShape s f
    let v := s.vc
    let pick (j : Nat) : BitVec 5 := if (v.pred f.vc).getLsbD j then f.va else f.vb
    finishWord
      (if shapeTrap h [f.ty] then .trap trapOperand s
      else
        let l := maskedPuts h.count f.zm (active v f f.ty) fun j =>
          ⟨j, elem (v.reg (pick j)) h f.ty j, elemBad (v.poi (pick j)) h f.ty j⟩
        .done (s.setVc (v.put f.vd h f.ty l))))

/-- VMOV (R207). -/
def execVmov (f : BlockFields) (s : State) : Res :=
  .next (moveInstr s f false (fun v => v.source f.va f.ty) fun _ _ k => .copy k)

/-- VBCAST (R207). -/
def execVbcast (f : BlockFields) (s : State) : Res :=
  .next (elementwise s f [] fun _ _ _ => ((xOperand s f).toNat % 2 ^ tyBits f.ty, 0))

/-- VIOTA (R207). -/
def execViota (f : BlockFields) (s : State) : Res :=
  .next (elementwise s f [] fun _ _ j => (((xOperand s f).toNat + j) % 2 ^ tyBits f.ty, 0))

end Sys2Proof.Machine
end

