-- ==== Sys2Proof/Machine/VecFp.lean ====
section
/-!
DEFINITION. Floating-point arithmetic of vectors (R208 to R210).
-/
namespace Sys2Proof.Machine

/-- A binary floating-point instruction with SX that rounds (R208). -/
def fpBinary (f : BlockFields) (op : RMode → FVal → FVal → FRes × Flags) (s : State) : State :=
  let m := roundMode s f
  let z := ftzOn s
  elementwise s f (binSrcs f) fun v h j =>
    let (a, fa) := inValue z f.ty (elem (v.reg f.va) h f.ty j)
    let (b, fb) := inValue z f.ty (second s f v h j)
    let (r, fr) := op m a b
    let (x, fx) := (fmtOf f.ty).finish m z r
    (x, fa ||| fb ||| fr ||| fx)

/-- An exact result with its flags, before rounding. -/
def exactRes (r : FVal × Flags) : FRes × Flags := (.exact r.1, r.2)

/-- VFADD (R208). -/
def execVfadd (f : BlockFields) (s : State) : Res := .next (fpBinary f (fun m a b => exactRes (fAdd m a b)) s)

/-- VFSUB (R208). -/
def execVfsub (f : BlockFields) (s : State) : Res := .next (fpBinary f (fun m a b => exactRes (fAdd m a b.negate)) s)

/-- VFMUL (R208). -/
def execVfmul (f : BlockFields) (s : State) : Res := .next (fpBinary f (fun _ a b => exactRes (fMul a b)) s)

/-- VFDIV (R208). -/
def execVfdiv (f : BlockFields) (s : State) : Res := .next (fpBinary f (fun _ a b => fDiv a b) s)

/-- VFMA and VFNMA (R208): vd is read as the addend; one rounding. -/
def fpFused (f : BlockFields) (neg : Bool) (s : State) : State :=
  let m := roundMode s f
  let z := ftzOn s
  elementwise s f ((f.vd, f.ty) :: binSrcs f) fun v h j =>
    let (a, fa) := inValue z f.ty (elem (v.reg f.va) h f.ty j)
    let (b, fb) := inValue z f.ty (second s f v h j)
    let (c, fc) := inValue z f.ty (elem (v.reg f.vd) h f.ty j)
    let (r, fr) := fFma m (if neg then a.negate else a) b c
    let (x, fx) := (fmtOf f.ty).finish m z (.exact r)
    (x, fa ||| fb ||| fc ||| fr ||| fx)

/-- VFMA (R208). -/
def execVfma (f : BlockFields) (s : State) : Res := .next (fpFused f false s)

/-- VFNMA (R208). -/
def execVfnma (f : BlockFields) (s : State) : Res := .next (fpFused f true s)

/-- A single-operand function that rounds (R208, R209). -/
def fpUnary (f : BlockFields) (op : FVal → FRes × Flags) (s : State) : State :=
  let m := roundMode s f
  let z := ftzOn s
  elementwise s f [(f.va, f.ty)] fun v h j =>
    let (a, fa) := inValue z f.ty (elem (v.reg f.va) h f.ty j)
    let (r, fr) := op a
    let (x, fx) := (fmtOf f.ty).finish m z r
    (x, fa ||| fr ||| fx)

/-- VFSQRT (R208, R209). -/
def execVfsqrt (f : BlockFields) (s : State) : Res := .next (fpUnary f fSqrt s)

/-- VEXP2 (R208, R209). -/
def execVexp2 (f : BlockFields) (s : State) : Res := .next (fpUnary f fExp2 s)

/-- VLOG2 (R208, R209). -/
def execVlog2 (f : BlockFields) (s : State) : Res := .next (fpUnary f fLog2 s)

/-- VRCP (R208, R209). -/
def execVrcp (f : BlockFields) (s : State) : Res := .next (fpUnary f (fDiv (.fin false 1 0)) s)

/-- VFMIN and VFMAX on two encodings, inputs flushed (R91, R93). -/
def minMaxElems (z max : Bool) (ty : BitVec 5) (a b : Nat) : Nat × Flags :=
  let (x, fx) := flushIn z ty a
  let (y, fy) := flushIn z ty b
  let (r, fr) := (fmtOf ty).minMax max x y (elemValue ty x) (elemValue ty y)
  (r, fx ||| fy ||| fr)

def fpMinMax (f : BlockFields) (max : Bool) (s : State) : State :=
  elementwise s f (binSrcs f) fun v h j =>
    minMaxElems (ftzOn s) max f.ty (elem (v.reg f.va) h f.ty j) (second s f v h j)

/-- VFMIN (R208). -/
def execVfmin (f : BlockFields) (s : State) : Res := .next (fpMinMax f false s)

/-- VFMAX (R208). -/
def execVfmax (f : BlockFields) (s : State) : Res := .next (fpMinMax f true s)

/-- VFSGN (R210): the magnitude of a with the sign that FUNC[2:1] chooses. -/
def execVfsgn (f : BlockFields) (s : State) : Res :=
  .next (let w := tyBits f.ty
    elementwise s f (binSrcs f) fun v h j =>
      let a := elem (v.reg f.va) h f.ty j
      let sa := a / 2 ^ (w - 1) % 2 == 1
      let sb := second s f v h j / 2 ^ (w - 1) % 2 == 1
      let sign := match bits f.func 1 2 with
        | 0 => sb
        | 1 => !sb
        | _ => sa != sb
      (a % 2 ^ (w - 1) + (if sign then 2 ^ (w - 1) else 0), 0))

/-- The class mask of an encoding (R210). -/
def classMask (ty : BitVec 5) (x : Nat) : Nat :=
  let f := fmtOf ty
  let neg := x / 2 ^ (f.eb + f.mb) % 2 == 1
  match f.value x with
  | .nan sig => if sig then 2 ^ 8 else 2 ^ 9
  | .inf n => if n then 2 ^ 0 else 2 ^ 7
  | .fin _ m _ =>
    if m = 0 then (if neg then 2 ^ 3 else 2 ^ 4)
    else if f.isSub x then (if neg then 2 ^ 2 else 2 ^ 5)
    else if neg then 2 ^ 1 else 2 ^ 6

/-- VFCLASS (R210). -/
def execVfclass (f : BlockFields) (s : State) : Res :=
  .next (elementwise s f [(f.va, f.ty)] fun v h j => (classMask f.ty (elem (v.reg f.va) h f.ty j), 0))

end Sys2Proof.Machine
end

