-- ==== Sys2Proof/Machine/VecConv.lean ====
section
/-!
DEFINITION. Conversions: VCVT (R211), VQUANT (R95, R212) and VDEQ (R89, R213).
-/
namespace Sys2Proof.Machine

/-- An element converted from type `sty` to type `dty` (R94, R211). -/
def convertElem (m : RMode) (z isat sat : Bool) (dty sty : BitVec 5) (x : Nat) : Nat × Flags :=
  if isInt sty then
    let i := intElem sty x
    if isInt dty then
      -- under ISAT a narrower type saturates; into one as wide or wider only a negative value is changed
      (if isat && decide (tyBits dty < tyBits sty) then satTo dty i
        else if isat && !isSigned dty && decide (i < 0) then 0 else wrapTo dty i, 0)
    else if isFloat dty then (fmtOf dty).write m z (intValue i)
    else (fmtOf dty).narrowVal m sat (intValue i)
  else
    let (v, fi) := inValue z sty x
    let nv : Flags := if v.isSnan then fNV else 0
    let (r, fr) :=
      if isInt dty then floatToInt m (isSigned dty) (tyBits dty) v
      else if isFloat dty then (fmtOf dty).write m z v
      else (fmtOf dty).narrowVal m sat v
    (r, fi ||| nv ||| fr)

/-- VCVT (R211). -/
def execVcvt (f : BlockFields) (s : State) : Res :=
  .next (elementwise s f [(f.va, f.ty2)] fun v h j =>
    convertElem (roundMode s f) (ftzOn s) (f.func.getLsbD 5) (f.func.getLsbD 8) f.ty f.ty2 (elem (v.reg f.va) h f.ty2 j))

/-- Exponent of the leading bit of a finite nonzero value. -/
def topExp : FVal → Option Int
  | .nan _ => none
  | .inf _ => none
  | .fin _ m e => if m = 0 then none else some (e + (bitLen m : Int) - 1)

/-- A value multiplied by a power of two. -/
def FVal.scaleBy (k : Int) : FVal → FVal
  | .nan s => .nan s
  | .inf n => .inf n
  | .fin n m e => .fin n m (e + k)

/-- A finite value that is no NaN and no infinity. -/
def FVal.isFin : FVal → Bool
  | .nan _ => false
  | .inf _ => false
  | .fin _ _ _ => true

/-- An element of a narrow format from a value (R94). -/
def toNarrow (m : RMode) (sat : Bool) (ty : BitVec 5) (v : FVal) : Nat × Flags :=
  if ty = 17 then toMxint8 m v else (fmtOf ty).narrowVal m sat v

/-- A block of 32 values quantized (R95): its scale byte, its elements, its flags. -/
def quantBlock (m : RMode) (sat : Bool) (ty : BitVec 5) (xs : List FVal) : Nat × List Nat × Flags :=
  if xs.any fun x => !x.isFin then (0xFF, xs.map fun _ => 0, fNV)
  else
    match xs.filterMap topExp with
    | [] => (0, xs.map fun x => if ty = 17 then 0 else (fmtOf ty).pack x.neg 0, 0)
    | e :: es =>
      let xe := min (max (es.foldl max e - emaxOf ty) (-127)) 127
      let r := xs.map fun x => toNarrow m sat ty (x.scaleBy (-xe))
      ((xe + 127).toNat, r.map (·.1), r.foldl (fun fl x => fl ||| x.2) 0)

/-- Group of the register that block k of an MX operand lies in. -/
def blockGroup (h : Shape) (ty : BitVec 5) (k : Nat) : Nat := groupOfBit (elemBit ty (h.pos (32 * k)))

/-- The blocks that VQUANT writes among those of the groups from `lo` up to `hi`: ordinal, scale byte, elements,
flags (R195, R212). -/
def quantBlocks (s : State) (f : BlockFields) (h : Shape) (lo hi : Nat) : List (Nat × Nat × List Nat × Flags) :=
  let v := s.vc
  let src (j : Nat) : FVal × Flags := inValue (ftzOn s) f.ty2 (elem (v.reg f.va) h f.ty2 j)
  ((upTo (h.count / 32)).filter fun k => decide (lo ≤ blockGroup h f.ty k) && decide (blockGroup h f.ty k < hi)).filterMap fun k =>
    if active v f f.ty (32 * k) then
      let xs := (upTo 32).map fun t => src (32 * k + t)
      let (sc, es, fl) := quantBlock (roundMode s f) (f.func.getLsbD 8) f.ty (xs.map (·.1))
      some (k, sc, es, xs.foldl (fun fl x => fl ||| x.2) fl)
    else if f.zm then some (k, 0, List.replicate 32 0, 0)
    else none

/-- VQUANT (R212): stopped inside, it goes on at its destination's progress index (R196, R277). -/
def execVquant (f : BlockFields) (s : State) : Res :=
  .next (let h := blockShape s f
    let v := s.vc
    finishWord
      (if shapeTrap h [f.ty, f.ty2] || mixedBlock v f f.ty h.count then .trap trapOperand s
      else if poisoned v h [(f.va, f.ty2)] (active v f f.ty) then .lost s 0
      else
        let lo := resumeGroup v f.vd
        let hi := stopPoint s lo 128
        let blocks := quantBlocks s f h lo hi
        let puts := blocks.flatMap fun (k, _, es, _) => es.zipIdx.map fun (x, t) => (⟨32 * k + t, x, false⟩ : Put)
        let scales := blocks.map fun (k, sc, _, _) => ((h.block k).1, (h.block k).2, sc)
        let v := (v.put f.vd h f.ty puts).putScales (isFp4 f.ty) f.vd scales
        let ended := (upTo (h.count / 32)).all fun k => decide (blockGroup h f.ty k < hi)
        let s := raiseFlags (s.setVc (setProg v f.vd (if ended then none else some hi))) (blocks.foldl (fun fl b => fl ||| b.2.2.2) 0)
        if ended then .done s else .wait s))

/-- The value of an MX element with its scale byte (R89): all of a block of scale 0xFF is NaN. -/
def mxValue (ty : BitVec 5) (x scale : Nat) : FVal :=
  if scale = 0xFF then .nan false else (elemValue ty x).scaleBy ((scale : Int) - 127)

/-- VDEQ (R213): governance follows the destination. -/
def execVdeq (f : BlockFields) (s : State) : Res :=
  .next (let h := blockShape s f
    let m := roundMode s f
    let z := ftzOn s
    if !shapeTrap h [f.ty, f.ty2] && mixedBlock s.vc f f.ty h.count then finishWord (.trap trapOperand s)
    else elementwise s f [(f.va, f.ty2)] fun v h j =>
      let (r, b) := h.block (j / 32)
      (fmtOf f.ty).write m z (mxValue f.ty2 (elem (v.reg f.va) h f.ty2 j) (v.scale (isFp4 f.ty2) f.va r b)))

end Sys2Proof.Machine
end

