-- ==== Sys2Proof/Machine/Pred.lean ====
section
/-!
DEFINITION. Predicate instructions (R214).
-/
namespace Sys2Proof.Machine

/-- Bits that the predicate instructions work on. -/
def predCount (s : State) : Nat := s.block.vrows.toNat * s.block.vcols.toNat

/-- A predicate instruction with a predicate destination: `res` gives bit j from the registers. -/
def predInstr (f : BlockFields) (res : VCtx → Nat → Nat → Bool) (s : State) : State :=
  let v := s.vc
  let n := predCount s
  let r := res v n
  finishWord (.done (s.setVc (v.putPred f.vd n f.zm (govOn v f) r)))

/-- PAND (R214). -/
def execPand (f : BlockFields) (s : State) : Res :=
  .next (predInstr f (fun v _ j => (v.pred f.va).getLsbD j && (v.pred f.vb).getLsbD j) s)

/-- POR (R214). -/
def execPor (f : BlockFields) (s : State) : Res :=
  .next (predInstr f (fun v _ j => (v.pred f.va).getLsbD j || (v.pred f.vb).getLsbD j) s)

/-- PXOR (R214). -/
def execPxor (f : BlockFields) (s : State) : Res :=
  .next (predInstr f (fun v _ j => (v.pred f.va).getLsbD j != (v.pred f.vb).getLsbD j) s)

/-- PNOT (R214). -/
def execPnot (f : BlockFields) (s : State) : Res :=
  .next (predInstr f (fun v _ j => !(v.pred f.va).getLsbD j) s)

/-- PMOV (R214). -/
def execPmov (f : BlockFields) (s : State) : Res :=
  .next (predInstr f (fun v _ j => (v.pred f.va).getLsbD j) s)

/-- The least active bit of P[va] that is set. -/
def firstSet (f : BlockFields) (v : VCtx) (n : Nat) : Option Nat :=
  (upTo n).find? fun j => govOn v f j && (v.pred f.va).getLsbD j

/-- PBRKB (R214). -/
def execPbrkb (f : BlockFields) (s : State) : Res :=
  .next (predInstr f (fun v n =>
    let k := firstSet f v n
    fun j => match k with | some k => decide (j < k) | none => true) s)

/-- PBRKA (R214). -/
def execPbrka (f : BlockFields) (s : State) : Res :=
  .next (predInstr f (fun v n =>
    let k := firstSet f v n
    fun j => match k with | some k => decide (j ≤ k) | none => true) s)

/-- PSHL (R214). -/
def execPshl (f : BlockFields) (s : State) : Res :=
  .next (let k := bits f.func 0 8
    predInstr f (fun v n j =>
      if f.func.getLsbD 8 then decide (j + k < n) && (v.pred f.va).getLsbD (j + k)
      else decide (k ≤ j) && (v.pred f.va).getLsbD (j - k)) s)

/-- An n64 value written into bytes 0 to 7 of row 0 of Vd, whatever the shape (R214). -/
def predValue (f : BlockFields) (val : VCtx → Nat → Nat) (s : State) : State :=
  let h : Shape := ⟨s.block.vrows.toNat, s.block.vcols.toNat, 0, 0⟩
  finishWord (.done (s.setVc (s.vc.put f.vd h tyN64 [⟨0, val s.vc (predCount s), false⟩])))

/-- PANY (R214). -/
def execPany (f : BlockFields) (s : State) : Res :=
  .next (predValue f (fun v n => (firstSet f v n).isSome.toNat) s)

/-- PCNT (R214). -/
def execPcnt (f : BlockFields) (s : State) : Res :=
  .next (predValue f (fun v n => ((upTo n).filter fun j => govOn v f j && (v.pred f.va).getLsbD j).length) s)

/-- PFIRST (R214). -/
def execPfirst (f : BlockFields) (s : State) : Res :=
  .next (predValue f (fun v n => (firstSet f v n).getD (2 ^ 64 - 1)) s)

end Sys2Proof.Machine
end

