-- ==== Sys2Proof/Machine/Cross.lean ====
section
/-!
DEFINITION. Cross-lane instructions (R215 to R220).
-/
namespace Sys2Proof.Machine

/-- The index type of VPERM for an element type (R216). -/
def permType (ty : BitVec 5) : BitVec 5 :=
  match tyBits ty with
  | 32 => 5
  | 64 => 7
  | _ => 3

/-- The shape of the index operand: for an M type, one index per block (R216). -/
def permShape (h : Shape) (ty : BitVec 5) : Shape := if isMx ty then { h with cols := h.cols / 32 } else h

/-- VPERM (R216). -/
def execVperm (f : BlockFields) (s : State) : Res :=
  .next (let h := blockShape s f
    let it := permType f.ty
    let hi := permShape h f.ty
    if !shapeTrap h [f.ty] && (hi.bad it || mixedBlock s.vc f f.ty h.count && isMx f.ty) then finishWord (.trap trapOperand s)
    else if !shapeTrap h [f.ty] && poisoned s.vc hi [(f.vb, it)] (unitOn s.vc f) then finishWord (.lost s 0)
    else moveInstr s f false (fun v => v.source f.va f.ty) fun v _ k => .copy (elem (v.reg f.vb) hi it k))

/-- VSLIDE (R217). -/
def execVslide (f : BlockFields) (s : State) : Res :=
  .next (let k := (xOperand s f).toNat
    let n := unitSize f.ty
    moveInstr s f (isMx f.ty && k % 32 != 0) (fun v => v.source f.va f.ty) fun _ _ j =>
      if f.func.getLsbD 0 then .copy (j + k / n) else if k / n ≤ j then .copy (j - k / n) else .zero)

/-- VEXTR (R217). -/
def execVextr (f : BlockFields) (s : State) : Res :=
  .next (moveInstr s f false (fun v => v.source f.va f.ty) fun _ _ _ => .copy (xOperand s f).toNat)

/-- VXPOSE (R218). -/
def execVxpose (f : BlockFields) (s : State) : Res :=
  .next (let h := blockShape s f
    moveInstr s f (h.rows != h.cols) (fun v => v.source f.va f.ty) fun _ h k => .copy (k % h.cols * h.cols + k / h.cols))

/-- Active units of an instruction, ascending. -/
def activeUnits (v : VCtx) (f : BlockFields) (h : Shape) : List Nat := (upTo (units h f.ty)).filter (unitOn v f)

/-- VCOMPR and VEXPND (R219): P[pm] selects. `pairs` are destination and source units, `rest` the
units that become zero under zm. -/
def selectInstr (s : State) (f : BlockFields) (pairs : List Nat → List (Nat × Nat)) : State :=
  let h := blockShape s f
  let v := s.vc
  finishWord
    (if shapeTrap h [f.ty] || (isMx f.ty && mixedBlock v f f.ty h.count) then .trap trapOperand s
    else
      let ps := pairs (activeUnits v f h)
      let rest := (upTo (units h f.ty)).filter fun k => !ps.any fun p => p.1 == k
      let l := ps.map (fun (k, i) => (k, Moved.copy i)) ++ (if f.zm then rest.map fun k => (k, .zero) else [])
      .done (s.setVc (moveUnits v f.vd h f.ty (v.source f.va f.ty) l)))

/-- VCOMPR (R219). -/
def execVcompr (f : BlockFields) (s : State) : Res :=
  .next (selectInstr s f fun act => act.zipIdx.map fun (j, k) => (k, j))

/-- VEXPND (R219). -/
def execVexpnd (f : BlockFields) (s : State) : Res :=
  .next (selectInstr s f fun act => act.zipIdx)

/-! ## Exchanges (R220) -/

/-- An exchange in a leg of a FORK region is illegal (R197). -/
def exchangeIllegal (s : State) : Bool :=
  match s.here.leg, s.regionOf s.cur.unit with
  | some _, some r => !r.indep
  | _, _ => false

/-- The core at a span index next to the issuing core's: +1 or −1, around the span. -/
def neighbour (s : State) (up : Bool) : Nat :=
  match s.here.strand with
  | none => s.cur.unit
  | some h =>
    match s.strand? h with
    | none => s.cur.unit
    | some x => h + (s.cur.unit - h + (if up then 1 else x.size - 1)) % x.size

def Core.xbuf (c : Core) (fwd : Bool) : Option XBuf := if fwd then c.xfwd else c.xbwd
def Core.setXbuf (c : Core) (fwd : Bool) (b : Option XBuf) : Core := if fwd then { c with xfwd := b } else { c with xbwd := b }

/-- The image that XSEND sends: the bytes of the active shape, every other position zero (R220). -/
def sendImage (v : VCtx) (n ty : BitVec 5) (h : Shape) : XBuf where
  image := (upTo h.rows).foldl (fun m r => putBits m (4096 * r) ((v.reg n).extractLsb' (4096 * r) (h.cols * tyBits ty))) 0
  poison := (putGroups h ty ((upTo h.count).map fun j => ⟨j, 0, false⟩)).foldl (fun m g => putBit m g ((v.poi n).getLsbD g)) 0
  scales :=
    if isMx ty then
      (upTo (h.count / 32)).foldl (fun m k =>
        let (r, b) := h.block k
        putBits m (8 * (r * scalePitch (isFp4 ty) + b)) (BitVec.ofNat 8 (v.scale (isFp4 ty) n r b))) 0
    else 0

/-- XSEND (R220): into the neighbour's buffer once it is empty. -/
def execXsend (f : BlockFields) (s : State) : Res :=
  .next (let h := blockShape s f
    let fwd := !f.func.getLsbD 0
    let nb := neighbour s fwd
    finishWord
      (if exchangeIllegal s then .trap trapIllegal s
      else if shapeTrap h [f.ty] then .trap trapOperand s
      else if ((s.core nb).xbuf fwd).isSome || s.vaulting nb then .wait s
      else .done (s.modCore nb fun c => c.setXbuf fwd (some (sendImage s.vc f.va f.ty h)))))

/-- An exchange buffer as a source. -/
def XBuf.source (b : XBuf) (ty : BitVec 5) : Source :=
  ⟨b.image, b.poison, fun r k => bits b.scales (8 * (r * scalePitch (isFp4 ty) + k)) 8⟩

/-- XRECV (R220): out of the core's own buffer once it is full; the sender may go on. -/
def execXrecv (f : BlockFields) (s : State) : Res :=
  .next (let fwd := !f.func.getLsbD 0
    let h := blockShape s f
    if exchangeIllegal s then finishWord (.trap trapIllegal s)
    else if shapeTrap h [f.ty] || (isMx f.ty && mixedBlock s.vc f f.ty h.count) then finishWord (.trap trapOperand s)
    else
      match s.here.xbuf fwd with
      | none => finishWord (.wait s)
      | some b =>
        let s := s.modHere fun c => c.setXbuf fwd none
        moveInstr s f false (fun _ => b.source f.ty) fun _ _ k => .copy k)

end Sys2Proof.Machine
end

