-- ==== Sys2Proof/Machine/Reduce.lean ====
section
/-!
DEFINITION. Reductions (R100 to R103, R221). A reduction that is stopped inside keeps its progress state in the
sequencer (R103).
-/
namespace Sys2Proof.Machine

/-- A reduction: `run` takes v0, the active elements in their positions (masked-off ones absent), the progress
state and the position at which this turn ends; it gives the result, or the progress state, and the flags. -/
def reduceInstr (f : BlockFields) (run : Nat → List (Option Nat) → Option RedState → Nat → (Nat ⊕ RedState) × Flags) (s : State) : State :=
  let h := blockShape s f
  let v := s.vc
  let on := active v f f.ty
  finishWord
    (if shapeTrap h [f.ty] then .trap trapOperand s
    else if poisoned v h [(f.va, f.ty)] on || elemBad (v.poi f.vb) h f.ty 0 then .lost s 0
    else
      let xs := (upTo h.count).map fun j => if on j then some (elem (v.reg f.va) h f.ty j) else none
      let red := s.here.seq.red
      match run (elem (v.reg f.vb) h f.ty 0) xs red (stopPoint s (red.map (·.next) |>.getD 0) h.count) with
      | (.inl r, fl) => .done (raiseFlags (s.setVc (v.put f.vd h f.ty [⟨0, r, false⟩])) fl)
      | (.inr r, fl) => .wait (raiseFlags (setRed s (some r)) fl))

/-- One addition of two encodings, rounded once (R100, R101). -/
def addElems (m : RMode) (z : Bool) (ty : BitVec 5) (a b : Nat) : Nat × Flags :=
  if isFloat ty then
    let (x, fx) := inValue z ty a
    let (y, fy) := inValue z ty b
    let (r, fr) := fAdd m x y
    let (w, fw) := (fmtOf ty).write m z r
    (w, fx ||| fy ||| fr ||| fw)
  else ((a + b) % 2 ^ tyBits ty, 0)

/-- The absence rule of R101. -/
def joinNodes (add : Nat → Nat → Nat × Flags) (a b : Option Nat × Flags) : Option Nat × Flags :=
  match a.1, b.1 with
  | some x, some y =>
    let (r, fr) := add x y
    (some r, a.2 ||| b.2 ||| fr)
  | some x, none => (some x, a.2 ||| b.2)
  | none, y => (y, a.2 ||| b.2)

/-- The pairwise tree over the leaves (R101): the left part is the largest power of two below n. -/
def sumTree (add : Nat → Nat → Nat × Flags) : Nat → List (Option Nat) → Option Nat × Flags
  | _, [] => (none, 0)
  | _, [x] => (x, 0)
  | 0, x :: _ => (x, 0)
  | fuel + 1, l =>
    let m := 2 ^ Nat.log2 (l.length - 1)
    joinNodes add (sumTree add fuel (l.take m)) (sumTree add fuel (l.drop m))

/-- A fold over the active elements in ascending order. Without any the result is v0 as it stands (R100): its bits, with
no flag. For VREDMIN and VREDMAX, where FTZ or a NaN would change a combined value, that is the model's choice (DESIGN
CHOICE, log entry 63). -/
def foldActive (step : Nat → Nat → Nat × Flags) (v0 : Nat) (xs : List (Option Nat)) : Nat × Flags :=
  xs.foldl (fun acc x =>
    match x with
    | none => acc
    | some x =>
      let (r, fr) := step acc.1 x
      (r, acc.2 ||| fr)) (v0, 0)

/-- An ordered reduction up to a position (R100, R102, R103). -/
def foldRun (step : Nat → Nat → Nat × Flags) (v0 : Nat) (xs : List (Option Nat)) (red : Option RedState) (stop : Nat) :
    (Nat ⊕ RedState) × Flags :=
  let next := (red.map (·.next)).getD 0
  let acc := match red with
    | some ⟨_, (_, some x) :: _⟩ => x
    | _ => v0
  let (r, fl) := foldActive step acc ((xs.take stop).drop next)
  (if xs.length ≤ stop then .inl r else .inr ⟨stop, [(0, some r)]⟩, fl)

/-- One more subtree joins the completed ones: those of equal size combine (R101, R103). The youngest stands first. -/
def joinEqual (add : Nat → Nat → Nat × Flags) (n : Nat) (x : Option Nat × Flags) : List (Nat × Option Nat) → List (Nat × Option Nat) × Flags
  | [] => ([(n, x.1)], x.2)
  | (k, y) :: rest =>
    if k = n then joinEqual add (2 * n) (joinNodes add (y, 0) x) rest else ((n, x.1) :: (k, y) :: rest, x.2)

/-- A pairwise tree up to a position (R101, R103): the leaves join one by one; at the end the subtrees that are left
combine, the smallest first, and their sum is added to v0. -/
def treeRun (add : Nat → Nat → Nat × Flags) (v0 : Nat) (xs : List (Option Nat)) (red : Option RedState) (stop : Nat) :
    (Nat ⊕ RedState) × Flags :=
  let next := (red.map (·.next)).getD 0
  let start := ((red.map (·.vals)).getD []).reverse
  let (l, fl) := ((xs.take stop).drop next).foldl (fun (acc : List (Nat × Option Nat) × Flags) x =>
    let (l, fl) := joinEqual add 1 (x, 0) acc.1
    (l, acc.2 ||| fl)) (start, 0)
  if xs.length ≤ stop then
    match l.foldl (fun acc y => joinNodes add (y.2, 0) acc) (none, 0) with
    | (none, _) => (.inl v0, fl)
    | (some x, ft) =>
      let (r, fr) := add v0 x
      (.inl r, fl ||| ft ||| fr)
  else (.inr ⟨stop, l.reverse⟩, fl)

/-- A whole tree reduction (R101). -/
def treeWhole (add : Nat → Nat → Nat × Flags) (v0 : Nat) (xs : List (Option Nat)) : Nat × Flags :=
  match sumTree add 14 xs with
  | (none, _) => (v0, 0)
  | (some x, fl) =>
    let (r, fr) := add v0 x
    (r, fl ||| fr)

/-- VREDSUM (R101, R103, R221): in one turn the tree of R101, and otherwise its subtrees one after another. -/
def execVredsum (f : BlockFields) (s : State) : Res :=
  .next (let add := addElems (roundMode s f) (ftzOn s) f.ty
    reduceInstr f (fun v0 xs red stop =>
      if red.isNone && decide (xs.length ≤ stop) then
        let (r, fl) := treeWhole add v0 xs
        (.inl r, fl)
      else treeRun add v0 xs red stop) s)

/-- VREDOSUM (R100, R221). -/
def execVredosum (f : BlockFields) (s : State) : Res :=
  .next (reduceInstr f (foldRun (addElems (roundMode s f) (ftzOn s) f.ty)) s)

/-- The lesser or greater of two elements (R102). -/
def reduceMinMax (z max : Bool) (ty : BitVec 5) (a b : Nat) : Nat × Flags :=
  if isFloat ty then minMaxElems z max ty a b
  else
    let x := intElem ty a
    let y := intElem ty b
    (if max then (if x < y then b else a) else if y < x then b else a, 0)

/-- VREDMIN (R102, R221). -/
def execVredmin (f : BlockFields) (s : State) : Res :=
  .next (reduceInstr f (foldRun (reduceMinMax (ftzOn s) false f.ty)) s)

/-- VREDMAX (R102, R221). -/
def execVredmax (f : BlockFields) (s : State) : Res :=
  .next (reduceInstr f (foldRun (reduceMinMax (ftzOn s) true f.ty)) s)

/-- VREDAND (R102, R221). -/
def execVredand (f : BlockFields) (s : State) : Res :=
  .next (reduceInstr f (foldRun fun a b => (Nat.land a b, 0)) s)

/-- VREDOR (R102, R221). -/
def execVredor (f : BlockFields) (s : State) : Res :=
  .next (reduceInstr f (foldRun fun a b => (Nat.lor a b, 0)) s)

end Sys2Proof.Machine
end

