-- ==== Sys2Proof/Machine/VecMem.lean ====
section
/-!
DEFINITION. Vector memory instructions (R222 to R229, R74, R108, R115, R123 to R126, R136 to R139): the
units an instruction moves, their translation and faults, the accesses themselves, and the
instructions. A word's accesses are made in one turn; its stores and adds then travel to their homes.
-/
namespace Sys2Proof.Machine

/-! ## Units -/

/-- A part of a unit within one line: where it goes, its offset in the unit, its length. -/
structure Piece where
  tg : Target
  off : Nat
  len : Nat
  deriving DecidableEq, Repr

/-- Translate every part of a unit for the strand context (R222). -/
def unitPieces (s : State) (write : Bool) (m : MUnit) : Except TrapInfo (List Piece) :=
  (splitLines m.va.toNat m.n 0 (m.n + 1)).foldr (fun p rest =>
    let a := m.va + BitVec.ofNat 64 p.1
    match s.xlate s.cur.unit 0 (if write then .store else .load) write a with
    | .error st => .error { trapXlate false st a with elem := elemField m.j }
    | .ok tg =>
      match rest with
      | .error t => .error t
      | .ok l => .ok (⟨tg, p.1, p.2⟩ :: l)) (.ok [])

/-- Priority of the causes that a memory instruction meets (R314). -/
def causePrio (c : Byte) : Nat :=
  match c.toNat with
  | 3 => 5
  | 5 => 7
  | 7 => 9
  | 8 => 10
  | _ => 8

/-- A fault of a unit. -/
abbrev UFault := MUnit × TrapInfo

/-- Fault `x` is reported before fault `y` (R315): its group is lower; in the group its cause has the lower priority
number, and of equal ones the lower code. -/
def faultBefore (x y : UFault) : Bool :=
  decide (x.1.group < y.1.group) || (x.1.group == y.1.group &&
    (decide (causePrio x.2.cause < causePrio y.2.cause) ||
      (causePrio x.2.cause == causePrio y.2.cause && decide (x.2.cause.toNat < y.2.cause.toNat))))

/-- The fault that is reported (R315): of equal causes in a group, that of the lowest unit. -/
def worst (l : List UFault) : Option UFault :=
  l.foldl (fun (best : Option UFault) x =>
    match best with
    | none => some x
    | some b => if faultBefore x b then some x else some b) none

/-- The units whose accesses are made when `fault` stops the instruction: those of lower groups, since
no group is performed in part (R196). -/
def before (fault : Option UFault) {α : Type} (g : α → Nat) (l : List α) : List α :=
  match fault with
  | none => l
  | some f => l.filter fun x => g x < f.1.group

/-- The group at which the instruction ends in this turn, when that is not its end: that of its fault, or the one at
which it stops inside (R196, R277). -/
def cutAt (s : State) (from_ : Nat) (all : List MUnit) (fault : Option UFault) : Option (Nat × Option UFault) :=
  let hi := stopPoint s from_ 128
  match fault with
  | some x => if x.1.group < hi || s.here.seq.stop = none then some (x.1.group, some x) else some (hi, none)
  | none => if s.here.seq.stop = none || all.all (fun m => decide (m.group < hi)) then none else some (hi, none)

/-- The units of groups below a cut. -/
def below (cut : Option (Nat × Option UFault)) {α : Type} (g : α → Nat) (l : List α) : List α :=
  match cut with
  | none => l
  | some c => l.filter fun x => g x < c.1

/-- The units that are active, each with its parts, and the faults among them. -/
def planUnits (s : State) (write : Bool) (l : List MUnit) : List (MUnit × List Piece) × List UFault :=
  (l.filter (·.on)).foldr (fun m acc =>
    match unitPieces s write m with
    | .ok ps => ((m, ps) :: acc.1, acc.2)
    | .error t => (acc.1, (m, t) :: acc.2)) ([], [])

/-- A unit touches a device page. -/
def onDevice (x : MUnit × List Piece) : Bool := x.2.any fun p => p.tg.attr == .device

/-- The page-attribute trap of units on device pages (R116). -/
def deviceFaults (l : List (MUnit × List Piece)) : List UFault :=
  (l.filter onDevice).map fun x => (x.1, { trapAt 0x08 x.1.va with elem := elemField x.1.j })

/-- Some access is held in a speculative leg: it is to an uncacheable or device page (R59, R197). -/
def needsHold (l : List (MUnit × List Piece)) : Bool := l.any fun x => x.2.any fun p => !p.tg.attr.cached

/-- Every page of the units' parts is in the TLBs after the access (R307). -/
def fillPages (s : State) (l : List (MUnit × List Piece)) : State :=
  ((l.flatMap fun x => x.2.map fun p => (x.1.va + BitVec.ofNat 64 p.off).toNat / 2 ^ 18).eraseDups).foldl
    (fun s k => s.fillPage s.cur.unit 0 (BitVec.ofNat 64 (k * 2 ^ 18))) s

/-! ## Request headers (R109) -/

/-- Lines of the list, one for each slice whose header has not been answered. -/
def unanswered (s : State) (lines : List Nat) : List Nat :=
  let u := s.cur.unit
  lines.foldl (fun l k =>
    if s.here.seq.answered.contains (State.sliceKey u k) || l.any fun j => State.sliceKey u j == State.sliceKey u k then l else l ++ [k]) []

/-- The header for a line's slice is on its way, or held back after a refusal. -/
def headerOut (s : State) (line : Nat) : Bool :=
  let u := s.cur.unit
  (s.fab.misses.any fun m => m.unit == u && m.ctx == 8 && State.sliceKey u m.line == State.sliceKey u line) ||
    s.here.seq.refused.any fun x => State.sliceKey u x.1.line == State.sliceKey u line

/-- Send a header; a refused one is kept, with the time at which it may be sent again. -/
def sendHeader (s : State) (h : Header) : State :=
  if headerOut s h.line then s
  else
    match requestLine s s.cur.unit 8 h false false with
    | (.refused _ _ ready, s) => s.modHere fun c => { c with seq := { c.seq with refused := c.seq.refused ++ [(h, ready)] } }
    | (_, s) => s

/-- The header of a word for the slice of a line (R109): it starts at the first part there that the word touches, and
its stride leads to the next. -/
def wordHeader (s : State) (kind : HeaderKind) (l : List (MUnit × List Piece)) (line : Nat) : Header :=
  let here := l.flatMap fun x => (x.2.filter fun p => State.sliceKey s.cur.unit (p.tg.pa / 64) == State.sliceKey s.cur.unit line).map
    fun p => (x.1.lane, p)
  match here with
  | [] => ⟨kind, 0, 64 * line, 0, 64, 1⟩
  | (lane, p) :: rest =>
    let stride : Int := match rest with
      | (_, q) :: _ => (q.tg.pa : Int) - (p.tg.pa : Int)
      | [] => 0
    ⟨kind, lane, p.tg.pa, stride, p.len, here.length⟩

/-- The word's headers for the slices of these lines: whether all are answered, and the state with every one sent.
-/
def headers (s : State) (kind : HeaderKind) (l : List (MUnit × List Piece)) (lines : List Nat) : Bool × State :=
  match unanswered s lines with
  | [] => (true, s)
  | ks => (false, ks.foldl (fun s' k => sendHeader s' (wordHeader s kind l k)) s)

/-- The cacheable lines of the parts that the leg cache does not hold as `held` asks: those that a header names. -/
def missing (s : State) (held : Nat → Bool) (l : List (MUnit × List Piece)) : List Nat :=
  if s.cacheOff s.cur.unit then []
  else ((l.flatMap fun x => x.2.filterMap fun p => if p.tg.attr.cached then some (p.tg.pa / 64) else none).eraseDups).filter fun k => !held k

/-! ## Loads -/

/-- A pending store supplies every byte of the part: the core reads its own value at once (R112, R123). -/
def supplied (s : State) (p : Piece) : Bool :=
  (upTo p.len).all fun i => (s.ownPend s.cur.unit 0).any fun q => q.add.isNone && q.covers (p.tg.pa + i)

/-- What keeps a vector load waiting: an add to its bytes, or the host's copy (R123, R363); an earlier
access of its queue that is not performed (R125), unless that supplies a cacheable value (R116); an earlier one on the
far side of an LSYNC that is not performed at core scope (R126). -/
def vecLoadWaits (s : State) (lane : Nat) (p : Piece) : Bool :=
  let u := s.cur.unit
  loadWaits s u 0 p.tg.pa p.len || (p.tg.attr == .device && s.devicePending u 0 (s.blockEarlier u)) ||
    insideOver s u 0 (s.blockEarlier u) p.tg p.len ||
    ((!supplied s p || !p.tg.attr.cached) && (corePerformed s.fab.pend).any fun (q, done) => q.ownedBy 0 (s.ownerOf u 0) &&
      (q.path == .lane lane (sliceOf p.tg.pa) || (q.path != .scalar && decide (q.epoch < (s.ctx u 0).epoch) && !done)))

/-- A line that a vector load has fetched, with its lease: a leg's own line keeps what the leg has written. -/
def fetchLine (s : State) (since u line : Nat) (lease : Option Nat) (stamp : Nat) : Option State :=
  if (s.core u).lines.any fun x => x.line == line && x.st == .L then
    some (s.modCore u fun c => { c with lines := c.lines.map fun x =>
      if x.line = line then { x with filled := true, lease := lease, used := stamp } else x })
  else installSince s since u ⟨line, .S, 0, 0, 0, 0, 0, false, true, lease, BitVec.ofNat 4 (s.issuePart u 0), 0, stamp, [], 0⟩

/-- The line of a vector load is there: in a versioned leg it is held and its sectors are exposed; its lease is
granted; an owner elsewhere keeps a clean copy (R49, R50, R106, R111). `none` when the load must wait. -/
def vecLine (s : State) (since pa n : Nat) : Option State :=
  let u := s.cur.unit
  let line := pa / 64
  if s.cacheBarred u || (s.versioned u 0 && ownsDirty s u line) then none
  else if lineHit s u 0 pa n then
    let s := touchLine s u line
    some (if s.versioned u 0 then legLoaded s u pa n else s)
  else
    match leaseFor s u line (s.issuePart u 0) with
    | none => none
    | some (lease, s) =>
      if s.cacheOff u then some s
      else
        let (stamp, s) := useTick (shareLine s u line)
        (fetchLine s since u line lease stamp).map fun s => if s.versioned u 0 then legLoaded s u pa n else s

/-- Bytes of one part of a load, which of them are poisoned, and the poisoned sectors that an error-tolerant page
gives as zeros. -/
def loadPiece (s : State) (p : Piece) : List Byte × List Bool × List Nat × State :=
  let u := s.cur.unit
  let bad := s.badSectors u 0 p.tg.pa p.len
  let bs := view s u 0 p.tg.pa p.len
  let s' := markRead s u 0 p.tg.pa p.len
  match p.tg.attr with
  | .errorTolerant => (tolerate s u 0 p.tg.pa bs, bs.map fun _ => false, bad, s')
  | _ => (bs, (upTo p.len).map fun i => bad.contains ((p.tg.pa + i) / 16), [], s')

/-- A loaded unit: its bytes, and which of them an uncorrectable error covers. -/
structure Loaded where
  m : MUnit
  bytes : List Byte
  bads : List Bool

/-- An uncorrectable error is among the bytes of the unit. -/
def Loaded.bad (x : Loaded) : Bool := x.bads.any id

/-- Load one unit; with it the tolerated sectors by group. -/
def loadUnit (s : State) (x : MUnit × List Piece) : Loaded × List (Nat × Nat) × State :=
  let (bs, bads, tol, s) := x.2.foldl (fun (acc : List Byte × List Bool × List (Nat × Nat) × State) p =>
    let (b, bd, t, s) := loadPiece acc.2.2.2 p
    (acc.1 ++ b, acc.2.1 ++ bd, acc.2.2.1 ++ t.map fun k => (x.1.group, k), s)) ([], [], [], s)
  (⟨x.1, bs, bads⟩, tol, s)

/-- What the accesses of an instruction come to. -/
inductive MRun where
  | wait (s : State)
  | ok (l : List Loaded) (s : State)

/-- Every part of the units passes a step that may have to wait. -/
def allPieces (l : List (MUnit × List Piece)) (f : State → MUnit → Piece → Option State) (s : State) : Option State :=
  l.foldl (fun s x => x.2.foldl (fun s p => s.bind fun s => f s x.1 p) s) (some s)

/-- The lines of a load are there, every header answered; `none` while one is not. -/
def loadLines (s : State) (l : List (MUnit × List Piece)) : Option State :=
  allPieces l (fun s' _ p => if p.tg.attr.cached && !supplied s p then vecLine s' s.fab.useSeq p.tg.pa p.len else some s') s

/-- Load every unit of the list, or wait with no access made. -/
def loadAll (s : State) (l : List (MUnit × List Piece)) : MRun :=
  let s := fillPages s l
  if l.any fun x => x.2.any fun p => vecLoadWaits s x.1.lane p then .wait s
  else
    let u := s.cur.unit
    match headers s .load l (missing s (fun k => (s.core u).lines.any fun x => x.live k s.time) l) with
    | (false, s) => .wait s
    | (true, s) =>
      match loadLines s l with
      | none => .wait s
      | some s =>
        let (out, tol, s) := l.foldl (fun (acc : List Loaded × List (Nat × Nat) × State) x =>
          let (y, t, s) := loadUnit acc.2.2 x
          (y :: acc.1, acc.2.1 ++ t, s)) ([], [], s)
        .ok out.reverse (addSub s s.cur.unit 0 tol.eraseDups.length)

/-! ## Stores -/

/-- Ownership of a line for a vector store, which its header has obtained (R106, R110). `none` while the line that
it replaces may not leave. -/
def vecOwn (s : State) (since line : Nat) : Option State :=
  let u := s.cur.unit
  if s.cacheBarred u then none
  else if s.cacheOff u then some s
  else if s.owns u line then some (ownLine s u 0 line)
  else if !s.hostFree line then none
  else
    let (stamp, s) := useTick (takeOwnership s u line)
    installSince s since u ⟨line, .M, 0, 0, 0, 0, 0, false, true, none, BitVec.ofNat 4 (s.issuePart u 0), 0, stamp, [], 0⟩

/-- Make one part of a vector store or scatter-add, at virtual address `va`. `none` when a leg has no place for the
line (R53), or the core for an owned one. -/
def storePiece (s : State) (since lane inst : Nat) (add : Option (BitVec 5)) (va : Word) (tg : Target) (bytes : List Byte) : Option State :=
  let u := s.cur.unit
  let entry (s : State) : PStore := storeEntry s u 0 (.lane lane (sliceOf tg.pa)) inst add false va tg bytes
  let tell (s : State) : State := if s.inLeg u 0 then broadcast s u (sectorsOf tg.pa bytes.length) else s
  if !tg.attr.cached || add.isSome then some (tell (pushStore s (entry s)))
  else if s.versioned u 0 then legStore s u va tg bytes
  else (vecOwn s since (tg.pa / 64)).map fun s => tell (pushStore s (entry s))

/-- The parts of the units that take a line of the leg cache: an add goes to its home, and a leg's store needs no
header for its own version (R49, R115). -/
def storeMissing (s : State) (add : Option (BitVec 5)) (l : List (MUnit × List Piece)) : List Nat :=
  if add.isSome || s.versioned s.cur.unit 0 then [] else missing s (s.owns s.cur.unit) l

/-- Store every unit of the list, or wait with nothing stored. -/
def storeAll (s : State) (inst : Nat) (add : Option (BitVec 5)) (data : MUnit → List Byte) (l : List (MUnit × List Piece)) :
    Except State State :=
  let s := fillPages s l
  let u := s.cur.unit
  let blocked (p : Piece) : Bool := copyReads s u 0 (s.blockEarlier u) p.tg.pa p.len || insideOver s u 0 (s.blockEarlier u) p.tg p.len ||
    (p.tg.attr == .device && deviceTransfer s u 0 (s.blockEarlier u))
  if l.any fun x => x.2.any blocked then .error s
  else
    match headers s .store l (storeMissing s add l) with
    | (false, s) => .error s
    | (true, s) =>
      match allPieces l (fun s' m p =>
          storePiece s' s.fab.useSeq m.lane inst add (m.va + BitVec.ofNat 64 p.off) p.tg ((data m).drop p.off |>.take p.len)) s with
      | none => .error s
      | some s' => .ok s'

/-! ## The scratchpad (R107, R226) -/

/-- The trap of a unit in the scratchpad, if it has one. -/
def spFault (c : Core) (m : MUnit) : Option UFault :=
  (spCheck c m.va.toNat m.n).map fun t => (m, { t with faddr := m.va, elem := elemField m.j })

/-- The lock of R186 keeps the units back. -/
def spHeldBack (c : Core) (l : List MUnit) : Bool := l.any fun m => c.spLocked 0 m.va.toNat m.n

/-- Load units from the scratchpad. -/
def spLoadAll (s : State) (l : List MUnit) : List Loaded :=
  let c := s.here
  l.map fun m => ⟨m, c.sp.readN m.va.toNat m.n, (upTo m.n).map fun i => c.spPoison.contains ((m.va.toNat + i) / 16)⟩

/-- Store units into the scratchpad; `none` when the undo log is full (R58). -/
def spStoreAll (s : State) (data : MUnit → List Byte) (l : List MUnit) : Option State :=
  l.foldl (fun s m => s.bind fun s => spWrite s s.cur.unit (s.speculative s.cur.unit 0) m.va.toNat (data m)) (some s)

/-- A copy into the scratchpad of core `u`, its issuer. -/
def Copy.intoOwn (c : Copy) (u : Nat) : Bool := c.dstk == 1 || (c.dstk == 2 && c.dcore == u)

/-- A granule that a chained load reads has not arrived (R108): the youngest earlier copy of the context
into this scratchpad whose destination includes it has not landed every granule of its bank up to it. -/
def chainWaits (s : State) (g : Nat) : Bool :=
  let u := s.cur.unit
  let mine := s.here.copies.filter fun c =>
    c.ctx == 0 && c.intoOwn u && decide ((s.block.mark - c.handle - 1).toNat < 2 ^ 31) &&
      (upTo c.chunks).any fun k => (chunkGranules c k).contains g
  match mine.getLast? with
  | none => false
  | some c => (upTo c.chunks).any fun k =>
      !c.landed.contains k && (chunkGranules c k).any fun x => x % 32 == g % 32 && decide (x ≤ g)

/-! ## VLD, VST, VLDS, VSTS (R222, R223, R226) -/

/-- The stride takes part in the addresses (R222). -/
def usesStride (f : BlockFields) : Bool := bits f.func 0 2 == 1 || (bits f.func 0 2 == 2 && (f.sh != 1 || isScl f || isMx f.ty))

/-- Operand checks of R70, R71, R136, R195 and R223, then the alignment of B and S (R222). FADDR of a misaligned S is B:
which address it is is not stated (DESIGN CHOICE, log entry 92). -/
def memTrap (s : State) (f : BlockFields) (acq : Bool) : Option TrapInfo :=
  let h := blockShape s f
  let b := xOperand s f
  let z := if isMx f.ty || isScl f then 1 else tyBytes f.ty
  let badShape :=
    if isScl f then
      h.cols % 32 != 0 || (decide (16 < h.cols / 32) && !sclFp4 f) || h.sh == 2 || (h.sh == 1 && decide (h.rows ≤ h.slice))
    else shapeTrap h [f.ty] || (isMx f.ty && mixedBlock s.vc f f.ty h.count)
  if badShape || (acq && f.pm == 0) then some trapOperand
  else if b.toNat % z ≠ 0 || (usesStride f && (xStride s f).toNat % z != 0) then some (trapAt 0x05 b)
  else none

/-- The elements of a packed block. -/
def unpackBlock (ty : BitVec 5) (bs : List Byte) : List Nat :=
  let x := bytesBV 256 bs
  (upTo 32).map fun m => bits x (tyWidth ty * m) (tyWidth ty)

/-- The packed bytes of a block of elements. -/
def packBlock (ty : BitVec 5) (xs : List Nat) : List Byte :=
  bvBytes (blockBytes ty) (xs.zipIdx.foldl (fun (m : BitVec 256) (x, i) => putBits m (tyWidth ty * i) (BitVec.ofNat (tyWidth ty) x)) 0)

/-- Little-endian bytes as a number. -/
def bytesNat (bs : List Byte) : Nat := (bytesBV (8 * bs.length) bs).toNat

/-- The elements that a loaded unit gives. -/
def loadedPuts (f : BlockFields) (x : Loaded) : List Put :=
  if isMx f.ty then (unpackBlock f.ty (x.bytes.take (blockBytes f.ty))).zipIdx.map fun (e, t) => ⟨x.m.j + t, e, x.bad⟩
  else [⟨x.m.j, bytesNat x.bytes, x.bad⟩]

/-- The zeros of a masked-off unit. -/
def zeroPuts (f : BlockFields) (m : MUnit) : List Put :=
  (upTo (unitSize f.ty)).map fun t => ⟨m.j + t, 0, false⟩

/-- A vector context after a load: the loaded units, and under zm the masked-off ones, in Vd. -/
def landLoad (v : VCtx) (f : BlockFields) (h : Shape) (l : List Loaded) (masked : List MUnit) : VCtx :=
  if isScl f then
    v.putScales (sclFp4 f) f.vd (l.map fun x => ((h.block x.m.idx).1, (h.block x.m.idx).2, bytesNat x.bytes))
  else v.put f.vd h f.ty (l.flatMap (loadedPuts f) ++ if f.zm then masked.flatMap (zeroPuts f) else [])

/-- The end of an indexed access: a fault, or completion. -/
def endLoad (fault : Option UFault) (s : State) : WRes :=
  match fault with
  | some x => .trap x.2 s
  | none => .done s

/-- The end of an in-order access: a fault, a stop inside, or completion. -/
def endCut (cut : Option (Nat × Option UFault)) (s : State) : WRes :=
  match cut with
  | some (_, some x) => .trap x.2 s
  | some (_, none) => .wait s
  | none => .done s

/-- A poisoned scale byte, which has no poison bit, is consumed as it is loaded (R75, R340). Scale bytes are one group, of
which nothing is loaded when one of them faults (R328). -/
def sclLost (f : BlockFields) (l : List Loaded) : Bool := isScl f && l.any (·.bad)

/-- VLD (R222, R223). -/
def vldCommon (f : BlockFields) (s : State) : State :=
  finishWord
    (match memTrap s f (f.func.getLsbD 6) with
    | some t => .trap t s
    | none =>
      let h := blockShape s f
      let all := (memUnits s f).filter fun m => decide (resumeGroup s.vc f.vd ≤ m.group)
      let (plan, faults) := planUnits s false all
      let cut := cutAt s (resumeGroup s.vc f.vd) all (worst faults)
      let todo := below cut (·.1.group) plan
      let go (s : State) : WRes :=
        match loadAll s todo with
        | .wait s => .wait s
        | .ok l s =>
          if sclLost f l then .lost s 0
          else
            let v := landLoad s.vc f h l ((below cut (·.group) all).filter fun m => !m.on)
            endCut cut (s.setVc (if isScl f then v else setProg v f.vd (cut.map (·.1))))
      if needsHold todo then heldWord s go else go s)

/-- VLD of elements (R223). -/
def execVld (f : BlockFields) (s : State) : Res := .next (vldCommon f s)
/-- VLD of scale bytes (R223). -/
def execVldScl (f : BlockFields) (s : State) : Res := .next (vldCommon f s)

/-- The bytes that a store takes from Va for a unit. -/
def storeData (v : VCtx) (f : BlockFields) (h : Shape) (m : MUnit) : List Byte :=
  if isScl f then [BitVec.ofNat 8 (v.scale (sclFp4 f) f.va (h.block m.idx).1 (h.block m.idx).2)]
  else if isMx f.ty then packBlock f.ty ((upTo 32).map fun t => elem (v.reg f.va) h f.ty (m.j + t))
  else bvBytes m.n (BitVec.ofNat 64 (elem (v.reg f.va) h f.ty m.j))

/-- A store would read a poisoned group (R75). -/
def storeLost (v : VCtx) (f : BlockFields) (h : Shape) (l : List MUnit) : Bool :=
  !isScl f && l.any fun m => elemBad (v.poi f.va) h f.ty m.j

/-- The sequencer's resume group (R196). -/
def setResume (s : State) (cut : Option (Nat × Option UFault)) : State :=
  s.modHere fun c => { c with seq := { c.seq with resume := match cut with | none => 0 | some x => BitVec.ofNat 8 x.1 } }

/-- VST (R222, R223). -/
def vstCommon (f : BlockFields) (s : State) : State :=
  finishWord
    (match memTrap s f false with
    | some t => .trap t s
    | none =>
      let h := blockShape s f
      let v := s.vc
      let all := (memUnits s f).filter fun m => decide (s.here.seq.resume.toNat ≤ m.group)
      let (plan, faults) := planUnits s true all
      let cut := cutAt s s.here.seq.resume.toNat all (worst faults)
      let todo := below cut (·.1.group) plan
      let go (s : State) : WRes :=
        match storeAll s 0 none (storeData v f h) todo with
        | .error s => .wait s
        | .ok s => endCut cut (setResume s cut)
      if storeLost v f h (todo.map (·.1)) then .lost s 0
      else if needsHold todo then heldWord s go else go s)

/-- VST of elements (R223). -/
def execVst (f : BlockFields) (s : State) : Res := .next (vstCommon f s)
/-- VST of scale bytes (R223). -/
def execVstScl (f : BlockFields) (s : State) : Res := .next (vstCommon f s)

/-- VLDS (R226, R108, R136). -/
def vldsCommon (f : BlockFields) (s : State) : State :=
  finishWord
    (match memTrap s f (f.func.getLsbD 6) with
    | some t => .trap t s
    | none =>
      let h := blockShape s f
      let all := memUnits s f
      let on := all.filter (·.on)
      match worst (on.filterMap (spFault s.here)) with
      | some x => .trap x.2 s
      | none =>
        if spHeldBack s.here on then .wait s
        else if f.func.getLsbD 5 && (on.flatMap fun m => granulesOf m.va.toNat m.n).eraseDups.any (chainWaits s) then .wait s
        else
          let l := spLoadAll s on
          if sclLost f l then .lost s 0
          else .done (s.setVc (landLoad s.vc f h l (all.filter fun m => !m.on))))

/-- VLDS of elements (R226). -/
def execVlds (f : BlockFields) (s : State) : Res := .next (vldsCommon f s)
/-- VLDS of scale bytes (R226). -/
def execVldsScl (f : BlockFields) (s : State) : Res := .next (vldsCommon f s)

/-- VSTS (R226). -/
def vstsCommon (f : BlockFields) (s : State) : State :=
  finishWord
    (match memTrap s f false with
    | some t => .trap t s
    | none =>
      let h := blockShape s f
      let on := (memUnits s f).filter (·.on)
      match worst (on.filterMap (spFault s.here)) with
      | some x => .trap x.2 s
      | none =>
        if storeLost s.vc f h on then .lost s 0
        else if spHeldBack s.here on then .wait s
        else
          match spStoreAll s (storeData s.vc f h) on with
          | none => .wait s
          | some s => .done s)

/-- VSTS of elements (R226). -/
def execVsts (f : BlockFields) (s : State) : Res := .next (vstsCommon f s)
/-- VSTS of scale bytes (R226). -/
def execVstsScl (f : BlockFields) (s : State) : Res := .next (vstsCommon f s)

end Sys2Proof.Machine
end

