-- ==== Sys2Proof/Machine/VecIndex.lean ====
section
/-!
DEFINITION. Gathers, scatters, first-fault loads, segments, scatter-adds and LSYNC (R115, R126, R138, R139,
R224, R225, R227 to R229).
-/
namespace Sys2Proof.Machine

/-! ## Indexed instructions (R224, R228) -/

/-- The indices of an indexed instruction: those of its operand, or the ones kept when a fault stopped it (R193). -/
def indices (s : State) (f : BlockFields) : BitVec 65536 := s.here.seq.idx.getD (s.vc.reg f.vb)

/-- The units of an indexed instruction: elements whose VCM bit is set are already done (R74). -/
def indexedUnits (s : State) (f : BlockFields) : List MUnit := indexUnits s f (indices s f) fun j => !s.vc.vcm.getLsbD j

/-- The parts of active elements, and the faults, lowest element first: alignment before translation
(R224, R315). -/
def planIndexed (s : State) (write : Bool) (l : List MUnit) : List (MUnit × List Piece) × List UFault :=
  (l.filter (·.on)).foldr (fun m acc =>
    if m.va.toNat % m.n ≠ 0 then (acc.1, (m, { trapAt 0x05 m.va with elem := elemField m.j }) :: acc.2)
    else
      match unitPieces s write m with
      | .ok ps => ((m, ps) :: acc.1, acc.2)
      | .error t => (acc.1, (m, t) :: acc.2)) ([], [])

/-- The fault of the lowest element. -/
def lowestFault (l : List UFault) : Option UFault :=
  l.foldl (fun (best : Option UFault) x => match best with
    | none => some x
    | some b => if x.1.j < b.1.j then some x else some b) none

/-- VCM after an indexed instruction: clear when it completes; otherwise performed and masked-off
elements are marked (R74, R224). -/
def markVcm (v : VCtx) (fault : Option UFault) (done masked : List MUnit) : VCtx :=
  match fault with
  | none => { v with vcm := 0 }
  | some _ => { v with vcm := (done ++ masked).foldl (fun m x => putBit m x.j true) v.vcm }

/-- A destination whose elements complete out of order keeps index 0 until the last has completed (R73). -/
def setWhole (v : VCtx) (n : BitVec 5) (fault : Option UFault) : VCtx := setProg v n (fault.map fun _ => 0)

/-- The sequencer keeps the indices of a gather that a fault stops when its destination is the register that holds
them: they are read before it is written (R193). -/
def keepIdx (s : State) (f : BlockFields) (write : Bool) (fault : Option UFault) : State :=
  if fault.isSome && !write && f.vd == f.vb then
    s.modHere fun c => { c with seq := { c.seq with idx := some (indices s f) } }
  else s

/-- What the instruction reads: indices that were kept have been read. -/
def indexedSrcs (s : State) (f : BlockFields) (srcs : List (BitVec 5 × BitVec 5)) : List (BitVec 5 × BitVec 5) :=
  if s.here.seq.idx.isSome then srcs.filter fun x => x.1 != f.vb else srcs

/-- The frame of an indexed instruction: `run` makes the accesses of the elements below a fault, and
`none` waits; `land` is the vector context afterwards. A base that is no multiple of the element size traps at issue,
as R222 has it for every memory instruction, before the elements are looked at (DESIGN CHOICE, log entry 64). -/
def indexed (f : BlockFields) (write held : Bool) (srcs : List (BitVec 5 × BitVec 5))
    (run : State → List (MUnit × List Piece) → MRun) (land : VCtx → Shape → List Loaded → List MUnit → VCtx) (s : State) : State :=
  let h := blockShape s f
  let b := xOperand s f
  finishWord
    (if shapeTrap h [f.ty, indexType f] then .trap trapOperand s
    else if b.toNat % tyBytes f.ty ≠ 0 then .trap (trapAt 0x05 b) s
    else
      let all := indexedUnits s f
      if poisoned s.vc h (indexedSrcs s f srcs) (fun j => active s.vc f f.ty j && !s.vc.vcm.getLsbD j) then .lost s 0
      else
        let (plan, faults) := planIndexed s write all
        let devs := deviceFaults plan
        let fault := lowestFault (faults ++ devs)
        -- a device page among the elements stops the instruction before any is performed (R116)
        let todo := if devs.isEmpty then before fault (·.1.group) plan else []
        let masked := all.filter fun m => !m.on
        let go (s : State) : WRes :=
          match run s todo with
          | .wait s => .wait s
          | .ok l s =>
            let s := keepIdx s f write fault
            let v := markVcm (land s.vc h l masked) fault (todo.map (·.1)) masked
            endLoad fault (s.setVc (if write then v else setWhole v f.vd fault))
        if (held && devs.isEmpty) || needsHold todo then heldWord s go else go s)

/-- VLDX (R224). -/
def execVldx (f : BlockFields) (s : State) : Res :=
  .next (indexed f false false [(f.vb, indexType f)] loadAll (fun v h l masked => landLoad v f h l masked) s)

/-- VSTX (R224): ascending element order. -/
def execVstx (f : BlockFields) (s : State) : Res :=
  .next (let h := blockShape s f
    let data := storeData s.vc f h
    indexed f true false [(f.vb, indexType f), (f.va, f.ty)]
      (fun s l => match storeAll s 0 none data l with
        | .ok s' => .ok [] s'
        | .error s' => .wait s') (fun v _ _ _ => v) s)

/-- VSCADD (R228): each add is sent to its home slice; it is applied by SCATTER_ADD_APPLY. -/
def execVscadd (f : BlockFields) (s : State) : Res :=
  .next (let h := blockShape s f
    let data := storeData s.vc f h
    indexed f true true [(f.vb, indexType f), (f.va, f.ty)]
      (fun s l =>
        let (stamp, s) := useTick s
        match storeAll s (stamp + 1) (some f.ty) data l with
        | .ok s' => .ok [] s'
        | .error s' => .wait s') (fun v _ _ _ => v) s)

/-! ## VLDFF (R225) -/

/-- VFSTAT with FFV and FFIDX (R81). -/
def setFirstFault (v : VCtx) (at_ : Option Nat) : VCtx :=
  let w := putBits (putBit v.vfstat 63 at_.isSome) 32 (BitVec.ofNat 14 (at_.getD 0))
  { v with vfstat := w, vcm := 0 }

/-- VLDFF traps: its destination's index is 0 until it completes (R73). A fault that is not known yet leaves it
waiting. -/
def firstFaultTrap (s : State) (f : BlockFields) (t : TrapInfo) : WRes :=
  if t.cause = 0x08 || t.later then .trap t s else .trap t (s.setVc (setProg s.vc f.vd (some 0)))

/-- A first-fault load has loaded the elements below `at_`, or all of them. -/
def landFirst (v : VCtx) (f : BlockFields) (h : Shape) (l : List Loaded) (masked : List MUnit) (at_ : Option Nat) : VCtx :=
  setFirstFault (setProg (landLoad v f h l masked) f.vd none) at_

/-- VLDFF (R225): a fault beyond the first active element ends the load there. -/
def execVldff (f : BlockFields) (s : State) : Res :=
  .next (finishWord
    (match memTrap s f false with
    | some t => .trap t s
    | none =>
      let h := blockShape s f
      let all := (memUnits s f).filter fun m => !s.vc.vcm.getLsbD m.j
      let (plan, faults) := planUnits s false all
      let first := (all.filter (·.on)).head?
      match lowestFault (faults ++ deviceFaults plan) with
      | some (m, t) =>
        if t.cause = 0x08 || t.later || first = some m then firstFaultTrap s f t
        else
          let todo := plan.filter fun x => x.1.j < m.j
          let go (s : State) : WRes :=
            match loadAll s todo with
            | .wait s => .wait s
            | .ok l s =>
              .done (s.setVc (landFirst s.vc f h l (all.filter fun x => !x.on && x.j < m.j) (some m.j)))
          if needsHold todo then heldWord s go else go s
      | none =>
        let go (s : State) : WRes :=
          match loadAll s plan with
          | .wait s => .wait s
          | .ok l s => .done (s.setVc (landFirst s.vc f h l (all.filter fun x => !x.on) none))
        if needsHold plan then heldWord s go else go s))

/-! ## Segments (R138, R227) -/

/-- Operand and alignment checks of a segment instruction. -/
def segTrap (s : State) (f : BlockFields) : Option TrapInfo :=
  let h := blockShape s f
  let b := xOperand s f
  let z := if isMx f.ty then 1 else tyBytes f.ty
  if shapeTrap h [f.ty] || (isMx f.ty && mixedBlock s.vc f f.ty h.count) then some trapOperand
  else if b.toNat % z ≠ 0 || (xStride s f).toNat % z ≠ 0 then some (trapAt 0x05 b)
  else none

/-- Segments that cross a line (R138). -/
def crossings (l : List MUnit) : List UFault :=
  (l.filter fun m => m.on && decide (64 < m.va.toNat % 64 + m.n)).map fun m =>
    (m, { trapAt 0x0B m.va with elem := elemField m.j })

/-- The plan of a segment instruction from a group up: what it performs, its fault, and whether a line
crossing or a device page stops it before any segment. -/
def segPlan (s : State) (f : BlockFields) (write : Bool) (from_ : Nat) :
    List MUnit × List (MUnit × List Piece) × Option (Nat × Option UFault) × Bool :=
  let all := (segUnits s f).filter fun m => decide (from_ ≤ m.group)
  let (plan, faults) := planUnits s write all
  let early := crossings all ++ deviceFaults plan
  let fault := worst (early ++ faults)
  if early.isEmpty then
    let cut := cutAt s from_ all fault
    (all, below cut (·.1.group) plan, cut, false)
  else (all, [], fault.map fun x => (x.1.group, some x), true)

/-- Register vd + i as a register field. -/
def regPlus (r : BitVec 5) (i : Nat) : BitVec 5 := r + BitVec.ofNat 5 i

/-- The vector context after a segment load. -/
def landSegs (v : VCtx) (f : BlockFields) (h : Shape) (l : List Loaded) (masked : List MUnit) : VCtx :=
  if isMx f.ty then
    let zs := if f.zm then masked else []
    (v.put f.vd h f.ty (l.flatMap (loadedPuts f) ++ zs.flatMap (zeroPuts f))).putScales (isFp4 f.ty) f.vd
      (l.map (fun x => ((h.block x.m.idx).1, (h.block x.m.idx).2, bytesNat (x.bytes.drop (blockBytes f.ty)))) ++
        zs.map fun m => ((h.block m.idx).1, (h.block m.idx).2, 0))
  else
    let z := tyBytes f.ty
    (upTo (segFields f)).foldl (fun v i =>
      v.put (regPlus f.vd i) h f.ty
        (l.map (fun x => (⟨x.m.j, bytesNat ((x.bytes.drop (i * z)).take z), ((x.bads.drop (i * z)).take z).any id⟩ : Put)) ++
          if f.zm then masked.map fun m => ⟨m.j, 0, false⟩ else [])) v

/-- The loaded segment's scale byte is poisoned. -/
def scaleBad (f : BlockFields) (x : Loaded) : Bool := isMx f.ty && (x.bads.drop (blockBytes f.ty)).any id

/-- A poisoned scale byte of a loaded segment is consumed (R75). -/
def segLost (f : BlockFields) (l : List Loaded) : Bool := l.any (scaleBad f)

/-- A fault ranks above an error (R328): the load ends below the first group with a poisoned scale byte, which holds no
poison, and takes its fault there. -/
def faultCut (f : BlockFields) (l : List Loaded) (cut : Option (Nat × Option UFault)) : Option (Nat × Option UFault) :=
  cut.map fun c => (((l.filter (scaleBad f)).map (·.m.group)).foldl min c.1, c.2)

/-- VLDSEG (R227). -/
def execVldseg (f : BlockFields) (s : State) : Res :=
  .next (finishWord
    (match segTrap s f with
    | some t => .trap t s
    | none =>
      let h := blockShape s f
      let (all, todo, cut, early) := segPlan s f false (resumeGroup s.vc f.vd)
      let go (s : State) : WRes :=
        match loadAll s todo with
        | .wait s => .wait s
        | .ok l s =>
          if segLost f l && (cut.bind (·.2)).isNone then .lost s 0
          else
            let cut := faultCut f l cut
            let masked := (below cut (·.group) all).filter fun m => !m.on
            let v := landSegs s.vc f h (below cut (·.m.group) l) masked
            endCut cut (if early then s
              else s.setVc ((upTo (segFields f)).foldl (fun v i => setProg v (regPlus f.vd i) (cut.map (·.1))) v))
      if needsHold todo then heldWord s go else go s))

/-- The bytes of a segment that VSTSEG stores. -/
def segData (v : VCtx) (f : BlockFields) (h : Shape) (m : MUnit) : List Byte :=
  if isMx f.ty then
    storeData v f h m ++ [BitVec.ofNat 8 (v.scale (isFp4 f.ty) f.va (h.block m.idx).1 (h.block m.idx).2)]
  else (upTo (segFields f)).flatMap fun i => bvBytes (tyBytes f.ty) (BitVec.ofNat 64 (elem (v.reg (regPlus f.va i)) h f.ty m.j))

/-- VSTSEG (R227): each segment is one store. -/
def execVstseg (f : BlockFields) (s : State) : Res :=
  .next (finishWord
    (match segTrap s f with
    | some t => .trap t s
    | none =>
      let h := blockShape s f
      let v := s.vc
      let (_, todo, cut, early) := segPlan s f true s.here.seq.resume.toNat
      let go (s : State) : WRes :=
        match storeAll s 0 none (segData v f h) todo with
        | .error s => .wait s
        | .ok s => endCut cut (if early then s else setResume s cut)
      if (upTo (segFields f)).any fun i => todo.any fun x => elemBad (v.poi (regPlus f.va i)) h f.ty x.1.j then .lost s 0
      else if needsHold todo then heldWord s go else go s))

/-! ## LSYNC (R126, R229) -/

/-- LSYNC: later vector accesses of the context follow the earlier ones at core scope. -/
def execLsync (_f : BlockFields) (s : State) : Res :=
  .next (finishWord (.done (s.modMe fun x => { x with epoch := x.epoch + 1 })))

/-- Every earlier vector access of the context, and every store it has read, is performed at the scope. -/
def lanesDone (s : State) (scope : Nat) : Bool :=
  let u := s.cur.unit
  if scope = 0 then (corePerformed s.fab.pend).all fun x => !x.1.ownedBy 0 (s.ownerOf u 0) || x.1.path == .scalar || x.2
  else (s.knownPend u 0).all fun p => p.ownedBy 0 (s.ownerOf u 0) && p.path == .scalar

/-- LSYNC.s (R126): held, and it waits for its scope. -/
def execLsyncScoped (f : BlockFields) (s : State) : Res :=
  .next (finishWord (heldWord s fun s =>
    if lanesDone s (bits f.func 0 3) then .done (s.modMe fun x => { x with epoch := x.epoch + 1 }) else .wait s))

/-! ## SCATTER_ADD_APPLY (R115, R139) -/

/-- Flags of an add are ORed into FLAGS of the context that made it, or of its leg (R55, R115). -/
def addFlags (s : State) (p : PStore) (fl : Flags) : State :=
  if fl = 0 then s
  else
    match (s.core p.unit).strand with
    | none => s
    | some h =>
      if (s.core p.unit).leg.isSome || ((s.strand? h).map (·.at_)) == some p.unit then
        s.modCore p.unit fun c => { c with v := { c.v with flags := c.v.flags ||| fl } }
      else s.modStrand h fun x => { x with flags := x.flags ||| fl }

/-- The sum that an add leaves: integers wrap, floats round once in RNE without FTZ (R115). -/
def addResult (ty : BitVec 5) (old add : Nat) : Nat × Flags := addElems 0 false ty old add

/-- SCATTER_ADD_APPLY (R115): one add of a VSCADD is applied at its home slice. -/
def execScatterAddApply (idx : Nat) (s : State) : Res :=
  .next (match s.fab.pend[idx]? with
    | none => s
    | some p =>
      match p.add with
      | none => s
      | some ty =>
        if !pendReady s idx p then s
        else
          let n := p.bytes.length
          -- an uncorrectable error reads as zero on an error-tolerant page (R117)
          let lost := p.et && s.fab.poison.contains (p.pa / 16)
          let old := if lost then 0 else s.mem.readLe p.pa n
          let (r, fl) := addResult ty old (bytesNat p.bytes)
          let s' := writeHome s (if p.cached then .ifThere else .no) none (p.strand s) p.part p.et p.pa (bvBytes n (BitVec.ofNat 64 r))
          addFlags (s'.modFab fun f => { f with pend := listDel s.fab.pend idx }) p fl)

end Sys2Proof.Machine
end

