-- ==== Sys2Proof/Machine/Matrix.lean ====
section
/-!
DEFINITION. Matrix instructions (R96 to R99, R230 to R244): MSHAPE, tiles, accumulators, the four dataflows
of MMA, and the merge buffer.
-/
namespace Sys2Proof.Machine

/-! ## MSHAPE (R81, R232) -/

def mshapeM (v : VCtx) : Nat := bits v.mshape 0 6
def mshapeN (v : VCtx) : Nat := bits v.mshape 8 6
def mshapeK (v : VCtx) : Nat := bits v.mshape 16 12
/-- The accumulator type: f32 or f64. -/
def acctOf (v : VCtx) : BitVec 5 := if v.mshape.getLsbD 32 then 11 else 10

/-- MSHAPE (R232). -/
def execMshape (f : BlockFields) (s : State) : Res :=
  .next (let w := xOperand s f
    finishWord (if mshapeOk w then .done (s.setVc { s.vc with mshape := w }) else .trap trapOperand s))

/-! ## Tiles (R79, R233, R234) -/

/-- Element k of a tile row, and a byte of the scale area. -/
def tileElem (t : BitVec 131072) (ty : BitVec 5) (row k : Nat) : Nat := bits t (elemBit ty (row, k)) (tyWidth ty)
def VCtx.tile (v : VCtx) (k : Nat) : BitVec 131072 := vget v.t 0 k
def VCtx.tileScale (v : VCtx) (k i b : Nat) : Nat := bits (vget v.tsc 0 k) (8 * (32 * i + b)) 8

/-- A tile and its scale area after a write. -/
def VCtx.setTile (v : VCtx) (k : Nat) (t : BitVec 131072) (sc : BitVec 8192) : VCtx :=
  { v with t := vset v.t k t, tsc := vset v.tsc k sc, tdirty := putBit v.tdirty k true }

/-- MTLD (R233). -/
def execMtld (f : BlockFields) (s : State) : Res :=
  .next (let v := s.vc
    let k := f.vd.toNat
    let hi := regPlus f.va 1
    finishWord
      (if v.poi f.va != 0 || v.poi hi != 0 then .lost s 0
      else
        let t : BitVec 131072 := (v.reg hi) ++ (v.reg f.va)
        let nb := if isFp4 f.ty then 32 else 16
        let sc : BitVec 8192 :=
          if isMx f.ty then
            (upTo 32).foldl (fun m i => (upTo nb).foldl (fun m b =>
              putBits m (8 * (32 * i + b)) (BitVec.ofNat 8 (v.scale (isFp4 f.ty) (regPlus f.va (i / 16)) (i % 16) b))) m) 0
          else vget v.tsc 0 k
        .done (s.setVc (v.setTile k t sc))))

/-- The bit of the tile, or of its scale area, at which a unit stands. -/
def tileBit (scl : Bool) (m : MUnit) : Nat := if scl then 256 * m.idx else 512 * m.idx

/-- Alignment of B and S (R234). -/
def tileMisaligned (s : State) (f : BlockFields) (scl : Bool) : Bool :=
  let a := if scl then 32 else 64
  (xOperand s f).toNat % a != 0 || (xStride s f).toNat % a != 0

/-- A tile report names no element. -/
def noElem (x : UFault) : TrapInfo := { x.2 with elem := 0 }

/-- The tile with the loaded units. -/
def landTile (v : VCtx) (k : Nat) (scl : Bool) (l : List Loaded) : VCtx :=
  if scl then
    v.setTile k (v.tile k) (l.foldl (fun m x => putBits m (tileBit true x.m) (bytesBV 256 x.bytes)) (vget v.tsc 0 k))
  else v.setTile k (l.foldl (fun m x => putBits m (tileBit false x.m) (bytesBV 512 x.bytes)) (v.tile k)) (vget v.tsc 0 k)

/-- MTLDM (R231, R234): every row is translated and checked before the first access. R70's checks of VCOLS are not made,
as the instruction has no vector register: R70 and R234 do not say (DESIGN CHOICE, log entry 93). -/
def mtldmCommon (f : BlockFields) (scl : Bool) (s : State) : State :=
  let k := f.vd.toNat
  let all := tileUnits s f scl
  let land (l : List Loaded) (s : State) : WRes :=
    if l.any (·.bad) then .lost s 0 else .done (s.setVc (landTile s.vc k scl l))
  finishWord
    (if tileMisaligned s f scl then .trap (trapAt 0x05 (xOperand s f)) s
    else if f.func.getLsbD 0 then
      match worst (all.filterMap (spFault s.here)) with
      | some x => .trap (noElem x) s
      | none => if spHeldBack s.here all then .wait s else land (spLoadAll s all) s
    else
      let (plan, faults) := planUnits s false all
      match worst (faults ++ deviceFaults plan) with
      | some x => .trap (noElem x) s
      | none =>
        let go (s : State) : WRes :=
          match loadAll s plan with
          | .wait s => .wait s
          | .ok l s => land l s
        if needsHold plan then heldWord s go else go s)

/-- MTLDM of elements (R234). -/
def execMtldm (f : BlockFields) (s : State) : Res := .next (mtldmCommon f false s)
/-- MTLDM of the scale area (R234). -/
def execMtldmScl (f : BlockFields) (s : State) : Res := .next (mtldmCommon f true s)

/-- MTST (R231, R234). -/
def mtstCommon (f : BlockFields) (scl : Bool) (s : State) : State :=
  let k := f.vd.toNat
  let all := tileUnits s f scl
  let v := s.vc
  let data (m : MUnit) : List Byte :=
    if scl then bvBytes 32 ((vget v.tsc 0 k) >>> tileBit true m) else bvBytes 64 (v.tile k >>> tileBit false m)
  finishWord
    (if tileMisaligned s f scl then .trap (trapAt 0x05 (xOperand s f)) s
    else if f.func.getLsbD 0 then
      match worst (all.filterMap (spFault s.here)) with
      | some x => .trap (noElem x) s
      | none =>
        if spHeldBack s.here all then .wait s
        else
          match spStoreAll s data all with
          | none => .wait s
          | some s => .done s
    else
      let (plan, faults) := planUnits s true all
      match worst (faults ++ deviceFaults plan) with
      | some x => .trap (noElem x) s
      | none =>
        let go (s : State) : WRes :=
          match storeAll s 0 none data plan with
          | .error s => .wait s
          | .ok s => .done s
        if needsHold plan then heldWord s go else go s)

/-- MTST of elements (R234). -/
def execMtst (f : BlockFields) (s : State) : Res := .next (mtstCommon f false s)
/-- MTST of the scale area (R234). -/
def execMtstScl (f : BlockFields) (s : State) : Res := .next (mtstCommon f true s)

/-! ## Accumulators (R79, R235, R236) -/

/-- Element (m, n) of an accumulator as a number of the type; a write of f32 clears bits [63:32]. -/
def VCtx.accElem (v : VCtx) (k : Nat) (ty : BitVec 5) (m n : Nat) : Nat := bits (vget v.acc 0 k) (64 * (32 * m + n)) (tyBits ty)

/-- An accumulator image with elements written: row, column, value. -/
def putAcc (im : BitVec 65536) (l : List (Nat × Nat × Nat)) : BitVec 65536 :=
  l.foldl (fun im x => putBits im (64 * (32 * x.1 + x.2.1)) (BitVec.ofNat 64 x.2.2)) im

/-- An accumulator with an image, KPOS, OPEN and partials. -/
def VCtx.setAcc (v : VCtx) (k : Nat) (im : BitVec 65536) (kpos : Nat) (opn : Bool) (part : FMap Partial) : VCtx :=
  { v with
    acc := vset v.acc k im, kpos := vset v.kpos k (BitVec.ofNat 11 kpos), opn := vset v.opn k opn
    part := vset v.part k part, adirty := putBit v.adirty k true }

/-- MACCZ (R235). -/
def execMaccz (f : BlockFields) (s : State) : Res :=
  .next (finishWord (.done (s.setVc (s.vc.setAcc f.vd.toNat 0 0 false []))))

/-- The operand checks of MACCRD and MACCWR (R236). -/
def accMoveTrap (s : State) (f : BlockFields) (k : Nat) : Bool :=
  let h := blockShape s f
  let m0 := bits f.func 0 5
  let q := bits f.func 5 4 + 1
  shapeTrap h [f.ty] || decide (32 < m0 + q) || decide (h.rows < f.slice.toNat + q) || f.ty != acctOf s.vc || vget s.vc.opn false k

/-- The shape in which rows of a register are addressed by row and column. -/
def rowShape (s : State) (cols : Nat) : Shape := ⟨s.block.vrows.toNat, cols, 0, 0⟩

/-- MACCRD (R236). -/
def execMaccrd (f : BlockFields) (s : State) : Res :=
  .next (let k := f.va.toNat
    let q := bits f.func 5 4 + 1
    let h := rowShape s s.block.vcols.toNat
    let c := min h.cols 32
    finishWord
      (if accMoveTrap s f k then .trap trapOperand s
      else
        let l := (upTo q).flatMap fun i => (upTo c).map fun j =>
          (⟨(f.slice.toNat + i) * h.cols + j, s.vc.accElem k f.ty (bits f.func 0 5 + i) j, false⟩ : Put)
        .done (s.setVc (s.vc.put f.vd h f.ty l))))

/-- MACCWR (R236). -/
def execMaccwr (f : BlockFields) (s : State) : Res :=
  .next (let k := f.vd.toNat
    let q := bits f.func 5 4 + 1
    let v := s.vc
    let h := rowShape s s.block.vcols.toNat
    let c := min h.cols 32
    finishWord
      (if accMoveTrap s f k then .trap trapOperand s
      else if (upTo q).any fun i => (upTo c).any fun j => elemBad (v.poi f.va) h f.ty ((f.slice.toNat + i) * h.cols + j) then .lost s 0
      else
        let l := (upTo q).flatMap fun i => (upTo 32).map fun j =>
          (bits f.func 0 5 + i, j, if j < c then elem (v.reg f.va) h f.ty ((f.slice.toNat + i) * h.cols + j) else 0)
        .done (s.setVc (v.setAcc k (putAcc (vget v.acc 0 k) l) 0 false []))))

/-! ## The accumulation contract (R96 to R99) -/

/-- Consecutive k values of one group (R96). -/
def groupLen (ty : BitVec 5) : Nat :=
  match ty.toNat with
  | 8 | 9 => 8
  | 10 | 11 => 1
  | _ => 32

/-- One more product in a group's exact sum (R97, R98). -/
def Partial.add (p : Partial) (a b : FVal) : Partial :=
  match a, b with
  | .nan x, .nan y => if x || y then { p with snan := true } else { p with qnan := true }
  | .nan x, _ => if x then { p with snan := true } else { p with qnan := true }
  | _, .nan y => if y then { p with snan := true } else { p with qnan := true }
  | .inf n, .inf k => if n = k then { p with pinf := true } else { p with ninf := true }
  | .inf n, .fin k m _ => if m = 0 then { p with zinf := true } else if n = k then { p with pinf := true } else { p with ninf := true }
  | .fin k m _, .inf n => if m = 0 then { p with zinf := true } else if n = k then { p with pinf := true } else { p with ninf := true }
  | .fin n1 m1 e1, .fin n2 m2 e2 =>
    match finAdd 0 p.neg p.m p.e (n1 != n2) (m1 * m2) (e1 + e2) with
    | .fin n m e => { p with neg := n, m := m, e := e }
    | .inf _ => p
    | .nan _ => p

/-- The update of an accumulator element by a closed group (R97, R98): `shift` is the exponent of the
scales, and `ff` says that a scale byte of the group is 0xFF. -/
def closeGroup (acct : BitVec 5) (c : Nat) (p : Partial) (shift : Int) (ff : Bool) : Nat × Flags :=
  let f := fmtOf acct
  let cv := f.value c
  let update (v : FVal) (nv : Bool) : Nat × Flags :=
    let (r, fr) := fAdd 0 cv v
    let (x, fx) := f.write 0 false r
    (x, (if nv then fNV else 0) ||| fr ||| fx)
  if ff then update (.nan false) false
  else if p.snan || p.qnan || p.zinf || (p.pinf && p.ninf) then update (.nan false) (p.snan || p.zinf || (p.pinf && p.ninf))
  else if p.pinf then update (.inf false) false
  else if p.ninf then update (.inf true) false
  else if p.m = 0 then (c, 0)
  else update (.fin p.neg p.m (p.e + shift)) false

/-- The scales of a group: 2^(sa + sb - 254), and whether one is NaN (R89, R97). -/
def scaleShift (mx : Bool) (sa sb : Nat) : Int × Bool :=
  if mx then ((sa : Int) + (sb : Int) - 254, sa == 0xFF || sb == 0xFF) else (0, false)

/-- The exact sum of a list of products. -/
def groupSum (l : List (FVal × FVal)) : Partial := l.foldl (fun p x => p.add x.1 x.2) {}

/-! ## MMA.ip (R238, R239) -/

/-- Repeat count and first row of MMA. -/
def mmaQ (f : BlockFields) : Nat := bits f.func 2 4 + 1
def mmaRow (f : BlockFields) : Nat := f.slice.toNat

/-- The checks of R238 that every form has. -/
def mmaTrap (s : State) (f : BlockFields) (q : Nat) : Bool :=
  decide (s.block.vrows.toNat < mmaRow f + q) || (f.ty == 11 && acctOf s.vc == 10)

/-- Some of these elements of a row lie in a poisoned group (R75). -/
def rowBadAt (s : State) (r : BitVec 5) (ty : BitVec 5) (row : Nat) (l : List Nat) : Bool :=
  (s.vc.poi r) != 0 && l.any fun k => (s.vc.poi r).getLsbD (groupOfBit (elemBit ty (row, k))) && decide (row < s.block.vrows.toNat)

/-- A poisoned group among the first n elements of a row. -/
def rowBad (s : State) (r : BitVec 5) (ty : BitVec 5) (row n : Nat) : Bool := rowBadAt s r ty row (upTo n)

/-- Element k of a row of a register. -/
def rowElem (v : VCtx) (r : BitVec 5) (ty : BitVec 5) (row k : Nat) : Nat := bits (v.reg r) (elemBit ty (row, k)) (tyWidth ty)

/-- The first row that MMA.ip or MMA.rw has not written, counted from its own first: it goes on at its destination's
progress index, which passes a row of 8 groups at a time (R231, R239). -/
def rowsDone (v : VCtx) (f : BlockFields) : Nat := resumeGroup v f.vd / 8 - mmaRow f

/-- Rows `lo` to `hi - 1` of a dataflow that holds c in destination rows, and their flags. -/
def mmaRows (s : State) (f : BlockFields) (lo hi : Nat) (cell : Nat → Nat → Nat → Nat × Flags) : State :=
  let v := s.vc
  let n := mshapeN v
  let t := acctOf v
  let out := ((upTo hi).drop lo).flatMap fun i => (upTo n).map fun j =>
    let row := mmaRow f + i
    (row * n + j, cell row j (rowElem v f.vd t row j))
  let l := out.map fun x => (⟨x.1, x.2.1, false⟩ : Put)
  raiseFlags (s.setVc (v.put f.vd (rowShape s n) t l)) (out.foldl (fun fl x => fl ||| x.2.2) 0)

/-- The rows that a word of `q` rows has still to write, all of them or those of this turn: `bad` says that a row
reads a poisoned group (R75, R231). -/
def mmaRun (s : State) (f : BlockFields) (q : Nat) (bad : Nat → Bool) (cell : Nat → Nat → Nat → Nat × Flags) : WRes :=
  let lo := rowsDone s.vc f
  let hi := stopPoint s lo q
  if ((upTo hi).drop lo).any fun i => bad (mmaRow f + i) then .lost s 0
  else
    let s := mmaRows s f lo hi cell
    if q ≤ hi then .done (s.setVc (setProg s.vc f.vd none))
    else .wait (s.setVc (setProg s.vc f.vd (some (8 * (mmaRow f + hi)))))

/-- MMA.ip (R239). -/
def execMmaIp (f : BlockFields) (s : State) : Res :=
  .next (let v := s.vc
    let q := mmaQ f
    let k := mshapeK v
    let n := mshapeN v
    let g := groupLen f.ty
    let tile := v.tile f.vc.toNat
    finishWord
      (if mmaTrap s f q || decide (4096 < k * tyBits f.ty) then .trap trapOperand s
      else mmaRun s f q (fun r => rowBad s f.va f.ty r k || rowBad s f.vd (acctOf v) r n) fun row j c =>
        (upTo (ceilDiv k g)).foldl (fun (acc : Nat × Flags) i =>
          let ks := (upTo (min (i * g + g) k - i * g)).map (i * g + ·)
          let p := groupSum (ks.map fun x => (elemValue f.ty (rowElem v f.va f.ty row x), elemValue f.ty (tileElem tile f.ty j x)))
          let (sh, ff) := scaleShift (isMx f.ty) (v.scale (isFp4 f.ty) f.va row i) (v.tileScale f.vc.toNat j i)
          let (c', fl) := closeGroup (acctOf v) acc.1 p sh ff
          (c', acc.2 ||| fl)) (c, 0)))

/-! ## MMA.op (R240) -/

/-- Panel depth Kp. -/
def panelDepth (ty : BitVec 5) : Nat :=
  match ty.toNat with
  | 16 => 32
  | 8 | 9 => 8
  | 10 => 4
  | 11 => 1
  | _ => 16

/-- One element through one step: its value, its partial, its flags. `a` and `b` are its panels, by
position in the step; `scales` gives sa and sb of a group. -/
def stepElem (acct : BitVec 5) (mx : Bool) (g kpos kend kmax : Nat) (a b : Nat → FVal) (scales : Nat → Nat × Nat)
    (c : Nat) (p : Partial) : Nat × Partial × Flags :=
  (upTo (kend - kpos)).foldl (fun (acc : Nat × Partial × Flags) x =>
    let k := kpos + x
    let p := acc.2.1.add (a x) (b x)
    if (k + 1) % g = 0 || k + 1 = kmax then
      let (sh, ff) := scaleShift mx (scales (k / g)).1 (scales (k / g)).2
      let (c', fl) := closeGroup acct acc.1 p sh ff
      (c', {}, acc.2.2 ||| fl)
    else (acc.1, p, acc.2.2)) (c, p, 0)

/-- A step from KPOS `kpos` to `kend` closes a group, which makes every partial of the accumulator zero. -/
def stepCloses (g kpos kend kmax : Nat) : Bool := (upTo (kend - kpos)).any fun x => (kpos + x + 1) % g = 0 || kpos + x + 1 = kmax

/-- One step of the outer product on an accumulator. -/
def opStep (f : BlockFields) (v : VCtx) (row : Nat) : VCtx × Flags :=
  let k := f.vd.toNat
  let kp := panelDepth f.ty
  let g := groupLen f.ty
  let kmax := mshapeK v
  let kpos := (vget v.kpos 0 k).toNat
  let kend := min (kpos + kp) kmax
  let sreg := vget v.sc 0 f.vc.toNat
  let t := acctOf v
  let cells := (upTo (mshapeM v)).flatMap fun m => (upTo (mshapeN v)).map fun n =>
    (m, n, stepElem t (isMx f.ty) g kpos kend kmax
      (fun x => elemValue f.ty (rowElem v f.va f.ty row (m * kp + x)))
      (fun x => elemValue f.ty (rowElem v f.vb f.ty row (x * 32 + n)))
      (fun i => (bits sreg (8 * (m * 32 + i)) 8, bits sreg (8 * (1024 + n * 32 + i)) 8))
      (v.accElem k t m n) ((vget v.part [] k).get {} (32 * m + n)))
  let im := putAcc (vget v.acc 0 k) (cells.map fun x => (x.1, x.2.1, x.2.2.1))
  let part := cells.foldl (fun (d : FMap Partial) x =>
    if x.2.2.2.1 = {} then d.del (32 * x.1 + x.2.1) else d.set (32 * x.1 + x.2.1) x.2.2.2.1)
    (if stepCloses g kpos kend kmax then [] else vget v.part [] k)
  (v.setAcc k im kend (kend % g != 0 && decide (kend < kmax)) part, cells.foldl (fun fl x => fl ||| x.2.2.2.2) 0)

/-- A step would read a poisoned group: of A, of B, among the values of k below K (R75, R97). -/
def opBad (s : State) (f : BlockFields) (kpos row : Nat) : Bool :=
  let v := s.vc
  let kp := panelDepth f.ty
  let ks := min kp (mshapeK v - kpos)
  rowBadAt s f.va f.ty row ((upTo (mshapeM v)).flatMap fun m => (upTo ks).map (m * kp + ·)) ||
    rowBadAt s f.vb f.ty row ((upTo ks).flatMap fun x => (upTo (mshapeN v)).map (x * 32 + ·))

/-- MMA.op (R240): stopped inside, it goes on at the first step that it has not performed (R231, R277). -/
def execMmaOp (f : BlockFields) (s : State) : Res :=
  .next (let v := s.vc
    let kp := panelDepth f.ty
    let lo := s.here.seq.step
    let q := mmaQ f
    let hi := stopPoint s lo q
    let kpos := (vget v.kpos 0 f.vd.toNat).toNat
    finishWord
      (if mmaTrap s f q || decide (mshapeK v ≤ kpos + (q - lo - 1) * kp) then .trap trapOperand s
      else if ((upTo hi).drop lo).any fun i => opBad s f (kpos + (i - lo) * kp) (mmaRow f + i) then .lost s 0
      else
        let (v, fl) := ((upTo hi).drop lo).foldl (fun (acc : VCtx × Flags) i =>
          let (v, fl) := opStep f acc.1 (mmaRow f + i)
          (v, acc.2 ||| fl)) (v, 0)
        let s := raiseFlags (s.setVc v) fl
        if q ≤ hi then .done s else .wait (setStep s hi)))

/-! ## MMA.rw (R238, R241) and MMA.rw.sp (R242) -/

/-- The pairs of a sparse row: k, and the position of its nonzero (R241). -/
def sparsePairs (s : State) (f : BlockFields) (row : Nat) : List (Nat × Nat) :=
  let v := s.vc
  let w := bits f.func 6 3
  (upTo s.block.vcols.toNat).filterMap fun j =>
    let k := rowElem v f.vb tyN16 row j
    if k ≠ 0xFFFF && decide (32 * w ≤ k) && decide (k < 32 * w + 32) && decide (k < mshapeK v) then some (k, j) else none

/-- The k-groups of a window below K, ascending: an absent k contributes an exact zero, and the scale bytes of its
group still count (R98, R99, R241). -/
def windowGroups (g w k : Nat) : List Nat := (upTo (ceilDiv (min (32 * w + 32) k) g)).drop (32 * w / g)

/-- The checks of R238 for the row-wise forms. -/
def rwTrap (s : State) (f : BlockFields) (q : Nat) : Bool :=
  mmaTrap s f q || shapeTrap (rowShape s s.block.vcols.toNat) [f.ty, tyN16]

/-- MMA.rw dense (R241). -/
def execMmaRw (f : BlockFields) (s : State) : Res :=
  .next (let v := s.vc
    let q := mmaQ f
    let g := groupLen f.ty
    let w := bits f.func 6 3
    let cols := s.block.vcols.toNat
    let tile := v.tile f.vc.toNat
    finishWord
      (if rwTrap s f q then .trap trapOperand s
      else mmaRun s f q
        (fun r => rowBad s f.vb tyN16 r cols || rowBadAt s f.va f.ty r ((sparsePairs s f r).map (·.2)) || rowBad s f.vd (acctOf v) r (mshapeN v))
        fun row n c =>
          let ps := sparsePairs s f row
          (windowGroups g w (mshapeK v)).foldl (fun (acc : Nat × Flags) i =>
            let p := groupSum ((ps.filter fun x => x.1 / g == i).map fun x =>
              (elemValue f.ty (rowElem v f.va f.ty row x.2), elemValue f.ty (tileElem tile f.ty (x.1 - 32 * w) n)))
            let (sh, ff) := scaleShift (isMx f.ty) (v.scale (isFp4 f.ty) f.va row i) (bits (vget v.tsc 0 f.vc.toNat) (8 * n) 8)
            let (c', fl) := closeGroup (acctOf v) acc.1 p sh ff
            (c', acc.2 ||| fl)) (c, 0)))

/-- The products of a sparse row and a sparse B: k, column, factors (R242). -/
def spProducts (s : State) (f : BlockFields) : List (Nat × BitVec 16 × FVal × FVal) :=
  let v := s.vc
  let w := bits f.func 6 3
  let slots := min 256 (4096 / tyBits f.ty)
  let row := mmaRow f
  (sparsePairs s f row).flatMap fun (k, j) =>
    (upTo slots).filterMap fun t =>
      let col := tileElem (v.tile (f.vc.toNat + 1)) tyN16 (k - 32 * w) t
      if col = 0xFFFF then none
      else some (k, BitVec.ofNat 16 col, elemValue f.ty (rowElem v f.va f.ty row j), elemValue f.ty (tileElem (v.tile f.vc.toNat) f.ty (k - 32 * w) t))

/-- The merge buffer's value at a column: +0 for a column that is reached for the first time. -/
def mergeGet (l : List (BitVec 16 × Word)) (col : BitVec 16) : Word :=
  match l.find? fun x => x.1 == col with
  | some x => x.2
  | none => 0

/-- The merge buffer with a value at a column, columns ascending. -/
def mergePut (l : List (BitVec 16 × Word)) (col : BitVec 16) (c : Word) : List (BitVec 16 × Word) :=
  (l.filter fun x => x.1.toNat < col.toNat) ++ (col, c) :: l.filter fun x => col.toNat < x.1.toNat

/-- MMA.rw.sp (R242). -/
def execMmaRwSp (f : BlockFields) (s : State) : Res :=
  .next (let v := s.vc
    let g := groupLen f.ty
    let cols := s.block.vcols.toNat
    let ps := spProducts s f
    let reached := ps.foldl (fun (d : List Nat) x => insertNat x.2.1.toNat d) []
    let union := reached.foldl (fun d x => insertNat x d) (v.merge.map fun x => x.1.toNat)
    finishWord
      (if rwTrap s f 1 then .trap trapOperand s
      else if rowBadAt s f.va f.ty (mmaRow f) ((sparsePairs s f (mmaRow f)).map (·.2)) || rowBad s f.vb tyN16 (mmaRow f) cols then
        .lost s 0
      else if 4096 < union.length then .trap trapOperand s
      else
        let (m, fl) := reached.foldl (fun (acc : List (BitVec 16 × Word) × Flags) x =>
          let col := BitVec.ofNat 16 x
          let mine := ps.filter fun y => y.2.1 == col
          let groups := mine.foldl (fun (d : List Nat) y => insertNat (y.1 / g) d) []
          let (c, fl) := groups.foldl (fun (b : Nat × Flags) i =>
            let p := groupSum ((mine.filter fun y => y.1 / g == i).map fun y => (y.2.2.1, y.2.2.2))
            let (c', fl) := closeGroup (acctOf v) b.1 p 0 false
            (c', b.2 ||| fl)) (bits (mergeGet v.merge col) 0 (tyBits (acctOf v)), 0)
          (mergePut acc.1 col (BitVec.ofNat 64 c), acc.2 ||| fl)) (v.merge, 0)
        .done (raiseFlags (s.setVc { v with merge := m }) fl)))

/-- MMRD (R243). -/
def execMmrd (f : BlockFields) (s : State) : Res :=
  .next (let v := s.vc
    let h := blockShape s f
    let p := (xOperand s f).toNat
    finishWord
      (if f.ty != acctOf v || shapeTrap h [f.ty, tyN16] then .trap trapOperand s
      else
        let entry (j : Nat) : BitVec 16 × Word := (v.merge[p + j]?).getD (0xFFFF, 0)
        let v1 := v.put f.vd h tyN16 ((upTo h.count).map fun j => ⟨j, (entry j).1.toNat, false⟩)
        let v2 := v1.put (regPlus f.vd 1) h f.ty ((upTo h.count).map fun j => ⟨j, (entry j).2.toNat % 2 ^ tyBits f.ty, false⟩)
        .done (s.setVc (if f.func.getLsbD 0 then { v2 with merge := [] } else v2))))

end Sys2Proof.Machine
end

