-- ==== Sys2Proof/Machine/Sparse.lean ====
section
/-!
DEFINITION. Sparse vector instructions (R246 to R249): VMERGE, VTOPK, VSORTK, VCSRX.
-/
namespace Sys2Proof.Machine

/-- The index type of FUNC[0]: n16 or n32. -/
def sparseType (f : BlockFields) : BitVec 5 := if f.func.getLsbD 0 then 5 else 3
/-- The padding index: all ones. -/
def padding (it : BitVec 5) : Nat := 2 ^ tyBits it - 1

/-! ## VMERGE (R246) -/

/-- A stream after its checks: the kept entries, indices ascending; how many were dropped; the first
element whose index decreases. -/
structure Stream where
  kept : List (Nat × Nat)
  drops : Nat
  first : Option Nat

/-- Read one stream of n entries (index and value by element). -/
def readStream (n pad : Nat) (idx val : Nat → Nat) : Stream :=
  let r := (upTo n).foldl (fun (acc : Stream × Option Nat) j =>
    let x := idx j
    if x = pad then acc
    else
      match acc.2 with
      | some last =>
        if x < last then
          ({ acc.1 with drops := acc.1.drops + 1, first := match acc.1.first with | some k => some k | none => some j }, acc.2)
        else ({ acc.1 with kept := (x, val j) :: acc.1.kept }, some x)
      | none => ({ acc.1 with kept := (x, val j) :: acc.1.kept }, some x)) (⟨[], 0, none⟩, none)
  { r.1 with kept := r.1.kept.reverse }

/-- Two ascending lists in ascending index, the first one's entries before the second's. -/
def mergeLists : Nat → List (Nat × Nat) → List (Nat × Nat) → List (Nat × Nat)
  | 0, a, b => a ++ b
  | _, [], b => b
  | _, a, [] => a
  | fuel + 1, (x, v) :: a, (y, w) :: b =>
    if x ≤ y then (x, v) :: mergeLists fuel a ((y, w) :: b) else (y, w) :: mergeLists fuel ((x, v) :: a) b

/-- Add entries of equal index in order, one rounding per addition. -/
def sumEqual (add : Nat → Nat → Nat × Flags) (l : List (Nat × Nat)) : List (Nat × Nat) × Flags :=
  let r := l.foldl (fun (acc : List (Nat × Nat) × Flags) x =>
    match acc.1 with
    | (y, v) :: rest =>
      if y = x.1 then
        let (w, fl) := add v x.2
        ((y, w) :: rest, acc.2 ||| fl)
      else (x :: acc.1, acc.2)
    | [] => ([x], acc.2)) ([], 0)
  (r.1.reverse, r.2)

/-- The values of a stream as VMERGE reads them: a subnormal is zero under FTZ (R91). -/
def readValues (ftz : Bool) (ty : BitVec 5) (l : List (Nat × Nat)) : List (Nat × Nat) × Flags :=
  (l.map fun x => (x.1, (flushIn ftz ty x.2).1), l.foldl (fun fl x => fl ||| (flushIn ftz ty x.2).2) 0)

/-- VFSTAT.DROPS after more drops, saturating. -/
def addDrops (w : Word) (k : Nat) : Word := putBits w 0 (BitVec.ofNat 16 (min (bits w 0 16 + k) 0xFFFF))

/-- VMERGE (R246). -/
def execVmerge (f : BlockFields) (s : State) : Res :=
  .next (let v := s.vc
    let h := blockShape s f
    let it := sparseType f
    let n := h.count
    let va1 := regPlus f.va 1
    let vb1 := regPlus f.vb 1
    let a := readStream n (padding it) (elem (v.reg f.va) h it) (elem (v.reg va1) h f.ty)
    let b := readStream n (padding it) (elem (v.reg f.vb) h it) (elem (v.reg vb1) h f.ty)
    finishWord
      (if shapeTrap h [f.ty, it] then .trap trapOperand s
      else if poisoned v h [(f.va, it), (va1, f.ty), (f.vb, it), (vb1, f.ty)] (fun _ => true) then .lost s 0
      else
        let sorted (k : Option Nat) (bit : Nat) : Option TrapInfo :=
          if sortTraps s then k.map fun j => { cause := 0x10, elem := BitVec.ofNat 16 (0x8000 + bit + j) } else none
        match (sorted a.first 0).or (sorted b.first 0x2000) with
        | some t => .trap t s
        | none =>
          let (ka, fa) := readValues (ftzOn s) f.ty a.kept
          let (kb, fb) := readValues (ftzOn s) f.ty b.kept
          let (out, fs) := sumEqual (addElems (roundMode s f) (ftzOn s) f.ty) (mergeLists (2 * n) ka kb)
          let fl := fa ||| fb ||| fs
          if n < out.length then .trap trapOperand s
          else
            let entry (j : Nat) : Nat × Nat := (out[j]?).getD (padding it, 0)
            let v1 := v.put f.vd h it ((upTo n).map fun j => ⟨j, (entry j).1, false⟩)
            let v2 := v1.put (regPlus f.vd 1) h f.ty ((upTo n).map fun j => ⟨j, (entry j).2, false⟩)
            let drops := a.drops + b.drops
            .done (raiseFlags (s.setVc { v2 with vfstat := addDrops v2.vfstat drops }) (if drops = 0 then fl else fl ||| fSORTV))))

/-! ## VTOPK and VSORTK (R247, R248) -/

/-- The order of VTOPK and of ascending VSORTK, where NaN is above every number: x before y. Subnormal values count by
their exact value, with FTZ = 1 too: whether R91 reaches these orders is not stated (DESIGN CHOICE, log entry 94). -/
def keyLt (ty : BitVec 5) (x y : Nat) : Bool :=
  if isFloat ty then
    let a := elemValue ty x
    let b := elemValue ty y
    if a.isNan then false else if b.isNan then true else fLt a b
  else decide (intElem ty x < intElem ty y)

/-- Insert an entry behind every entry that it does not come before: a stable sort's step. -/
def insertBy {α : Type} (lt : α → α → Bool) (x : α) : List α → List α
  | [] => [x]
  | y :: l => if lt x y then x :: y :: l else y :: insertBy lt x l

/-- A stable sort. -/
def sortBy {α : Type} (lt : α → α → Bool) (l : List α) : List α := l.foldl (fun d x => insertBy lt x d) []

/-- The padding value of VTOPK: −∞, or the least integer. -/
def topkPad (ty : BitVec 5) : Nat :=
  if isFloat ty then (fmtOf ty).pack true (fmtOf ty).infCode else if isSigned ty then 2 ^ (tyBits ty - 1) else 0

/-- VTOPK (R247). -/
def execVtopk (f : BlockFields) (s : State) : Res :=
  .next (let v := s.vc
    let h := blockShape s f
    let it := sparseType f
    let on := active v f f.ty
    finishWord
      (if shapeTrap h [f.ty, it] then .trap trapOperand s
      else if poisoned v h [(f.va, f.ty)] on then .lost s 0
      else
        let w := min (xOperand s f).toNat h.cols
        let rows := (upTo h.rows).map fun i =>
          let l := (upTo h.cols).filterMap fun c =>
            if on (i * h.cols + c) then some (c, elem (v.reg f.va) h f.ty (i * h.cols + c)) else none
          let r := sortBy (fun (x y : Nat × Nat) => keyLt f.ty y.2 x.2) l
          (upTo w).map fun t => (i * h.cols + t, (r[t]?).getD (padding it, topkPad f.ty))
        let out := rows.flatten
        let v1 := v.put f.vd h it (out.map fun x => ⟨x.1, x.2.1, false⟩)
        .done (s.setVc (v1.put (regPlus f.vd 1) h f.ty (out.map fun x => ⟨x.1, x.2.2, false⟩)))))

/-- The order of VSORTK: NaN keys last in both directions. -/
def sortLt (desc : Bool) (ty : BitVec 5) (x y : Nat) : Bool :=
  let nan (z : Nat) : Bool := isFloat ty && (elemValue ty z).isNan
  if nan x then false else if nan y then true else if desc then keyLt ty y x else keyLt ty x y

/-- VSORTK (R248). -/
def execVsortk (f : BlockFields) (s : State) : Res :=
  .next (let v := s.vc
    let h := blockShape s f
    let it := sparseType f
    let on := active v f f.ty
    finishWord
      (if shapeTrap h [f.ty, it] then .trap trapOperand s
      else if poisoned v h [(f.va, f.ty), (f.vb, it)] (fun _ => true) then .lost s 0
      else
        let rows := (upTo h.rows).map fun i =>
          let js := (upTo h.cols).map (i * h.cols + ·)
          let pair (j : Nat) : Nat × Nat := (elem (v.reg f.va) h f.ty j, elem (v.reg f.vb) h it j)
          let act := sortBy (fun (x y : Nat × Nat) => sortLt (f.func.getLsbD 1) f.ty x.1 y.1) ((js.filter on).map pair)
          let all := act ++ (js.filter fun j => !on j).map pair
          all.zipIdx.map fun (x, t) => (i * h.cols + t, x)
        let out := rows.flatten
        let v1 := v.put f.vd h it (out.map fun x => ⟨x.1, x.2.2, false⟩)
        .done (s.setVc (v1.put (regPlus f.vd 1) h f.ty (out.map fun x => ⟨x.1, x.2.1, false⟩)))))

/-! ## VCSRX (R249) -/

/-- VCSRX (R249). -/
def execVcsrx (f : BlockFields) (s : State) : Res :=
  .next (let v := s.vc
    let h := blockShape s f
    let it := sparseType f
    let on := active v f f.ty
    let x (j : Nat) : Nat := elem (v.reg f.vb) h it j
    let used := (upTo h.count).filter fun j => on j && x j != padding it
    finishWord
      (if shapeTrap h [f.ty, it] then .trap trapOperand s
      else if poisoned v h [(f.vb, it)] on then .lost s 0
      else if used.any fun j => decide (h.cols ≤ x j) then .trap trapOperand s
      else
        let l := (upTo h.count).map fun k =>
          -- the highest entry of the row that names the column
          match (used.filter fun j => j / h.cols == k / h.cols && x j == k % h.cols).getLast? with
          | some j => (⟨k, elem (v.reg f.va) h f.ty j, elemBad (v.poi f.va) h f.ty j⟩ : Put)
          | none => ⟨k, 0, false⟩
        .done (s.setVc (v.put f.vd h f.ty l))))

end Sys2Proof.Machine
end

