-- ==== Sys2Proof/Machine/Coll.lean ====
section
/-!
DEFINITION. Collectives (R262, R263, R335, R368): COLL, COLLWAIT, and the completion of an instance.
-/
namespace Sys2Proof.Machine

/-! ## The descriptor (R262) -/

/-- A collective descriptor, before its checks. -/
structure CollDesc where
  kind : Nat
  rop : Nat
  ty : Nat
  root : Nat
  group : Nat
  count : Nat
  src : Word
  dst : Word
  rest : List Word

def CollDesc.ofWords (l : List Word) : CollDesc :=
  let w := l.getD 0 0
  { kind := bits w 0 8, rop := bits w 8 8, ty := bits w 16 8, root := bits w 24 8, group := bits w 32 16,
    count := bits w 48 16, src := l.getD 1 0, dst := l.getD 2 0, rest := l.drop 3 }

/-- Type code and bytes of an element. -/
def CollDesc.type (d : CollDesc) : BitVec 5 := BitVec.ofNat 5 d.ty
def CollDesc.size (d : CollDesc) : Nat := tyBytes d.type
/-- Bytes that one member brings. -/
def CollDesc.bytes (d : CollDesc) : Nat := d.count * d.size

/-- A value of the descriptor lies outside its table, whatever the group. -/
def CollDesc.bad (d : CollDesc) : Bool :=
  decide (3 < d.kind) || decide (5 < d.rop) || !(decide (d.ty < 8) || d.ty == 10 || d.ty == 11) || d.rest.any (· != 0) ||
    decide (256 < d.bytes) || d.src.toNat % d.size != 0 || d.dst.toNat % d.size != 0 ||
    (d.kind == 2 && isFloat d.type && decide (2 < d.rop))

/-- It does not fit a group of `n` members. -/
def CollDesc.misfit (d : CollDesc) (n : Nat) : Bool :=
  (d.kind == 1 && decide (n ≤ d.root)) || (d.kind == 3 && decide (65536 < d.bytes * n))

/-! ## The group (R335) -/

/-- The registers of a group-table entry, as a read in this control cycle finds them (R332, R335). -/
def grpctlOf (s : State) (p e : Nat) : Word := getPriv s (.grpctl (64 * p + e))
def grplistOf (s : State) (p e : Nat) : Word := getPriv s (.grplist (64 * p + e))

/-- The ids in the doublewords of a member list. -/
def memberIds (l : List Word) (n : Nat) : List Nat := (upTo n).map fun i => bits (l.getD (i / 4) 0) (16 * (i % 4)) 16

/-- A member list is acceptable to a member whose own id is `me`. -/
def membersOk (s : State) (pkg : Bool) (me : Nat) (ids : List Nat) : Bool :=
  ids.eraseDups.length == ids.length && ids.contains me &&
    (pkg || ids.all fun v => decide (v < numCores) && s.partOf v == some (s.issuePart s.cur.unit s.cur.ctx))

/-! ## COLL -/

/-- Bytes from `va` up, loaded element by element with loads of the context. -/
def readSource (s : State) (va : Word) (size : Nat) : Nat → Except CRes (List Byte × State)
  | 0 => .ok ([], s)
  | n + 1 =>
    match loadVa s s.cur.unit s.cur.ctx size va with
    | .trap t => .error (.trap t)
    | .wait w s => .error (.stall w s)
    | .ok v bad s =>
      if bad then .error (.final (consume s s.cur.unit s.cur.ctx (paOf s va)))
      else
        match readSource s (va + BitVec.ofNat 64 size) size n with
        | .error r => .error r
        | .ok (l, s) => .ok (bvBytes size (BitVec.ofNat 64 v) ++ l, s)

/-- The first address of `n` elements from `va` up that does not translate: its fault. -/
def xlateFault (s : State) (write : Bool) (va : Word) (size : Nat) : Nat → Option TrapInfo
  | 0 => none
  | n + 1 =>
    match s.xlate s.cur.unit s.cur.ctx (if write then .store else .load) write va with
    | .error st => some (trapXlate false st va)
    | .ok _ => xlateFault s write (va + BitVec.ofNat 64 size) size n

/-- The first address of a destination that lies on a device page: the page-attribute trap. -/
def deviceFault (s : State) (va : Word) (size : Nat) : Nat → Option TrapInfo
  | 0 => none
  | n + 1 =>
    match s.xlate s.cur.unit s.cur.ctx .store true va with
    | .error _ => none
    | .ok tg => if tg.attr = .device then some (trapAt 0x08 va) else deviceFault s (va + BitVec.ofNat 64 size) size n

/-- The trap of a source of `ns` and a destination of `nd` elements: translation before page attributes (R315). -/
def dataFault (s : State) (src dst : Word) (size ns nd : Nat) : Option TrapInfo :=
  (xlateFault s false src size ns).or ((xlateFault s true dst size nd).or (deviceFault s dst size nd))

/-- Elements that an instance writes to a member's destination. -/
def CollDesc.dstCount (d : CollDesc) (n : Nat) : Nat :=
  match d.kind with
  | 0 => 0
  | 3 => d.count * n
  | _ => d.count

/-- The member brings data: the root of a broadcast, and every member of a reduction or a gathering. -/
def CollDesc.brings (d : CollDesc) (me : Nat) : Bool := d.kind == 2 || d.kind == 3 || (d.kind == 1 && d.root == me)

/-- A handle that no collective of the stream has: any word with distinct low 16 bits. -/
def freeHandle (used : List Nat) : Nat → Nat → Nat
  | 0, k => k
  | fuel + 1, k => if used.contains (k % 65536) then freeHandle used fuel (k % 65536 + 1) else k % 65536

/-- Collectives of the stream of the issuing context. -/
def streamColls (s : State) : List Coll := (s.stream s.cur.unit s.cur.ctx).flatMap fun (v, i) => (s.ctx v i).colls

/-- The collectives that have joined an instance of a partition: unit, context, collective. -/
def joinedColls (s : State) (p e inst : Nat) : List (Nat × Nat × Coll) :=
  s.cores.flatMap fun (u, c) => (upTo 8).flatMap fun i =>
    ((c.ctx i).colls.filter fun k => k.entry == e && k.inst == inst && !k.done && s.issuePart u i == p).map fun k => (u, i, k)

/-- The part of a descriptor on which members must agree: KIND, ROP, TYPE, ROOT, COUNT. -/
def agreeWord (w : Word) : Word := w &&& 0xFFFF_0000_FFFF_FFFF#64

/-- The agreed part of a collective that has joined. -/
def Coll.word (k : Coll) : Word := k.count ++ 0#16 ++ k.root ++ k.ty ++ k.rop ++ k.kind

/-- A member of a pod collective sends its part to the package of member 0, the root (R365, R368). -/
def sendPart (s : State) (k : Coll) : State :=
  match k.members with
  | root :: _ =>
    if k.pkg && k.me != 0 then
      s.modPkg fun p => { p with wire := (root, k.pod, 0, .part k.entry k.inst k.me k.word k.data) :: p.wire }
    else s
  | [] => s

/-- Join the next instance of the group. Each member keeps the list that its COLL has read (R335). -/
def joinColl (s : State) (xd : Reg) (scope : BitVec 3) (d : CollDesc) (pkg : Bool) (ids : List Nat) (me : Nat) (data : List Byte) : CRes :=
  let p := s.issuePart s.cur.unit s.cur.ctx
  let key := 2048 * d.group + (if pkg then 1024 else me)
  let inst := (s.part p).collNo.get 0 key
  let w := Config.freeWord s.fresh
  let h : Word := w.extractLsb' 16 48 ++ BitVec.ofNat 16 (freeHandle ((streamColls s).map fun k => bits k.handle 0 16) 65536 (bits w 0 16))
  let k : Coll :=
    { handle := h, entry := d.group, inst := inst, scope := scope, kind := BitVec.ofNat 8 d.kind, rop := BitVec.ofNat 8 d.rop,
      ty := BitVec.ofNat 8 d.ty, root := BitVec.ofNat 8 d.root, count := BitVec.ofNat 16 d.count, dst := d.dst, pkg := pkg,
      members := ids, me := (listIndex (· == me) ids).getD 0, data := data, done := false, mismatch := false,
      failed := false, pod := (podOf s s.cur.unit s.cur.ctx).getD 0 }
  let s := sendPart s k
  let s := s.tick.modPart p fun x => { x with collNo := x.collNo.set key (inst + 1) }
  .done (setX (s.modMe fun x => { x with colls := x.colls ++ [k] }) xd h)

/-- The remote-access trap of a collective over packages (R365): the issuer's PODPAIR is not enabled, or no route
leads to a member. -/
def podTrap (s : State) (d : CollDesc) (ids : List Nat) : Option TrapInfo :=
  if (podOf s s.cur.unit s.cur.ctx).isNone then some trapNoRoute
  else if ids.any fun k => k != s.pkg.id && (s.pkg.route k d.dst).isNone then some trapNoRoute
  else none

/-- COLL with its descriptor read and checked alone: the group, the member list and the data. -/
def collGroup (s : State) (xd : Reg) (scope : BitVec 3) (d : CollDesc) : CRes :=
  let p := s.issuePart s.cur.unit s.cur.ctx
  let ctl := grpctlOf s p d.group
  if 64 ≤ d.group || !ctl.getLsbD 63 then .trap trapOperand
  else
    let pkg := ctl.getLsbD 62
    let n := bits ctl 0 10 + 1
    if scope.toNat < 3 || (pkg && scope.toNat != 4) || d.misfit n then .trap trapOperand
    else
      match readWords s (grplistOf s p d.group &&& 0x00FF_FFFF_FFFF_FFC0#64) (ceilDiv n 4) with
      | .error r => r
      | .ok (l, s) =>
        let ids := memberIds l n
        let me := if pkg then s.pkg.id else s.cur.unit
        if !membersOk s pkg me ids then .trap trapOperand
        else
          let ns := if d.brings ((listIndex (· == me) ids).getD 0) then d.count else 0
          match (dataFault s d.src d.dst d.size ns (d.dstCount n)).or (if pkg then podTrap s d ids else none) with
          | some t => .trap t
          | none =>
            if 4 ≤ ((streamColls s).filter fun k => !k.done).length then .stall .engine s
            else
              match readSource s d.src d.size ns with
              | .error r => r
              | .ok (data, s) => joinColl s xd scope d pkg ids me data

/-- COLL (R262): a release at its scope. -/
def execColl (xd xa : Reg) (scope : BitVec 3) (s : State) : Res :=
  .next (control s [xa] (some xd) fun s => held s fun s =>
    if (X s xa).toNat % 64 ≠ 0 then .trap trapOperand
    else if !orderedAt s scope then .stall .order s
    else
      withDescriptor s (X s xa) 8 fun l s =>
        let d := CollDesc.ofWords l
        if d.bad then .trap trapOperand else collGroup s xd scope d)

/-! ## COLLWAIT -/

/-- COLLWAIT (R263): an acquire at its scope. A mismatch, or an error between packages, ranks before its own check
(R315, R365). A handle is looked for in the stream of the issuing context: that another context's would be waited for
is not stated, and it counts as not in flight (DESIGN CHOICE, log entry 89). -/
def execCollwait (xa : Reg) (scope : BitVec 3) (s : State) : Res :=
  .next (control s [xa] none fun s =>
    match (streamColls s).find? fun k => k.handle == X s xa with
    | none => held s fun s => .done s
    | some k =>
      if k.mismatch then .trap { cause := 0x0F, clears := .coll k.handle }
      else if k.failed then .trap (trapColl k)
      else if k.scope ≠ scope then .trap trapOperand
      else held s fun s => .stall .transfer s)

/-! ## COLLECTIVE_COMPLETE (R262, R263, R368) -/

/-- One step of an all-reduce on two encodings: RNE, no FTZ, integers wrap, R93 for min and max. -/
def reduceStep (rop : Nat) (ty : BitVec 5) (a b : Nat) : Nat :=
  match rop with
  | 0 => (addElems 0 false ty a b).1
  | 1 => (reduceMinMax false false ty a b).1
  | 2 => (reduceMinMax false true ty a b).1
  | 3 => Nat.land a b
  | 4 => Nat.lor a b
  | _ => Nat.xor a b

/-- Element i of a member's bytes. -/
def bytesElem (size i : Nat) (bs : List Byte) : Nat := (bytesBV (8 * size) ((bs.drop (size * i)).take size)).toNat

/-- The fold of the members' bytes, in ascending member index. -/
def reduceAll (rop : Nat) (ty : BitVec 5) (count : Nat) : List (List Byte) → List Byte
  | [] => []
  | first :: rest =>
    let size := tyBytes ty
    (upTo count).flatMap fun i =>
      bvBytes size (BitVec.ofNat (8 * size) (rest.foldl (fun a bs => reduceStep rop ty a (bytesElem size i bs)) (bytesElem size i first)))

/-- What an instance gives every member, from what each brought, by member index. -/
def collResult (k : Coll) (all : List (List Byte)) : List Byte :=
  match k.kind.toNat with
  | 0 => []
  | 1 => all.getD k.root.toNat []
  | 2 => reduceAll k.rop.toNat (k.ty.setWidth 5) k.count.toNat all
  | _ => all.flatten

/-- The targets of a result at a member's destination; `none` when one does not translate. -/
def resultTargets (s : State) (u c : Nat) (size : Nat) (va : Word) : List Byte → Nat → Option (List (Target × List Byte))
  | _, 0 => some []
  | [], _ => some []
  | bs, fuel + 1 =>
    match s.translate u (s.issuePart u c) (s.privileged u c) .engine true va with
    | .error _ => none
    | .ok tg => (resultTargets s u c size (va + BitVec.ofNat 64 size) (bs.drop size) fuel).map fun l => (tg, bs.take size) :: l

/-- Write a result to one member's destination: all of it or, while a line is held back, nothing: then it says which
lines they are. -/
def putResult (s : State) (u c : Nat) (k : Coll) (result : List Byte) : Except (List Nat) State :=
  match resultTargets s u c (tyBytes (k.ty.setWidth 5)) k.dst result result.length with
  | none => .error []
  | some l =>
    if l.all fun x => s.writable (x.1.pa / 64) then
      .ok (l.foldl (fun s x => homeWrite s none none (s.issuePart u c) x.1.attr x.1.pa x.2) s)
    else .error (l.map fun x => x.1.pa / 64)

/-- Change the collective of a context that has this handle. -/
def modColls (s : State) (u c : Nat) (f : List Coll → List Coll) : State := s.modCtx u c fun x => { x with colls := f x.colls }

/-- A member of an instance by its id: a core, or this package. -/
def memberNamed (here : List (Nat × Nat × Coll)) (id : Nat) : Option (Nat × Nat × Coll) :=
  here.find? fun x => x.2.2.members[x.2.2.me]? == some id

/-- What each member of a collective's list brought: the agreed word and the bytes, or that it cannot be reached (R365).
`none` while one has not joined. -/
def instanceParts (k : Coll) (here : List (Nat × Nat × Coll)) (others : List (Nat × Option (Word × List Byte))) :
    Option (List (Option (Word × List Byte))) :=
  k.members.zipIdx.foldr (fun m acc =>
    match acc with
    | none => none
    | some l =>
      match memberNamed here m.1 with
      | some x => some (some (x.2.2.word, x.2.2.data) :: l)
      | none =>
        if k.pkg then (others.find? fun x => x.1 == m.2).map fun x => (x.2.map fun y => (agreeWord y.1, y.2)) :: l else none) (some [])

/-- Every member that brings data brings the bytes of its elements. -/
def lengthsOk (k : Coll) (all : List (List Byte)) : Bool :=
  let n := k.count.toNat * tyBytes (k.ty.setWidth 5)
  match k.kind.toNat with
  | 0 => true
  | 1 => (all.getD k.root.toNat []).length == n
  | _ => all.all fun x => x.length == n

/-- What the members of an instance here find, each by its own list. `none` while a member of one has not joined. -/
def allParts (here : List (Nat × Nat × Coll)) (others : List (Nat × Option (Word × List Byte))) :
    Option (List ((Nat × Nat × Coll) × List (Option (Word × List Byte)))) :=
  here.foldr (fun x acc =>
    match acc, instanceParts x.2.2 here others with
    | some l, some ps => some ((x, ps) :: l)
    | _, _ => none) (some [])

/-- The members of an instance here learn how it has ended. -/
def endColls (s : State) (here : List (Nat × Nat × Coll)) (f : Coll → Coll) : State :=
  here.foldl (fun s x => modColls s x.1 x.2.1 fun l => l.map fun k => if k.handle = x.2.2.handle then f k else k) s

/-- The members of an instance here no longer have it in flight. -/
def dropColls (s : State) (here : List (Nat × Nat × Coll)) : State :=
  here.foldl (fun s x => modColls s x.1 x.2.1 fun l => l.filter fun k => k.handle != x.2.2.handle) s

/-- Write the members' results, each from its own list of parts; or whose result is held back, and by which lines. -/
def putResults (s : State) (l : List ((Nat × Nat × Coll) × List (Word × List Byte))) : Except (Waiter × List Nat) State :=
  l.foldl (fun r y =>
    match r with
    | .error e => .error e
    | .ok s =>
      match putResult s y.1.1 y.1.2.1 y.1.2.2 (collResult y.1.2.2 (y.2.map (·.2))) with
      | .error lines => .error (.coll y.1.1 y.1.2.1, lines)
      | .ok s => .ok s) (.ok s)

/-- The root of a pod collective sends the result to the other members (R368). -/
def sendResults (s : State) (k : Coll) (result : List Byte) : State :=
  if k.pkg && k.me == 0 then
    s.modPkg fun p => { p with wire := ((k.members.drop 1).map fun m => (m, k.pod, 0, RemoteOp.result k.entry k.inst result)) ++ p.wire }
  else s

/-- COLLECTIVE_COMPLETE: every member of an instance has joined; members in other packages bring what `others` says,
by member index, or cannot be reached (R365). Members that disagree are told at their COLLWAIT, and so are the
members of an instance that an error between packages ends (DEDUCED, log entry 87). -/
def execCollectiveComplete (part entry inst : Nat) (others : List (Nat × Option (Word × List Byte))) (s : State) : Res :=
  .next (match joinedColls s part entry inst with
    | [] => s
    | x :: rest =>
      let here := x :: rest
      match allParts here others with
      | none => s
      | some l =>
        if l.any fun y => y.2.any fun p => p.isNone then endColls s here fun k => { k with done := true, failed := true }
        else
          let l := l.map fun y => (y.1, y.2.filterMap id)
          if l.any fun y => y.2.any fun p => p.1 != x.2.2.word then endColls s here fun k => { k with done := true, mismatch := true }
          else if !l.all fun y => lengthsOk y.1.2.2 (y.2.map (·.2)) then s
          else
            match putResults s l with
            -- the writes wait at their homes (R112)
            | .error e => s.waitOn e.1 e.2
            | .ok t => l.foldl (fun s y => sendResults s y.1.2.2 (collResult y.1.2.2 (y.2.map (·.2)))) (dropColls t here))

end Sys2Proof.Machine
end

