-- ==== Sys2Proof/Machine/Mailbox.lean ====
section
/-!
DEFINITION. The management commands of the mailbox and the sideband (R289, R369 to R371), and the end of a page
fault of an engine access (R258, R297, R311).
-/
namespace Sys2Proof.Machine

/-- A command is answered on the port that brought it; the mailbox also raises MSI-X vector 0 (R362,
R371). -/
def answerOn (s : State) (port : Port) (status : Nat) (ws : List Word) : State :=
  match port with
  | .mailbox => answer s status ws
  | .sideband => s.modPkg fun p => { p with reply := some ⟨status, ws⟩ }

/-- A command of a port: before bring-up ends, only the sideband is served (R372). Commands of both ports run one at a
time: while one has not been answered, the next waits (R369, R371). -/
def portCommand (s : State) (port : Port) (body : State) : State :=
  if port = .mailbox && !mailboxReady s then busy s else if s.pkg.command then s else body

/-- READ_REGISTER (R369, R371): command 0xC000, as GETP on a management core. -/
def execReadRegister (port : Port) (num : BitVec 12) (inst : Nat) (s : State) : Res :=
  .next (portCommand s port (match pregOf num.toNat inst with
    | none => answerOn s port 2 []
    | some r => answerOn s port 0 [getPriv s r]))

/-- WRITE_REGISTER (R369): command 0xC001, as SETP on a management core; what SETP would refuse changes
nothing. -/
def execWriteRegister (num : BitVec 12) (inst : Nat) (value : Word) (s : State) : Res :=
  .next (portCommand s .mailbox (match pregOf num.toNat inst with
    | none => invalidInput s
    | some r => if privOk s r value then answer (setPriv s r value hostKey) 0 [] else invalidInput s))

/-- The task image of a dispatcher strand, where it translates. -/
def dispatcherImage (s : State) (p : Nat) (va : Word) : Option Image :=
  if va.toNat % 128 ≠ 0 then none
  else
    match s.deviceXlate p false va with
    | .error _ => none
    | .ok _ => some (Image.ofWords (deviceWords s p va 16))

/-- Every check of R291 on the image of a dispatcher strand, which belongs to no queue (R289). -/
def dispatcherOk (s : State) (p : Nat) (i : Image) : Bool :=
  imageFormOk i && i.preds.all fun h => match s.named p h with
    | .bad => false
    | .completed => true
    | .live _ _ => true

/-- START_DISPATCHER_STRAND (R289, R369): command 0xC002. Its task is in no queue, so it passes no order point. -/
def execStartDispatcherStrand (part queue : Nat) (image : Word) (s : State) : Res :=
  .next (partCommand s part
    (if deviceLater s part image then s
    else if queue > 3 || (s.part part).launchMode ≠ 2 || !(s.queue (4 * part + queue)).qctl.getLsbD 63 then invalidInput s
    else
      match dispatcherImage s part image with
      | none => invalidInput s
      | some i =>
        let d := s.partDie part
        if !dispatcherOk s part i then invalidInput s
        else if !s.placing part || !nodeRoom s d i.ranges || !linksFree s (some d) (predsOf s part none i.ranges i.preds) then busy s
        else
          let (h, s) := allocNode s d part none i i.origin (launchKey d 0)
          answer (orderNode s (d, bits h 0 13) (predsOf s part none i.ranges i.preds)) 0 [h]))

/-- READ_ERROR_RECORD (R369, R371): command 0xC007; an empty log reads as zeros. -/
def execReadErrorRecord (port : Port) (part : Nat) (pop : Bool) (s : State) : Res :=
  .next (portCommand s port (if 16 ≤ part || !s.ownsRing part then answerOn s port 2 []
    else
      let log := (s.part part).log
      let ws := match log.recs with
        | [] => List.replicate 8 0
        | r :: _ => r.toList
      answerOn (if pop then s.modPart part fun x => { x with log := { log with recs := log.recs.drop 1 } } else s) port 0 ws))

/-- READ_LINK_CONFIGURATION (R367, R372): command 0xC009, answered in every phase. -/
def execReadLinkConfiguration (port : Port) (s : State) : Res :=
  .next (if s.pkg.command then s else answerOn s port 0 [s.pkg.link])

/-- MESSAGE_TO_FIRMWARE (R369, R332): command 0xC00A sets bit 3 of the event set of die 0. -/
def execMessageToFirmware (w0 w1 : Word) (s : State) : Res :=
  .next (portCommand s .mailbox
    (answer ((s.modPkg fun p => { p with inq := p.inq ++ [(w0, w1)] }).setEvent 0 3) 0 []))

/-- READ_DEVICE_MESSAGE (R370): command 0xC00B; records that wait in their partitions move up. -/
def execReadDeviceMessage (s : State) : Res :=
  .next (portCommand s .mailbox (match s.pkg.outq with
    | [] => answer s 0 []
    | m :: rest => answer (State.flushNotes 17 (s.modPkg fun p => { p with outq := rest })) 0 [m.seq, m.w0, m.w1]))

/-! ## The end of a page fault -/

/-- The faulting party resumes, or the access that faulted aborts (R258, R260, R353). -/
def endFault (s : State) (who : Faulter) (va : Word) (served : Bool) : State :=
  match who, served with
  | .copy u h, true =>
    s.modCore u fun c => { c with copies := c.copies.map fun y => if y.handle = h then { y with paused := none } else y }
  | .copy u h, false => abortCopy s u h va
  | .pass p, true => s.modPart p fun x => { x with pass := x.pass.map fun ps => { ps with paused := false } }
  | .pass p, false => passAbort s p
  | .remote _, true => s
  | .remote src, false => reply s src false 0
  | .own _ _, true => s
  | .own u c, false => s.modCtx u c fun x => { x with reply := some (0, false) }
  | .rcopy _ _ _, true => s
  | .rcopy u c id, false =>
    match (s.ctx u c).rcopies.find? fun r => r.id == id with
    | none => s
    | some r => failRcopy s u c id r
  | .inside _ _ _, true => s
  | .inside u c id, false => failStore s u c id

/-- A page-fault record is closed. -/
def closeFault (s : State) (record : Nat) (f : PageFault) (served : Bool) : State :=
  endFault (s.modPkg fun p => { p with pfaults := p.pfaults.del record }) f.who f.va served

/-- The address of the write of STATE with which an unserved fault ends a pass, while that is held back: the service
waits (R112, R353). -/
def abortWaits (s : State) (f : PageFault) (served : Bool) : Option Word :=
  match f.who, served with
  | .pass p, false =>
    match (s.part p).pass with
    | some ps => if (devicePut s p (BitVec.ofNat 64 ps.desc) (ps.number ++ 0#32)).isNone then some (BitVec.ofNat 64 ps.desc) else none
    | none => none
  | _, _ => none

/-- RESUME_AFTER_PAGE_FAULT (R370): command 0xC003; action 0 aborts. -/
def execResumeAfterPageFault (record : Nat) (action : Word) (s : State) : Res :=
  .next (portCommand s .mailbox (match s.pkg.pfaults.find? record with
    | none => invalidInput s
    | some f => if f.mode ≠ 2 then invalidInput s
      else
        match abortWaits s f (action != 0) with
        | some va => dutyWait s f.part va
        | none => answer (closeFault s record f (action != 0)) 0 []))

/-- PAGE_FAULT_SERVICE (R297): in PFAULT mode 01 the management core has served the fault, or leaves it
unserved. -/
def execPageFaultService (record : Nat) (served : Bool) (s : State) : Res :=
  .next (match s.pkg.pfaults.find? record with
    | none => s
    | some f => if f.mode = 2 then s
      else
        match abortWaits s f served with
        | some va => dutyWait s f.part va
        | none => closeFault s record f served)

end Sys2Proof.Machine
end

