-- ==== Sys2Proof/Machine/Host.lean ====
section
/-!
DEFINITION. The host (R362 to R364), stations (R366), power (R375, R376) and bring-up (R372).
-/
namespace Sys2Proof.Machine

/-! ## Host accesses (R363) -/

/-- The host can reach device memory: bring-up is over, the link is up, the dies have power. -/
def hostReady (s : State) : Bool := s.pkg.phase == 6 && s.pkg.hostLink && !s.pkg.faulted

/-- A write by the host is performed at the home: the partition of the line's last writer stays. -/
def hostPut (s : State) (pa : Nat) (data : List Byte) : State :=
  (homeWrite s none none 0 .cacheable pa data).modFab fun f => { f with l2 := s.fab.l2, wb := s.fab.wb }

/-- The home waits for its own snoop of the line: the host holds it, and a party of the package is to write it (R363). -/
def snooping (s : State) (line : Nat) : Bool :=
  (s.fab.hostLines.find? line).isSome && (linePending s line || s.lineWaited line || s.fab.misses.any fun m => m.own && m.line == line)

/-- A write by the host: its order with respect to its own copies is its own; it waits for leases and
for an AMO that owns the line. One that comes while the home waits for its own snoop of the line goes before the write
that the snoop is for (R363). -/
def hostWrite (s : State) (pa : Nat) (data : List Byte) : State :=
  if s.leaseOk (pa / 64) && s.unlocked (pa / 64) then hostPut s pa data
  else s.waitOn (if snooping s (pa / 64) then .hostFirst else .host) [pa / 64]

/-- The host takes a line of device memory into its cache; for writing, every copy in the package goes first, and
the granule counts as written (R352). -/
def hostAcquire (s : State) (line : Nat) (modify : Bool) : State :=
  if !modify then
    if (s.fab.hostLines.find? line).isSome || !s.unlocked line then s
    else (shareLine s numUnits line).modFab fun f => { f with hostLines := f.hostLines.set line false }
  else if s.leaseOk line && s.unlocked line then
    ((exposedUnits s none line).foldl squashAt (dropCopies (markWritten s line) none line)).modFab fun f => { f with hostLines := f.hostLines.set line true }
  else s.waitOn .host [line]

/-- The access lies within one line of device memory, or of host memory. -/
def hostInLine (pa n : Nat) : Bool := (isDevMem pa || isHost pa) && decide (pa % 64 + n ≤ 64)

/-- HOST_ACCESS (R363, R112). A write of the host to its own memory is an access of this kind too: every
copy in a leg cache is snooped first (R364). -/
def execHostAccess (pa : Nat) (op : HostOp) (s : State) : Res :=
  .next (if !hostReady s then s
    else
      match op with
      | .read _ => s
      | .acquire modify => if isDevMem pa then hostAcquire s (pa / 64) modify else s
      | .write data => if hostInLine pa data.length then hostWrite s pa data else s)

/-- The host's answer fits what it holds: data comes only from a modified line, and is a whole line. -/
def answerFits (held : Bool) (data : Option (List Byte)) : Bool :=
  match data with
  | none => true
  | some d => held && d.length == 64

/-- BACK_INVALIDATION (R363): the host gives up a line, with its write-back if it has changed it; the write
that waited is performed. -/
def execBackInvalidation (line : Nat) (data : Option (List Byte)) (s : State) : Res :=
  .next (match s.fab.hostLines.find? line with
    | none => s
    | some held =>
      if !hostReady s || !answerFits held data then s
      else
        let s := match data with
          | none => s
          | some d => hostPut s (64 * line) d
        let s := s.modFab fun f => { f with hostLines := f.hostLines.del line }
        match listIndex (fun p => (linesOf p.pa p.bytes.length).contains line) s.fab.pend with
        | none => s
        | some k => performPend s k)

/-! ## Host memory (R364) -/

/-- Fire the monitors of a core on a host line (R189, R364). -/
def fireHost (s : State) (u line : Nat) : State :=
  s.modCore u fun c => { c with ctxs := c.ctxs.map fun x => { x with monitor := x.monitor.map (Monitor.lostLine line) } }

/-- HOST_SNOOP (R364, R189, R52): answered in the leg cache of the core that holds the line. Lines that a
leg has written stay its own; a speculative leg that has read the line is squashed. A snoop that invalidates the
line, or takes its ownership, fires a monitor on it. -/
def execHostSnoop (unit line : Nat) (kind : SnoopKind) (s : State) : Res :=
  .next (if !isHost (64 * line) then s
    else
      match kind with
      | .share =>
        let s' := s.modCore unit fun c =>
          { c with lines := c.lines.map fun x => if x.line = line && x.st == .M then { x with st := .S } else x }
        if (s.core unit).lines.any fun x => x.line == line && x.st == .M then fireHost s' unit line else s'
      | .invalidate =>
        let exposed := (s.core unit).lines.any fun x => x.line == line && x.st == .L && x.exposed != 0
        let s := fireHost (s.modCore unit fun c => { c with lines := c.lines.filter fun x => !(x.line == line && x.st != .L) }) unit line
        if exposed then squashAt s unit else s)

/-- Host memory that a chunk of a copy reads, or writes: lines. -/
def chunkHostLines (s : State) (u : Nat) (c : Copy) (write : Bool) (k : Nat) : List Nat :=
  ((c.elems k).filterMap fun e =>
    match copyPlace s u c write (if write then e.2 else e.1) with
    | some (.mem t) => if isHost t.pa then some (t.pa / 64) else none
    | _ => none).eraseDups

/-- Host memory that the chunks of a copy that have not landed still read or write. -/
def copyHostLines (s : State) (u : Nat) (c : Copy) : List Nat :=
  (((upTo c.chunks).filter fun k => !c.landed.contains k).flatMap fun k =>
    chunkHostLines s u c false k ++ chunkHostLines s u c true k).eraseDups

/-- Host memory that a chunk of an RCOPY reads. -/
def rcopyHostLines (s : State) (u c : Nat) (r : RCopy) (k : Nat) : List Nat :=
  match rcopySources s u c (r.src + 4096 * k) (r.chunkLen k / 8) with
  | .error _ => []
  | .ok l => (l.filterMap fun t => if isHost t.pa then some (t.pa / 64) else none).eraseDups

/-- Host memory that doublewords from `va` up, which a transfer of the context writes in this package, lie in. -/
def targetHostLines (s : State) (u c : Nat) (va : Word) (n : Nat) : List Nat :=
  ((upTo n).filterMap fun i =>
    match s.deviceXlate (s.issuePart u c) true (va + BitVec.ofNat 64 (8 * i)) with
    | .error _ => none
    | .ok tg => if isHost tg.pa then some (tg.pa / 64) else none).eraseDups

/-- Host memory that a chunk of an RCOPY, or its flag, writes. -/
def rcopyPutLines (s : State) (u c : Nat) (r : RCopy) (k : Nat) : List Nat :=
  if r.pkg = s.pkg.id then targetHostLines s u c (r.dst + BitVec.ofNat 64 (4096 * k)) (r.chunkLen k / 8) else []
def flagPutLines (s : State) (u c : Nat) (r : RCopy) : List Nat :=
  if r.pkg = s.pkg.id && r.flagVa != 0 then targetHostLines s u c r.flagVa 1 else []

/-- Host memory that an RSTORE on the own package writes. -/
def insideHostLines (s : State) (x : Sent) : List Nat := targetHostLines s x.unit x.ctx x.va 1

/-- Lines that a request asks for: a vector header names several (R109). -/
def Miss.lines (m : Miss) : List Nat :=
  (m.line :: (upTo m.hdr.count).map fun (i : Nat) => ((m.hdr.base : Int) + m.hdr.stride * (i : Int)).toNat / 64).eraseDups

/-- An outstanding access to host memory: the partition that issued it, its unit and the line. -/
structure HostWait where
  part : Option Nat
  unit : Nat
  line : Nat
  deriving DecidableEq, Repr

/-- The partition that the access of a unit belongs to; a strand that has been pre-empted keeps its own. -/
def waitPart (s : State) (u : Nat) : Option Nat := if 2048 ≤ u then some (s.issuePart u 0) else s.partOf u

/-- The accesses to host memory that are outstanding. -/
def hostOutstanding (s : State) : List HostWait :=
  let of_ (part : Option Nat) (u : Nat) (l : List Nat) : List HostWait := l.map fun k => ⟨part, u, k⟩
  (s.fab.misses.flatMap fun m => of_ (s.partOf m.unit) m.unit (m.lines.filter fun k => isHost (64 * k))) ++
    ((s.fab.pend.filter fun p => isHost p.pa).flatMap fun p => of_ (s.partOf p.unit) p.unit [p.pa / 64]) ++
    (s.pkg.inside.flatMap fun x => of_ (waitPart s x.unit) x.unit (insideHostLines s x)) ++
    s.cores.flatMap fun (u, k) =>
      (k.copies.flatMap fun c => of_ (if isMgmt u then none else some c.part) u (copyHostLines s u c)) ++
        (upTo 8).flatMap fun i => (k.ctx i).rcopies.flatMap fun r =>
          of_ (waitPart s u) u (((upTo r.chunks).filter fun k => !r.landed.contains k).flatMap (fun k => rcopyHostLines s u i r k ++ rcopyPutLines s u i r k) ++
            flagPutLines s u i r)

/-- A copy, or an RCOPY, without its writes to host memory: those chunks have ended, and the flag. -/
def endCopy (s : State) (u : Nat) (c : Copy) : Copy :=
  { c with landed := ((upTo c.chunks).filter fun k => !(chunkHostLines s u c true k).isEmpty).foldl (fun l k => insertNat k l) c.landed }
def endRcopy (s : State) (u c : Nat) (r : RCopy) : RCopy :=
  { r with
    landed := ((upTo r.chunks).filter fun k => !(rcopyPutLines s u c r k).isEmpty).foldl (fun l k => insertNat k l) r.landed
    flagVa := if (flagPutLines s u c r).isEmpty then r.flagVa else 0 }

/-- Copies and RSTOREs end without their writes to host memory. -/
def endTransfers (s : State) : State :=
  let lost := s.pkg.inside.filter fun x => !(insideHostLines s x).isEmpty
  let ctx (u i : Nat) (x : Ctx) : Ctx :=
    { x with
      rcopies := x.rcopies.map (endRcopy s u i)
      rops := x.rops.filter fun r => !lost.any fun y => y.unit == u && y.ctx == i && y.id == r.id }
  ({ s with cores := FMap.mapVals (fun u (k : Core) =>
      { k with copies := k.copies.map (endCopy s u), ctxs := Vector.ofFn fun i => ctx u i.val (k.ctx i.val) }) s.cores }).modPkg fun p =>
    { p with inside := p.inside.filter fun x => !lost.contains x }

/-- The outstanding access is recorded, and its partition takes the unrecoverable path (R342, R364). -/
def loseAccess (s : State) (x : HostWait) : State :=
  let w2 := BitVec.ofNat 64 (64 * x.line)
  let r := if 2048 ≤ x.unit then errRec (errWord0 6 (x.part.getD 0) (dieOf x.unit) 0 0x1F 0x3FF 12) (BitVec.ofNat 64 s.time) w2 0 0 0 0
    else s.coreRec x.unit 6 12 w2 0 0 0
  let s := s.logErr x.part (dieOf x.unit) r
  match x.part with
  | some p => s.unrecoverable p
  | none => s

/-- HOST_LINK_FAILURE (R364): every outstanding access completes with poison: a read finds its lines poisoned, and a
store, or a copy to host memory, ends without effect. Its partition takes the unrecoverable path. The lines read as
poisoned until the link is restored (log entry 65). Writes of the host that waited are gone. -/
def execHostLinkFailure (s : State) : Res :=
  .next (if !s.pkg.hostLink then s
    else
      let out := hostOutstanding s
      let lost := ((out.flatMap fun x => (upTo 4).map (4 * x.line + ·)).filter fun k => !s.fab.poison.contains k).eraseDups
      let s := (endTransfers s).modFab fun f =>
        { f with
          pend := f.pend.filter fun p => !isHost p.pa
          waits := f.waits.filter fun w => w.2 != .hostFirst && w.2 != .host
          poison := lost.foldl (fun l k => insertNat k l) f.poison }
      let s := s.modPkg fun p => { p with hostLink := false, hostTell := p.hostTell || !out.isEmpty, hostLost := lost }
      out.foldl loseAccess s)

/-- HOST_LINK_RESTORED (R364): the host is told of accesses that the failure ended. -/
def execHostLinkRestored (s : State) : Res :=
  .next (if s.pkg.hostLink then s
    else
      let tell := s.pkg.hostTell
      let lost := s.pkg.hostLost
      let s := (s.modPkg fun p => { p with hostLink := true, hostTell := false, hostLost := [] }).modFab fun f =>
        { f with poison := f.poison.filter fun k => !lost.contains k }
      if tell then s.raiseMsix 3 else s)

/-! ## Stations (R366) -/

/-- A request that can no longer reach its target fails there (R260). -/
def failSent (s : State) (x : Sent) : State :=
  s.modCtx x.unit x.ctx fun c =>
    match c.rops.find? fun r => r.id == x.id with
    | none => c
    | some r =>
      { c with
        rops := c.rops.filter fun y => y.id != x.id
        reply := if r.store then c.reply else some (0, false)
        remErr := c.remErr || r.store }

/-- RCOPYs of a context that have a request yet to send for which no route is left fail. -/
def failCopies (p : Pkg) (c : Ctx) : Ctx :=
  let lost (r : RCopy) : Bool := r.pkg != p.id && r.unsent.any fun va => (p.route r.pkg va).isNone
  { c with
    rcopies := c.rcopies.filter fun r => !lost r
    remErr := c.remErr || c.rcopies.any fun r => lost r && !r.orphan }

/-- Pod collectives of a context with a member that no route leads to any more end in an error (R365, R366). -/
def failColls (p : Pkg) (c : Ctx) : Ctx :=
  let lost (k : Coll) : Bool := k.pkg && !k.done && k.members.any fun m => m != p.id && (p.route m k.dst).isNone
  { c with colls := c.colls.map fun k => if lost k then { k with done := true, failed := true } else k }

/-- STATION_FAILURE (R366): the other station of the pair carries every request of the pair. With both
failed, requests that would cross them end in a remote-access error. -/
def execStationFailure (station : BitVec 4) (s : State) : Res :=
  .next (if 12 ≤ station.toNat then s
    else
      let s := s.modPkg fun p => { p with downSt := putBit p.downSt station.toNat true }
      let lost := s.pkg.sent.filter fun x => (s.pkg.carries x.station).isNone
      let s := s.modPkg fun p =>
        { p with sent := p.sent.filterMap fun (x : Sent) => (p.carries x.station).map fun k => { x with station := k } }
      let s := lost.foldl failSent s
      { s with cores := FMap.mapVals (fun _ (c : Core) => { c with ctxs := c.ctxs.map fun x => failColls s.pkg (failCopies s.pkg x) }) s.cores })

/-! ## Power (R375, R376) -/

/-- The bring-up status doubleword: what an 8-byte read of the sideband at offset 0x00 returns, in every phase (R371
to R373). -/
def bringupStatus (s : State) : Word :=
  0#16 ++ s.pkg.power ++ s.pkg.temp ++ 0#5 ++ s.pkg.throt ++ s.pkg.code ++ 0#4 ++ s.pkg.phase

/-- The throttle level after an update (R375). -/
def throttleStep (l : BitVec 3) (power temp : Nat) : BitVec 3 :=
  if 3600 < power || 95 < temp then (if l = 7 then 7 else l + 1)
  else if power < 3500 && temp < 90 then (if l = 0 then 0 else l - 1)
  else l

/-- A package fault (R376): every partition takes the unrecoverable path, and the compute dies lose their
power until the next package reset. -/
def packageFault (s : State) : State :=
  if s.pkg.faulted then s
  else (((upTo 16).foldl State.unrecoverable s).raiseMsix 3).modPkg fun p => { p with faulted := true }

/-- A µs has passed since the last update of the throttle level: 100 ticks of TIME (R4, R375). -/
def throttleDue (s : State) : Bool :=
  match s.pkg.lastThrot with
  | none => true
  | some t => decide (t + 100 ≤ s.time)

/-- THROTTLE_UPDATE (R375): the level is updated once per µs. A die at 105 °C is a thermal fault, which is a package
fault (R376). -/
def execThrottleUpdate (power : BitVec 16) (temp : BitVec 8) (s : State) : Res :=
  .next (let s := if throttleDue s then s.modPkg fun p =>
        { p with power := power, temp := temp, throt := throttleStep p.throt power.toNat temp.toNat, lastThrot := some s.time }
      else s
    if 105 ≤ temp.toNat then packageFault s else s)

/-- PACKAGE_FAULT (R376). -/
def execPackageFault (s : State) : Res := .next (packageFault s)

/-! ## Bring-up (R372) -/

/-- Memory without the package's own: what the host holds stays. -/
def hostPart (m : Memory) : Memory := m.filter fun c => !isDevMem c.1

/-- PACKAGE_RESET (R372, R374): phase 1 begins, and TIME starts at 0. Memory keeps its contents until phase 3
clears the device's; the inputs of the model stay. -/
def execPackageReset (s : State) : Res :=
  .next
    { State.reset with
      mem := s.mem
      fab := { State.reset.fab with poison := s.fab.poison }
      cores := (FMap.mapVals (fun _ (c : Core) => { Core.reset with checks := c.checks }) s.cores).filter fun x => x.1 < numUnits
      cur := s.cur
      fresh := s.fresh
      agenda := s.agenda }

/-- Context 0 of a management core starts to run the firmware image. -/
def startMgmt (s : State) (u : Nat) : State :=
  s.modCtx u 0 fun x => { x with resident := true, stopped := false, stall := none, pc := s.pkg.fwEntry, lastRetire := s.time }

/-- A remap record that the repair map can give (R345): sixteen slots in service, one for each core. -/
def remapOk (m : BitVec 128) : Bool :=
  let slots := (upTo 16).map (remapSlot m)
  zeroBits m 116 12 && slots.eraseDups.length == 16 && slots.all (fun k => decide (k < 18)) &&
    (upTo 18).all fun k => (remapState m k == 0) == slots.contains k

/-- A failure of bring-up (R372): PHASE is 15 until the next package reset. -/
def bringupFails (s : State) (code : Byte) : State := s.modPkg fun p => { p with phase := 15, code := code }

/-- Go on to a phase. -/
def toPhase (s : State) (k : BitVec 4) : State := s.modPkg fun p => { p with phase := k }

/-- The link configuration record that takes effect (R367): reserved bits are zero, and a torus that is
too large, or has a dimension of 0, leaves the package in switched mode with no connected station. -/
def linkRecord (v : Word) : Word :=
  let w := v &&& 0x0003_FFFF_FFFF_FFFF#64
  let x := bits w 10 5 + 1
  let y := bits w 15 11
  let z := bits w 26 11
  if w.getLsbD 37 && (x * y * z = 0 || 1024 < x * y * z) then w &&& 0x0000_001F_FFFF_FFFF#64 else w

/-- Ring records in ring order. -/
def setRemaps (s : State) (records : List (BitVec 128)) : State :=
  records.zipIdx.foldl (fun s x => s.modRing x.2 fun r => { r with remap := x.1 }) s

/-- READY: every partition register holds its reset value, and no ring is assigned. -/
def readyState (s : State) : State :=
  { s with parts := [], queues := [], rings := FMap.mapVals (fun _ (r : Ring) => { r with own := 0 }) s.rings }

/-- The management cores other than core 0 of die 0 leave their ROM for the firmware (R372). -/
def releaseMgmt (s : State) : State :=
  (upTo 15).foldl (fun s i => if (s.ctx (1025 + i) 0).resident then s else startMgmt s (1025 + i)) s

/-- BRINGUP_PHASE (R372): a phase ends, or in phase 3 the other management cores are released; the result must be one
that the phase can have. When the image of slot 0 fails, that of slot 1 is read, in phase 1 again (DESIGN CHOICE, log
entry 88). -/
def execBringupPhase (result : PhaseResult) (s : State) : Res :=
  .next (match s.pkg.phase.toNat, result with
    | 1, .ok entry => toPhase (s.modPkg fun p => { p with fwEntry := entry }) 2
    | 2, .ok _ => startMgmt (toPhase s 3) 1024
    | 2, .failed => if s.pkg.slot1 then bringupFails s 1 else toPhase (s.modPkg fun p => { p with slot1 := true }) 1
    | 3, .release => releaseMgmt s
    | 3, .ok _ =>
      let s := (s.setMem (hostPart s.mem)).modFab fun f => { f with poison := f.poison.filter fun k => !isDevMem (16 * k) }
      toPhase (releaseMgmt s) 4
    | 3, .failed => bringupFails s 2
    | 4, .remap records => if records.length = 64 && records.all remapOk then toPhase (setRemaps s records) 5 else s
    | 4, .failed => bringupFails s 3
    | 5, .links config => toPhase (readyState (s.modPkg fun p => { p with link := linkRecord config, hostLink := true })) 6
    | _, _ => s)

end Sys2Proof.Machine
end

