-- ==== Sys2Proof/Machine/Kennel.lean ====
section
/-!
DEFINITION. Pre-emption (R64 to R66, R76, R251, R324 to R327, R330): the layout of a strand kennel, CTXSAVE and
CTXLD.
-/
namespace Sys2Proof.Machine

/-! ## Access to a kennel -/

/-- Bytes of a kennel: 1 MiB (R325). -/
def kennelSize : Nat := 0x100000

/-- Translate an address of a kennel in its partition's space. -/
def kennelXlate (s : State) (p : Nat) (acc : Acc) (write : Bool) (va : Nat) : Except (BitVec 16) Target :=
  if 2 ^ 56 ≤ va then .error (xStatus 0 acc 1)
  else
    match walk s p va with
    | .error (level, kind) => .error (xStatus level acc kind)
    | .ok l =>
      match l.permit true write false with
      | some k => .error (xStatus 0 acc k)
      | none => .ok ⟨l.pa va, l.attr⟩

/-- The trap of `n` kennels from `va` up: one whose page does not translate before one whose page is not cacheable
(R315). -/
def kennelFault (s : State) (p : Nat) (acc : Acc) (write : Bool) (va n : Nat) : Option TrapInfo :=
  let page (i : Nat) : Nat := va + i * 2 ^ 18
  ((upTo (4 * n)).findSome? fun i =>
    match kennelXlate s p acc write (page i) with
    | .error st => some (trapXlate false st (BitVec.ofNat 64 (page i)))
    | .ok _ => none).or
  ((upTo (4 * n)).findSome? fun i =>
    match kennelXlate s p acc write (page i) with
    | .error _ => none
    | .ok tg => if tg.attr.cached then none else some (trapAt 0x08 (BitVec.ofNat 64 (page i))))

/-- Bytes at an address, in pieces that lie in one page of 256 KiB. -/
def pagePieces (va : Nat) (bytes : List Byte) : List (Nat × List Byte) :=
  let k := 2 ^ 18 - va % 2 ^ 18
  if bytes.length ≤ k then [(va, bytes)] else [(va, bytes.take k), (va + k, bytes.drop k)]

/-- Their targets, where they translate. -/
def kennelTargets (s : State) (p : Nat) (l : List (Nat × List Byte)) : List (Target × List Byte) :=
  (l.flatMap fun x => pagePieces x.1 x.2).filterMap fun x =>
    match kennelXlate s p .store true x.1 with
    | .ok tg => some (tg, x.2)
    | .error _ => none

/-- Bytes of a kennel, as memory holds them. -/
def kennelPage (s : State) (p va n : Nat) : List Byte :=
  match kennelXlate s p .load false va with
  | .ok tg => s.mem.readN tg.pa n
  | .error _ => List.replicate n 0

def kennelBytes (s : State) (p va n : Nat) : List Byte :=
  let k := min n (2 ^ 18 - va % 2 ^ 18)
  kennelPage s p va k ++ (if k = n then [] else kennelPage s p (va + k) (n - k))

/-- A doubleword of a kennel. -/
def kennelWord (s : State) (p va : Nat) : Word := bytesBV 64 (kennelBytes s p va 8)

/-! ## Open partials and the merge buffer -/

/-- An open partial in 16 bytes: its value in units of 2^−48, and the special-value state of R98 above it. -/
def Partial.encode (x : Partial) : BitVec 128 :=
  let m : Int := x.m * 2 ^ (x.e + 48).toNat
  0#3 ++ BitVec.ofBool x.ninf ++ BitVec.ofBool x.pinf ++ BitVec.ofBool x.zinf ++ BitVec.ofBool x.qnan ++ BitVec.ofBool x.snan ++
    BitVec.ofInt 120 (if x.neg then -m else m)

def Partial.decode (w : BitVec 128) : Partial :=
  let v := (w.setWidth 120).toInt
  { neg := decide (v < 0), m := v.natAbs, e := -48, snan := w.getLsbD 120, qnan := w.getLsbD 121, zinf := w.getLsbD 122,
    pinf := w.getLsbD 123, ninf := w.getLsbD 124 }

/-- The merge buffer: a count, and entries of 10 bytes (R242). -/
def mergeBytes (l : List (BitVec 16 × Word)) : List Byte :=
  bvBytes 8 (BitVec.ofNat 64 l.length) ++ l.flatMap fun x => bvBytes 2 x.1 ++ bvBytes 8 x.2

def mergeEntries : List Byte → Nat → List (BitVec 16 × Word)
  | _, 0 => []
  | bs, n + 1 => (bytesBV 16 bs, bytesBV 64 (bs.drop 2)) :: mergeEntries (bs.drop 10) n

/-! ## What is saved (R325, R326) -/

/-- A flag at a bit of a doubleword. -/
def flagAt (b : Bool) (i : Nat) : Nat := if b then 2 ^ i else 0

/-- The registers that an instruction in flight has partly written: the first, how many more, and its progress (R73,
R196). -/
def inFlight (v : VCtx) : Option (Nat × Nat × BitVec 8) :=
  match (upTo 32).filter fun n => vget v.prog 128 n != 128 with
  | [] => none
  | n :: rest => some (n, rest.length, vget v.prog 128 n)

/-- The user state registers of the context that is saved (R325). In a leg, FLAGS are the leg's (R64). -/
def savedUser (s : State) (u : Nat) : List Word :=
  let s' := s.setCur ⟨u, 0⟩
  (upTo 16).map fun n => if n = 7 && (s.core u).leg.isSome then (s.core u).v.flags.setWidth 64 else if n = 15 then 0 else readUser s' n

/-- The flags word: lock, BAR, reply count, and the model's own marks above bit 8 (log entry 40). -/
def savedFlags (s : State) (u : Nat) : Word :=
  let c := s.core u
  let n := c.seq.reply.length
  BitVec.ofNat 64 (flagAt (c.lock == some 0 || (c.ctx 0).relock) 0 + flagAt (c.ctx 0).barArrived 1 + n / 8 % 4 * 4 + n % 8 * 16 +
    flagAt c.seq.active 8 + c.seq.fq.length % 32 * 2 ^ 9 + flagAt (!c.v.merge.isEmpty) 14 + flagAt c.leg.isSome 15 +
    flagAt (s.regionOf u).isSome 16)

/-- What the leg on the core is: number, iteration, marks. -/
def savedLeg (c : Core) : List Word :=
  match c.leg with
  | none => [0, 0, 0]
  | some l => [BitVec.ofNat 64 l.k, BitVec.ofNat 64 l.i, BitVec.ofNat 64 (flagAt l.joined 0 + flagAt l.early 1)]

/-- KPOS and OPEN of an accumulator. -/
def savedKpos (v : VCtx) (k : Nat) : Word := BitVec.ofNat 64 ((vget v.kpos 0 k).toNat + flagAt (vget v.opn false k) 11)

/-- The barrier register (R63), where the region of the core has one. -/
def savedBarrier (s : State) (u : Nat) : Word :=
  match s.regionOf u with
  | some r => BitVec.ofNat 64 (r.barCount % 2 ^ 32 + flagAt r.barGen 32)
  | none => 0

/-- The sixteen doublewords at 0x180. The barrier register stands only in the kennel of span index 0 (R325). -/
def savedControl (s : State) (u : Nat) (next : Nat) : List Word :=
  let c := s.core u
  [(c.ctx 0).pc, savedFlags s u, if (s.core u).strand = some u then savedBarrier s u else 0, c.seq.pc] ++ c.seq.loops.toList ++ [savedKpos c.v 0, savedKpos c.v 1] ++
    savedLeg c ++ [BitVec.ofNat 64 next, 0, 0]

/-- The save map (R325): VALIDROWS, then the registers that have been saved, then full exchange buffers. -/
def savedMap (c : Core) : List Byte :=
  let v := c.v
  v.validRows.toList.flatMap (bvBytes 2) ++ bvBytes 4 (v.psaved ||| v.pdirty) ++ bvBytes 1 (v.ssaved ||| v.sdirty) ++
    bvBytes 1 (v.tsaved ||| v.tdirty) ++ bvBytes 1 ((v.asaved ||| v.adirty).setWidth 8) ++
    bvBytes 1 (BitVec.ofNat 8 (flagAt c.xfwd.isSome 0 + flagAt c.xbwd.isSome 1)) ++ List.replicate 56 0

/-- An entry of the nest stack. -/
def nestWords (n : Nest) : List Word :=
  [n.joinPc, n.step, n.endv, n.xind.setWidth 64, BitVec.ofNat 64 n.i, BitVec.ofNat 64 n.n, n.forkPc, 1]

/-- An entry of the fetch queue (R83, R325). -/
def fetchWords (f : Fetch) : List Word :=
  [f.addr, (f.vrows.setWidth 64) ||| (f.vcols.setWidth 64 <<< 16), f.rmode.setWidth 64, 0]

/-- Bytes of doublewords, filled up with zeros to `n` bytes. -/
def padWords (ws : List Word) (n : Nat) : List Byte :=
  let b := wordsBytes ws
  b ++ List.replicate (n - b.length) 0

/-- Two values of up to 32 bits in a doubleword. -/
def packPairs : List Nat → List Word
  | [] => []
  | [a] => [BitVec.ofNat 64 a]
  | a :: b :: l => BitVec.ofNat 64 (a + 2 ^ 32 * b) :: packPairs l

/-- The progress state of a reduction in an entry of the in-flight list (R103): a header with the next index, the
number of values, whether they are the subtrees of a tree, and which are present; then the values, two to a
doubleword when there are more than ten, of which none has more than 32 bits (log entry 40). -/
def redWords (r : RedState) : List Word :=
  let present := (r.vals.zipIdx.map fun x => flagAt x.1.2.isSome (32 + x.2)).sum
  let vals := r.vals.map fun x => x.2.getD 0
  BitVec.ofNat 64 (r.next + r.vals.length * 2 ^ 16 + flagAt ((r.vals.map (·.1)) != [0]) 21 + present) ::
    (if 10 < vals.length then packPairs vals else vals.map (BitVec.ofNat 64))

/-- The leaves of each completed subtree after `n` leaves, oldest first (R101). -/
def treeSizes (n : Nat) : List Nat := ((upTo 14).reverse.filter n.testBit).map (2 ^ ·)

/-- The progress state of a reduction from an entry of the in-flight list. -/
def redOfWords (l : List Word) : RedState :=
  let h := l.getD 0 0
  let next := bits h 0 16
  let count := bits h 16 5
  let sizes := if h.getLsbD 21 then treeSizes next else [0]
  let val (i : Nat) : Nat := if 10 < count then bits (l.getD (1 + i / 2) 0) (32 * (i % 2)) 32 else (l.getD (1 + i) 0).toNat
  { next := next, vals := (upTo count).map fun i => (sizes.getD i 0, if h.getLsbD (32 + i) then some (val i) else none) }

/-- The restart value of the word at the sequencer (R196, R231, R325): resume group, first register, progress index and
further registers of a destination, step count, and marks for VCM and for a reduction; 0 when nothing of the word has
been performed (log entry 40). -/
def restartValue (c : Core) : Nat :=
  let q := c.seq
  let dest := match inFlight c.v with
    | none => 0
    | some (n, more, g) => n * 2 ^ 8 + g.toNat * 2 ^ 13 + 2 ^ 21 + more % 8 * 2 ^ 28
  let body := q.resume.toNat + dest + flagAt (c.v.vcm != 0) 22 + flagAt q.red.isSome 23 + q.step % 16 * 2 ^ 24
  if body = 0 then 0 else body + 2 ^ 63

/-- The in-flight list: the word at the sequencer, when it has been performed in part. -/
def savedInFlight (s : State) (u : Nat) : List Word :=
  let c := s.core u
  let word (_ : Unit) : Word :=
    match s.xlate u 0 .fetch false c.seq.pc with
    | .ok tg => bytesBV 64 (view s u 0 tg.pa 8)
    | .error _ => 0
  if restartValue c = 0 then []
  else [word (), c.seq.pc, BitVec.ofNat 64 (restartValue c), c.v.mshape] ++ (match c.seq.red with
    | some r => redWords r
    | none => [])

/-- The control areas, 0x0_0000 to 0x0_11FF. -/
def controlPieces (s : State) (u next : Nat) : List (Nat × List Byte) :=
  let c := s.core u
  [(0x000, wordsBytes ((upTo 32).map (c.ctx 0).reg)), (0x100, wordsBytes (savedUser s u)), (0x180, wordsBytes (savedControl s u next)),
    (0x200, savedMap c), (0x280, padWords ((c.ctx 0).nest.flatMap nestWords) 256), (0x380, padWords c.seq.reply 128),
    (0x400, padWords (c.seq.fq.flatMap fetchWords) 512), (0x600, padWords (savedInFlight s u) 1536),
    (0xC00, c.v.poison.toList.flatMap (bvBytes 16)), (0xE00, bvBytes 1024 c.v.vcm)]

/-- The registers that this save writes: those that are dirty, and to another kennel every one that has
contents (R326). -/
def registerPieces (c : Core) (other : Bool) : List (Nat × List Byte) :=
  let v := c.v
  let vecs := (upTo 32).filter fun n => v.vdirty.getLsbD n || other
  let pick (n : Nat) (dirty saved : Nat → Bool) : List Nat := (upTo n).filter fun k => dirty k || (other && saved k)
  (vecs.flatMap fun n => ((upTo 16).filter fun i => (vget v.validRows 0 n).getLsbD i).map fun i =>
      (0x2000 + 0x2000 * n + 512 * i, bvBytes 512 (vget v.v 0 n >>> (4096 * i)))) ++
    ((pick 32 v.pdirty.getLsbD v.psaved.getLsbD).map fun n => (0x42000 + 1024 * n, bvBytes 1024 (vget v.p 0 n))) ++
    ((pick 8 v.sdirty.getLsbD v.ssaved.getLsbD).map fun n => (0x4A000 + 2048 * n, bvBytes 2048 (vget v.sc 0 n))) ++
    ((pick 8 v.tdirty.getLsbD v.tsaved.getLsbD).map fun n => (0x4E000 + 0x4400 * n, bvBytes 16384 (vget v.t 0 n) ++ bvBytes 1024 (vget v.tsc 0 n))) ++
    ((pick 2 v.adirty.getLsbD v.asaved.getLsbD).map fun n => (0x70000 + 8192 * n, bvBytes 8192 (vget v.acc 0 n)))

/-- Open partials, the merge buffer and the exchange buffers. -/
def bufferPieces (c : Core) : List (Nat × List Byte) :=
  let v := c.v
  let xbuf (o : Nat) (b : Option XBuf) : List (Nat × List Byte) :=
    match b with
    | none => []
    | some b => [(o, bvBytes 8192 b.image ++ bvBytes 16 b.poison), (o + 0x2200, bvBytes 512 b.scales)]
  (((upTo 2).filter fun k => vget v.opn false k).map fun k =>
      (0x74000 + 0x4000 * k, (upTo 1024).flatMap fun e => bvBytes 16 ((FMap.get (vget v.part [] k) {} e).encode))) ++
    (if v.merge.isEmpty then [] else [(0x7C000, mergeBytes v.merge)]) ++ xbuf 0x87000 c.xfwd ++ xbuf 0x89400 c.xbwd

/-- The continuation record of a region (R64) for the runner, or the lowest resident leg, `k`: the items of
R64 in their order, then what else the region needs (log entry 40). -/
def continuation (s : State) (h k : Nat) (r : Region) : List Word :=
  let flags : BitVec 7 := match s.strand? h with
    | some x => x.flags
    | none => 0
  [BitVec.ofNat 64 (r.first (k + 1)), BitVec.ofNat 64 r.n, r.base, r.step, r.joinPc, BitVec.ofNat 64 r.legsz, r.carrym.setWidth 64,
    r.predm.setWidth 64, r.vcarry.setWidth 64] ++ ((upTo 31).map fun n => vget r.forkX 0 (n + 1)) ++
    [flags.setWidth 64] ++
    [r.forkPc, r.endv, r.xind.setWidth 64 ||| BitVec.ofNat 64 (flagAt r.indep 8), BitVec.ofNat 64 r.finished, BitVec.ofNat 64 r.c0,
      r.vrows.setWidth 64 ||| (r.vcols.setWidth 64 <<< 16) ||| (r.rmode.setWidth 64 <<< 32), r.mshape]

/-- The VCARRY snapshots of a region, as the scratchpad of a core holds them (R42). -/
def snapshotPieces (c : Core) (r : Region) : List (Nat × List Byte) :=
  (regsIn r.vcarry).zipIdx.map fun x => (0x90000 + 0x2000 * x.1, c.sp.readN (snapAddr x.2) 8192)

/-- Everything that a save writes for the context on core `u`, in the kennel at `base`. -/
def kennelPieces (s : State) (u next base : Nat) : List (Nat × List Byte) :=
  let c := s.core u
  (controlPieces s u next ++ registerPieces c (c.v.kennel != some (BitVec.ofNat 64 base)) ++ bufferPieces c).map fun x => (base + x.1, x.2)

/-! ## CTXSAVE (R324, R64, R66) -/

/-- An RCOPY of context 0 has still to come after what an earlier block does, at its source or at its target in this
package (R123). -/
def rcopyAfter (s : State) (u : Nat) (r : RCopy) : Bool :=
  decide ((s.core u).seq.fin < r.after) && (upTo r.chunks).any fun k => !r.landed.contains k &&
    (rcopyBehind s u 0 r k || match rcopySources s u 0 (r.src + 4096 * k) (r.chunkLen k / 8) with
      | .error _ => true
      | .ok l => s.blockBefore u 0 r.after (fun b n => l.any fun t => mustOrder t 8 b n) fun _ _ => false)

/-- A transfer of context 0 has still to come after what an earlier block does (R134): such blocks run first, and so does
the handler that mends the fault of one. -/
def copiesBehind (s : State) (u : Nat) : Bool :=
  ((s.core u).copies.any fun p => p.ctx == 0 && copyBehind s u p) || ((s.ctx u 0).rcopies.any (rcopyAfter s u)) ||
    s.pkg.inside.any fun x => x.unit == u && x.ctx == 0 && decide ((s.core u).seq.fin < x.after) && insideWaits s x

/-- Nothing of the core keeps the save back: no trap mode, no access or reply under way, no copy that names a predicate
or waits for blocks, every store of the strand and every one it has read performed, and its dirty lines written
back (R324, R251, R144, R343). -/
def coreQuiet (s : State) (u : Nat) : Bool :=
  let c := s.core u
  let x := c.ctx 0
  x.trap == .none && x.reply.isNone && (x.rops.all fun r => r.store) && !x.finishing && !insideBusy s u 0 &&
    !(c.copies.any fun p => p.ctx == 0 && p.pred != 0) && !copiesBehind s u && !s.vaulting u &&
    (!(s.fab.pend.any fun p => p.unit == u && p.ctx == 0) && (s.knownPend u 0).isEmpty) &&
    c.lines.all fun y => y.st != .M || y.wctx != 0

/-- The first step of a pre-emption inside a FORK region (R64): every speculative leg is squashed. -/
def squashYounger (s : State) (h : Nat) (x : Strand) : State :=
  match x.region with
  | none => s
  | some r => if r.indep then s else squashFrom s h (r.runner + 1) false

/-- The runner of a FORK region commits what it has written (R64). `none` while there is no runner or its commit is held
back. The core of the context that is saved. -/
def settleLegs (s : State) (h : Nat) (x : Strand) : Option (State × Nat) :=
  match x.region with
  | none => some (s, x.at_)
  | some r =>
    if r.indep then some (s, h)
    else if !r.arrived then none
    else
      match (s.legsOf h).find? fun y => y.1 == r.runner with
      | none => none
      | some (_, u) => (earlyCommit s u).map fun s => (s, u)

/-- The cores whose contexts are saved, with their kennels: one for each span index in a FORKI region. -/
def savedCores (h u base : Nat) (x : Strand) : List (Nat × Nat) :=
  match x.region with
  | some r => if r.indep then (upTo x.size).map fun i => (h + i, base + kennelSize * i) else [(u, base)]
  | none => [(u, base)]

/-- The number of kennels that the strand takes. -/
def Strand.kennels (x : Strand) : Nat :=
  match x.region with
  | some r => if r.indep then x.size else 1
  | none => 1

/-- Everything that the save of a strand writes. -/
def strandPieces (s : State) (h u base : Nat) (x : Strand) : List (Nat × List Byte) :=
  ((savedCores h u base x).flatMap fun y =>
    kennelPieces s y.1 (match x.region with
      | some r => r.next.get r.legs (y.1 - h)
      | none => 0) y.2) ++
    match x.region with
    | none => []
    | some r =>
      let k := match (s.core u).leg with
        | some l => l.k
        | none => 0
      (0x1200 + base, padWords (continuation s h k r) 512) :: (snapshotPieces (s.core u) r).map fun y => (base + y.1, y.2)

/-- Names of a context's remote operations and RCOPYs follow it to another unit. -/
def renameTransfers (s : State) (old new : Nat) : State :=
  let sent (y : Sent) : Sent := if y.unit = old && y.ctx = 0 then { y with unit := new } else y
  s.modPkg fun p =>
    { p with
      sent := p.sent.map sent
      inside := p.inside.map sent
      pfaults := p.pfaults.map fun y => (y.1, match y.2.who with
        | .rcopy v 0 id => if v = old then { y.2 with who := .rcopy new 0 id } else y.2
        | .inside v 0 id => if v = old then { y.2 with who := .inside new 0 id } else y.2
        | _ => y.2) }

/-- An RCOPY with the number of blocks that it still comes after: its flag waits for them (R127). -/
def RCopy.parked (r : RCopy) (fin : Nat) : RCopy := { r with after := r.after - fin }
/-- The same, on the core that goes on with those blocks. -/
def RCopy.unparked (r : RCopy) (fin : Nat) : RCopy := { r with after := if r.after = 0 then 0 else fin + r.after }

/-- A pre-empted strand's transfers wait for its restore (R251). -/
def parkCtx (s : State) (u park : Nat) : State :=
  let x := s.ctx u 0
  if x.rcopies.isEmpty && x.rops.isEmpty && x.colls.isEmpty && !x.remErr then s
  else
    let s := s.setCore park { ctxs := vset (Vector.replicate 8 {}) 0 { rcopies := x.rcopies.map (·.parked (s.core u).seq.fin), rops := x.rops, colls := x.colls, remErr := x.remErr, ropNo := x.ropNo } }
    renameTransfers s u park

/-- The core after its strand context has left: what belongs to the slot and to handlers stays (R252,
R187, R324), and copies in flight keep the strand's park number. -/
def clearCore (park : Nat) (c : Core) : Core :=
  let x := c.ctx 0
  { c.leaveRotation 0 with
    ctxs := vset c.ctxs 0 { sendq := x.sendq, ropNo := x.ropNo, lastIssue := x.lastIssue }
    v := {}, seq := c.seq.cleared, leg := none, snaps := 0, xfwd := none, xbwd := none
    lock := if c.lock = some 0 then none else c.lock
    lockQ := c.lockQ.filter (· != 0)
    lines := c.lines.filter fun y => y.st != .L
    copies := c.copies.map fun p => if p.ctx = 0 then { p with ctx := park, after := 0 } else p
    aborted := c.aborted.map fun a => if a.2.1 = 0 then (a.1, park, a.2.2) else a }

/-- A pending block as the model keeps it: the values that its words see, now that every one is known (R26, R44). -/
def keptFetch (c : Core) (e : Fetch) : Fetch :=
  { e with
    fresh := 0
    x := Vector.ofFn fun n => if e.fresh.getLsbD n.val then (match c.leg with
      | some l => vget l.start 0 n.val
      | none => vget e.x 0 n.val) else vget e.x 0 n.val }

/-- What the model keeps of a core of the span (log entry 41). -/
def parkedCore (s : State) (u i : Nat) : Parked :=
  let c := s.core u
  { idx := i, core := u, fq := c.seq.fq.map (keptFetch c), gather := c.seq.idx, xfwd := c.xfwd, xbwd := c.xbwd }

/-- The span index that a core of the span has when the strand is restored: in a FORKI region its own (R66); otherwise
the context that is saved, on core `u`, comes to span index 0 (R65), and its neighbours stay its neighbours (R220). -/
def restoredIdx (h u i : Nat) (x : Strand) : Nat :=
  match x.region with
  | some r => if r.indep then i else (i + x.size - (u - h)) % x.size
  | none => (i + x.size - (u - h)) % x.size

/-- The strand, whose context on core `u` has been saved, leaves its span; its node stays (R324). -/
def takeOff (u : Nat) (s : State) (h : Nat) (x : Strand) : State :=
  let kept := (upTo x.size).map fun i => parkedCore s (h + i) (restoredIdx h u i x)
  let park (i : Nat) : Nat := parkUnit x.node.1 x.node.2 (restoredIdx h u i x)
  let s := (upTo x.size).foldl (fun s i => (parkCtx s (h + i) (park i)).modCore (h + i) (clearCore (park i))) s
  let s := s.modFab fun f => { f with misses := f.misses.filter fun m => !((m.ctx == 0 || m.ctx == 8) && decide (h ≤ m.unit) && decide (m.unit < h + x.size)) }
  let s := modNode s x.node fun n => { n with parked := kept }
  let q := match (s.die x.node.1).nodes.find? x.node.2 with
    | some n => n.queue
    | none => none
  let s := releaseSpan s h x
  let s := match q with
    | some q => settleWatchdog s x.part q
    | none => s
  -- a vault that waited for the pre-emption takes its turn (R351)
  nextVault 64 s (dieOf h)

/-- The handle of a strand's task. -/
def strandHandle (s : State) (x : Strand) : Word :=
  0#16 ++ s.nodeSeq x.node.1 x.node.2 ++ BitVec.ofNat 3 x.node.1 ++ BitVec.ofNat 13 x.node.2

/-- The fields of a span descriptor: first core and size (R13, R11); none for one that is not a span. -/
def spanOf (v : Word) : Option (Nat × Nat) :=
  let first := bits v 0 10
  let size := bits v 16 5
  if zeroBits v 10 6 && zeroBits v 21 43 && [1, 2, 4, 8, 16].contains size && first % size == 0 then some (first, size) else none

/-- Write the kennel and take the strand off, when everything is ready; otherwise the state in which it goes on. -/
def trySave (s : State) (h : Nat) (x : Strand) (base : Nat) : Except State State :=
  let s := squashYounger s h x
  if x.ended || !s.placing x.part || !(Strand.cores h x).all (coreQuiet s) then .error s
  else
    match settleLegs s h x with
    | none => .error s
    | some (s1, u) =>
      let lines (l : List (Target × List Byte)) : List Nat := l.flatMap fun y => linesOf y.1.pa y.2.length
      let l := kennelTargets s1 x.part (strandPieces s1 h u base ((s1.strand? h).getD x))
      -- what the commit made dirty is written back first
      if !(coreQuiet s1 u) then .error s1
      else if (lines l).all s1.writable then
        .ok (takeOff u (l.foldl (fun s y => homeWrite s none none x.part y.1.attr y.1.pa y.2) s1) h x)
      else .error s1

/-- A pre-emption of the strand begins (R324): a context whose access has been sent finishes it first (R165, R251). -/
def beginSave (s : State) (h : Nat) (x : Strand) (by_ : Word × Nat × Nat) : State :=
  if x.saving = some by_ then s
  else
    (Strand.cores h x).foldl (fun s v =>
        let s := takeBackSpawn s v 0
        if accessSent s v 0 then s.modCtx v 0 fun c => { c with finishing := true } else s)
      (s.setStrand h { x with saving := some by_ })

/-- CTXSAVE (R324, R330, R332). -/
def execCtxsave (xd xa xb : Reg) (s : State) : Res :=
  .next (privileged s true [xa, xb] (some xd) fun s =>
    match spanOf (X s xb) with
    | none => .trap trapOperand
    | some (first, size) =>
      let base := (X s xa).toNat
      if base % kennelSize ≠ 0 then .trap (trapAt 0x05 (X s xa))
      else
        match (s.strand? first).filter fun x => x.size == size with
        | none => .done (setX s xd 0)
        | some x =>
          match kennelFault s x.part .store true base x.kennels with
          | some t => .trap t
          | none =>
            if x.saving.isSome && x.saving != some (X s xa, s.cur.unit, s.cur.ctx) then .stall .system s
            else
              let s := beginSave s first x (X s xa, s.cur.unit, s.cur.ctx)
              match trySave s first x base with
              | .error s => .stall .system s
              | .ok s' => .done (setX s' xd (strandHandle s x)))

/-! ## CTXLD (R327, R65, R66) -/

/-- A reader of a kennel: doubleword at an offset, and bytes. -/
structure Kennel where
  s : State
  p : Nat
  base : Nat

def Kennel.w (k : Kennel) (o : Nat) : Word := kennelWord k.s k.p (k.base + o)
def Kennel.bs (k : Kennel) (o n : Nat) : List Byte := kennelBytes k.s k.p (k.base + o) n
def Kennel.bv (k : Kennel) (n o : Nat) : BitVec n := bytesBV n (k.bs o (n / 8))
/-- The flags word, and one of its bits. -/
def Kennel.flag (k : Kennel) (i : Nat) : Bool := (k.w 0x188).getLsbD i

/-- A bit of the save map, by byte offset within it. -/
def Kennel.mapBit (k : Kennel) (o n : Nat) : Bool := (k.bv 32 (0x200 + o)).getLsbD n

/-- A vector register: its saved rows, every other row zero (R76). -/
def Kennel.vreg (k : Kennel) (n : Nat) : BitVec 65536 :=
  let rows := k.bv 16 (0x200 + 2 * n)
  bytesBV 65536 ((upTo 16).flatMap fun i => if rows.getLsbD i then k.bs (0x2000 + 0x2000 * n + 512 * i) 512 else List.replicate 512 0)

/-- A register that is saved whole: zero when the save map does not mark it. -/
def Kennel.whole (k : Kennel) (marked : Bool) (n o : Nat) : BitVec n := if marked then k.bv n o else 0

/-- Open partials of an accumulator. -/
def Kennel.partials (k : Kennel) (a : Nat) : FMap Partial :=
  if (k.w (0x1C0 + 8 * a)).getLsbD 11 then (upTo 1024).map fun e => (e, Partial.decode (k.bv 128 (0x74000 + 0x4000 * a + 16 * e))) else []

/-- Fields of MSHAPE (R232) and of VFSTAT (R81), and a word of a kennel's register in which every other bit is dropped:
reserved fields read as zero (R7). What CTXLD does with such bits is not stated (DESIGN CHOICE, log entry 66). -/
def mshapeFields : Word := 0x3_0FFF_3F3F#64
def vfstatFields : Word := 0x8000_3FFF_0000_FFFF#64

/-- The restart value of a kennel's word in flight. -/
def Kennel.restart (k : Kennel) : Word := if (k.w 0x610).getLsbD 63 then k.w 0x610 else 0

/-- Progress indices of a kennel: those of the registers that the word in flight has partly written (R73). -/
def Kennel.prog (k : Kennel) : Vector (BitVec 8) 32 :=
  let r := k.restart
  if r.getLsbD 21 then
    (upTo (bits r 28 3 + 1)).foldl (fun v i => vset v (bits r 8 5 + i) (BitVec.ofNat 8 (bits r 13 8))) (Vector.replicate 32 128)
  else Vector.replicate 32 128

/-- The vector context of a kennel (R76, R84, R326). -/
def Kennel.vctx (k : Kennel) : VCtx :=
  { v := Vector.ofFn fun n => k.vreg n.val
    p := Vector.ofFn fun n => k.whole (k.mapBit 64 n.val) 8192 (0x42000 + 1024 * n.val)
    sc := Vector.ofFn fun n => k.whole (k.mapBit 68 n.val) 16384 (0x4A000 + 2048 * n.val)
    t := Vector.ofFn fun n => k.whole (k.mapBit 69 n.val) 131072 (0x4E000 + 0x4400 * n.val)
    tsc := Vector.ofFn fun n => k.whole (k.mapBit 69 n.val) 8192 (0x4E000 + 0x4400 * n.val + 0x4000)
    acc := Vector.ofFn fun n => k.whole (k.mapBit 70 n.val) 65536 (0x70000 + 8192 * n.val)
    kpos := Vector.ofFn fun n => BitVec.ofNat 11 (bits (k.w (0x1C0 + 8 * n.val)) 0 11)
    opn := Vector.ofFn fun n => (k.w (0x1C0 + 8 * n.val)).getLsbD 11
    part := Vector.ofFn fun n => k.partials n.val
    merge := if k.flag 14 then mergeEntries (k.bs 0x7C008 (10 * min 4096 (k.w 0x7C000).toNat)) (min 4096 (k.w 0x7C000).toNat) else []
    poison := Vector.ofFn fun n => k.bv 128 (0xC00 + 16 * n.val)
    prog := k.prog
    validRows := Vector.ofFn fun n => k.bv 16 (0x200 + 2 * n.val)
    vrows := (k.w 0x100).setWidth 5
    vcols := (k.w 0x108).setWidth 11
    mshape := k.w 0x130 &&& mshapeFields
    flags := if k.flag 15 then (k.w 0x138).setWidth 7 else 0
    rmode := (k.w 0x140).setWidth 5
    vfstat := k.w 0x148 &&& vfstatFields
    vcm := k.bv 8192 0xE00
    kennel := some (BitVec.ofNat 64 k.base)
    psaved := k.bv 32 0x240
    ssaved := k.bv 8 0x244
    tsaved := k.bv 8 0x245
    asaved := (k.bv 8 0x246).setWidth 2 }

/-- The scalar registers of a kennel. -/
def Kennel.x (k : Kennel) : Vector Word 32 := Vector.ofFn fun n => if n.val = 0 then 0 else k.w (8 * n.val)

/-- The nest stack. -/
def Kennel.nest (k : Kennel) : List Nest :=
  (upTo 4).filterMap fun i =>
    let o := 0x280 + 64 * i
    if k.w (o + 56) = 0 then none
    else some ⟨k.w (o + 48), k.w o, k.w (o + 8), k.w (o + 16), (k.w (o + 24)).setWidth 5, (k.w (o + 32)).toNat, (k.w (o + 40)).toNat⟩

/-- A pending block of a kennel. Its scalar registers are those of its VFETCH, which the model keeps (R26, log entry
41), unless the kennel's entry has been changed: then those that are restored. -/
def Kennel.fetch (k : Kennel) (u copyNo : Nat) (old : Option Parked) (i : Nat) : Fetch :=
  let o := 0x400 + 32 * i
  let e : Fetch := ⟨k.w o, (k.w (o + 8)).setWidth 5, (k.w (o + 8)).extractLsb' 16 11, (k.w (o + 16)).setWidth 5, k.x, 0, BitVec.ofNat 32 copyNo⟩
  match old with
  | none => e
  | some p =>
    match p.fq[i]? with
    | some f => if f.addr = e.addr then { e with x := f.x, mark := if p.core = u then f.mark else e.mark } else e
    | none => e

/-- The sequencer: the fetch queue, the reply queue, the counters, and the progress of its word. -/
def Kennel.seqr (k : Kennel) (u : Nat) (c : Core) (old : Option Parked) : Seqr :=
  let f := k.w 0x188
  let r := k.restart
  { fq := (upTo (min 16 (bits f 9 5))).map (k.fetch u c.copyNo.toNat old)
    active := k.flag 8
    pc := k.w 0x198
    loops := Vector.ofFn fun n => k.w (0x1A0 + 8 * n.val)
    resume := BitVec.ofNat 8 (bits r 0 8)
    step := bits r 24 4
    red := if r.getLsbD 23 then some (redOfWords ((upTo 12).map fun i => k.w (0x620 + 8 * i))) else none
    reply := (upTo (min 16 (bits f 4 3 + 8 * bits f 2 2))).map fun i => k.w (0x380 + 8 * i)
    idx := old.bind (·.gather)
    fin := c.seq.fin + c.seq.fq.length }

/-- Context 0 of a core as a kennel restores it; its priority is its task's. -/
def Kennel.ctx0 (k : Kennel) (old : Ctx) (prio : BitVec 2) (time : Nat) : Ctx :=
  { resident := true, pc := k.w 0x180, x := k.x, prio := prio, nest := k.nest, barArrived := k.flag 1, relock := k.flag 0
    stall := if k.flag 1 then some .bar else none
    legsz := (k.w 0x110).setWidth 32, carrym := putBit ((k.w 0x118).setWidth 32) 0 false, predm := putBit ((k.w 0x120).setWidth 32) 0 false, vcarry := (k.w 0x128).setWidth 32
    sendq := old.sendq, ropNo := old.ropNo, lastIssue := old.lastIssue, lastRetire := time }

/-- The exchange buffers of a kennel. -/
def Kennel.xbuf (k : Kennel) (i o : Nat) : Option XBuf :=
  if k.mapBit 71 i then some ⟨k.bv 65536 o, k.bv 128 (o + 0x2000), k.bv 4096 (o + 0x2200)⟩ else none

/-- The leg of a kennel, in its region. -/
def Kennel.leg (k : Kennel) (r : Region) : Leg :=
  let n := (k.w 0x1D0).toNat
  let l := r.newLeg n (BitVec.allOnes 32) k.x [] 0
  { l with i := (k.w 0x1D8).toNat, joined := (k.w 0x1E0).getLsbD 0, early := (k.w 0x1E0).getLsbD 1, written := BitVec.allOnes 32 }

/-- The region of a continuation record. In a FORK region the runner, `n`, stands on span index 0, and legs
after it follow on the next ones (R65). -/
def Kennel.region (k : Kennel) (s : State) (u size : Nat) (prio : BitVec 2) : Region × State :=
  let w (i : Nat) : Word := k.w (0x1200 + 8 * i)
  let n := (k.w 0x1D0).toNat
  let indep := (w 43).getLsbD 8
  let forkPc := w 41
  let (strides, s) :=
    if indep then (Vector.replicate 32 0, s)
    else
      let y := predict (s.setCur ⟨u, 0⟩) forkPc
      (y.1, y.2.setCur s.cur)
  let legsz := (w 5).toNat
  let next (i : Nat) : Nat := if indep then (kennelWord k.s k.p (k.base + kennelSize * i + 0x1E8)).toNat else if i = 0 then n + size else n + i
  ({ indep := indep, forkPc := forkPc, joinPc := w 4, xind := (w 43).setWidth 5, base := w 2, step := w 3, endv := w 42,
     n := (w 1).toNat, legs := ceilDiv (w 1).toNat legsz, legsz := legsz, carrym := putBit ((w 6).setWidth 32) 0 false, predm := putBit ((w 7).setWidth 32) 0 false,
     vcarry := (w 8).setWidth 32, c0 := if indep then (w 45).toNat else (size - n % size) % size
     forkX := Vector.ofFn fun i => if i.val = 0 then 0 else w (8 + i.val), prio := prio
     vrows := (w 46).setWidth 5, vcols := (w 46).extractLsb' 16 11, rmode := (w 46).extractLsb' 32 5, mshape := w 47 &&& mshapeFields
     strides := strides, runner := if indep then 0 else n, arrived := true
     next := (upTo size).foldl (fun m i => m.set i (next i)) [], early := []
     barCount := bits (k.w 0x190) 0 32, barGen := (k.w 0x190).getLsbD 32, finished := (w 44).toNat }, s)

/-- The snapshots of a region stand at the top of a core's scratchpad again (R42, R65). -/
def Kennel.placeSnaps (k : Kennel) (r : Region) (c : Core) : Core :=
  let regs := regsIn r.vcarry
  { c with
    snaps := regs.length
    sp := regs.zipIdx.foldl (fun m x => m.writeN (snapAddr x.2) (k.bs (0x90000 + 0x2000 * x.1) 8192)) c.sp
    spPoison := regs.zipIdx.foldl (fun l x => clearPoison l (snapAddr x.2) 8192 false) c.spPoison }

/-- One context of the strand is on core `u` again; `old` is what the model kept of it. -/
def Kennel.restoreCore (k : Kennel) (s : State) (u : Nat) (prio : BitVec 2) (r : Option Region) (old : Option Parked) : State :=
  s.modCore u fun c =>
    { c with
      ctxs := vset c.ctxs 0 (k.ctx0 (c.ctx 0) prio s.time)
      v := k.vctx, seq := k.seqr u c old, xfwd := k.xbuf 0 0x87000, xbwd := k.xbuf 1 0x89400
      leg := r.map k.leg }

/-- The strand's transfers belong to its contexts again (R251). Copies of its retriever are the context's own again
where it is back on the core that issued them (R259). -/
def unpark (s : State) (u park : Nat) : State :=
  let s := s.modCore u fun k =>
    { k with
      copies := k.copies.map fun p => if p.ctx = park then { p with ctx := 0 } else p
      aborted := k.aborted.map fun a => if a.2.1 = park then (a.1, 0, a.2.2) else a }
  match s.cores.find? park with
  | none => s
  | some c =>
    let x := c.ctx 0
    let s := { s with cores := s.cores.del park }
    let s := s.modCore u fun k =>
      { k with
        ctxs := vset k.ctxs 0 { k.ctx 0 with rcopies := x.rcopies.map (·.unparked k.seq.fin), rops := x.rops, colls := x.colls, remErr := x.remErr, ropNo := max (k.ctx 0).ropNo x.ropNo } }
    renameTransfers s park u

/-- Legs of a FORK region that had executed their last JOIN send their registers again to the leg that
follows, which starts anew. -/
def resend (s : State) (h u : Nat) (r : Region) : State :=
  match (s.core u).leg with
  | some l => if l.joined then implicitSends s h u r l else s
  | none => s

/-- The exchange buffers of a core of the span for which there is no context to restore (R220). -/
def restoreBuffers (s : State) (u : Nat) (fwd bwd : Option XBuf) : State :=
  s.modCore u fun c => { c with xfwd := fwd, xbwd := bwd }

/-- Restore a strand from its kennel on a span (R327). -/
def restoreStrand (s : State) (p base first : Nat) (d node : Nat) (n : Node) : State :=
  let k : Kennel := ⟨s, p, base⟩
  let size := n.size
  let prio := BitVec.ofNat 2 (bits n.ctrl 4 2)
  let s := claimSpan s first size
  let old (i : Nat) : Option Parked := n.parked.find? fun x => x.idx == i
  -- the cores of the span other than the one whose context is restored
  let others (s : State) (i : Nat) : State :=
    match old i with
    | some x => restoreBuffers s (first + i) x.xfwd x.xbwd
    | none => s
  let strand (flags : BitVec 7) (r : Option Region) : Strand :=
    { part := p, node := (d, node), size := size, at_ := first, flags := flags, subcnt := (k.w 0x150).setWidth 32, region := r,
      ended := false, saving := none }
  let own := old 0
  let s :=
    if !k.flag 16 then k.restoreCore ((upTo size).foldl others (s.setStrand first (strand ((k.w 0x138).setWidth 7) none))) first prio none own
    else
      let (r, s) := k.region s first size prio
      let s := s.setStrand first (strand ((k.w 0x1340).setWidth 7) (some r))
      let s := (upTo size).foldl (fun s i => s.modCore (first + i) (k.placeSnaps r)) s
      if r.indep then
        (upTo size).foldl (fun s i =>
          let ki : Kennel := { k with base := base + kennelSize * i }
          if ki.flag 15 then ki.restoreCore s (first + i) prio (some r) (old i)
          else restoreBuffers s (first + i) (ki.xbuf 0 0x87000) (ki.xbuf 1 0x89400)) s
      else resend (k.restoreCore s first prio (some r) own) first first r
  let s := (upTo size).foldl (fun s i => unpark s (first + i) (parkUnit d node i)) s
  let s := modNode s (d, node) fun n => { n with parked := [] }
  match n.queue with
  | some q => s.modQueue (4 * p + q) fun x => x.arm s.time
  | none => s

/-- The node that a handle names, when its strand has been pre-empted: placed, and on no span. -/
def preemptedNode (s : State) (p : Nat) (h : Word) : Option (Nat × Nat × Node) :=
  match s.named p h with
  | .bad => none
  | .completed => none
  | .live d k =>
    match (s.die d).nodes.find? k with
    | none => none
    | some n => if n.st = .placed && n.part = p && !s.strands.any fun x => x.2.node == (d, k) then some (d, k, n) else none

/-- Kennels that a saved strand takes: one for each span index in a FORKI region. -/
def Kennel.count (k : Kennel) (size : Nat) : Nat := if k.flag 16 && (k.w (0x1200 + 8 * 43)).getLsbD 8 then size else 1
/-- It holds a leg of a FORK region, which takes its span's leg caches (R110). -/
def Kennel.forked (k : Kennel) : Bool := k.flag 16 && !(k.w (0x1200 + 8 * 43)).getLsbD 8

/-- A poisoned sector of the kennels. -/
def kennelBad (s : State) (p base n : Nat) : Option Nat :=
  (upTo (4 * n)).findSome? fun i =>
    match kennelXlate s p .load false (base + i * 2 ^ 18) with
    | .error _ => none
    | .ok tg => (s.fab.poison.find? fun k => k / 2 ^ 14 == tg.pa / 2 ^ 18).map (16 * ·)

/-- The host keeps a line of the kennels. -/
def kennelKept (s : State) (p base n : Nat) : Bool :=
  (upTo (4 * n)).any fun i =>
    match kennelXlate s p .load false (base + i * 2 ^ 18) with
    | .error _ => false
    | .ok tg => (upTo 4096).any fun k => s.hostKeeps (tg.pa / 64 + k)

/-- CTXLD (R327, R330, R332). -/
def execCtxld (xd xa xb : Reg) (s : State) : Res :=
  .next (privileged s true [xd, xa, xb] none fun s =>
    match spanOf (X s xb) with
    | none => .trap trapOperand
    | some (first, size) =>
      match s.partOf first with
      | none => .trap trapOperand
      | some p =>
        match preemptedNode s p (X s xd) with
        | none => .trap trapOperand
        | some (d, node, n) =>
          let base := (X s xa).toNat
          if n.size ≠ size || !spanFree s first size then .trap trapOperand
          else if base % kennelSize ≠ 0 then .trap (trapAt 0x05 (X s xa))
          else
            match kennelFault s p .load false base 1 with
            | some t => .trap t
            | none =>
              let count := Kennel.count ⟨s, p, base⟩ size
              match kennelFault s p .load false base count with
              | some t => .trap t
              | none =>
                if !orderedAt s 3 || kennelKept s p base count then .stall .order s
                else if !s.placing p || (Kennel.forked ⟨s, p, base⟩ && s.cacheOff first) then .stall .system s
                else
                  match kennelBad s p base count with
                  | some pa => .final (consume s s.cur.unit s.cur.ctx pa)
                  | none => .done (restoreStrand s p base first d node n))

end Sys2Proof.Machine
end

