-- ==== Sys2Proof/Machine/Sync.lean ====
section
/-!
DEFINITION. Shared registers, yielding, the scratchpad lock, fences and monitored waiting (R183 to R189),
and software traps (R192).
-/
namespace Sys2Proof.Machine

/-- SHSYNC (R184): the context's writes of shared registers become visible. -/
def execShsync (s : State) : Res :=
  .next (control s [] none fun s => held s fun s =>
    .done (s.modHere fun c => { c with xsOld := settleXs c.xsOld s.cur.ctx }))

/-- YIELD (R185). -/
def execYield (s : State) : Res := .next (control s [] none fun s => .done (s.modMe fun x => { x with yielded := true }))

/-- The context takes the scratchpad lock (R186): stalled contexts are granted it in the order in which
they asked. The state on the left is that of a context that waits. -/
def takeLock (s : State) (u c : Nat) : Except State State :=
  let k := s.core u
  if k.lock.isNone && (k.lockQ.isEmpty || k.lockQ.head? == some c) then
    .ok (markAcquire (s.modCore u fun k => { k with lock := some c, lockQ := k.lockQ.filter (· != c) }) u c (lockLocation u))
  else .error (s.modCore u fun k => { k with lockQ := if k.lockQ.contains c then k.lockQ else k.lockQ ++ [c] })

/-- SPLOCK (R186, R187): stalled contexts are granted the lock in the order in which they issued. -/
def execSplock (s : State) : Res :=
  .next (if s.me.trap ≠ .none then finish s (.trap trapIllegal)
    else control s [] none fun s =>
      let c := s.cur.ctx
      if s.here.lock = some c then .trap trapOperand
      else
        held s fun s =>
          match takeLock s s.cur.unit c with
          | .ok s => .done s
          | .error s => .stall .lock s)

/-- SPUNLK (R186, R187): a release at core scope. -/
def execSpunlk (s : State) : Res :=
  .next (control s [] none fun s =>
    if s.here.lock ≠ some s.cur.ctx then .trap trapOperand
    else
      held s fun s =>
        if orderedAt s 0 then
          .done ((markRelease s s.cur.unit s.cur.ctx (lockLocation s.cur.unit)).modHere fun k => { k with lock := none })
        else .stall .order s)

/-- FENCE (R129, R188). -/
def execFence (scope : BitVec 3) (s : State) : Res :=
  .next (control s [] none fun s => takesRemote s scope fun s => held s fun s =>
    if orderedAt s scope then .done s else .stall .order s)

/-! ## MONWAIT (R189) -/

/-- The armed monitors of a slice: unit, context and order of arming. -/
def armedAt (s : State) (u line : Nat) : List (Nat × Nat × Nat) :=
  s.cores.flatMap fun (v, c) => (upTo 8).filterMap fun i =>
    match (c.ctx i).monitor with
    | some m =>
      if !m.host && !m.fired && State.sliceKey v m.line == State.sliceKey u line then some (v, i, m.seq) else none
    | none => none

/-- The monitor that was armed first. -/
def oldestMonitor (l : List (Nat × Nat × Nat)) : Option (Nat × Nat) :=
  (l.foldl (fun (best : Option (Nat × Nat × Nat)) x =>
    match best with
    | none => some x
    | some b => if x.2.2 < b.2.2 then some x else some b) none).map fun x => (x.1, x.2.1)

/-- Arm the context's monitor. A full table of 64 fires its oldest monitor. -/
def armMonitor (s : State) (u c line : Nat) : State :=
  let host := isHost (64 * line)
  let full := armedAt s u line
  let s :=
    if !host && decide (64 ≤ full.length) then
      match oldestMonitor full with
      | some (v, i) => s.modCtx v i fun x => { x with monitor := x.monitor.map fun m => { m with fired := true } }
      | none => s
    else s
  let seq := s.fab.monSeq
  (s.modFab fun f => { f with monSeq := f.monSeq + 1 }).modCtx u c fun x => { x with monitor := some ⟨line, host, false, seq⟩ }

/-- The doubleword at the home slice, or through CXL.cache for host memory: its value, whether it is
poisoned, or the stall. -/
def monRead (s : State) (tg : Target) : Except (Stall × State) (Word × Bool × State) :=
  let u := s.cur.unit
  let c := s.cur.ctx
  if isHost tg.pa && tg.attr.cached then
    match loadAt s u c 8 tg with
    | .ok v bad s => .ok (BitVec.ofNat 64 v, bad, s)
    | .wait w s => .error (w, s)
    | .trap _ => .error (.order, s)
  else if s.blockWait u c tg 8 then .error (.blocks, s)
  else if ownPendOver s tg 8 || hostHolds s tg.pa then .error (.order, s)
  else .ok (homeLoad s tg)

/-- MONWAIT (R189). -/
def execMonwait (xd xa xb : Reg) (s : State) : Res :=
  .next (control s [xa, xb] (some xd) fun s =>
    let va := X s xa
    match syncTarget s va false with
    | .error t => .trap t
    | .ok tg =>
      if tg.attr = .device then .trap (trapAt 0x08 va)
      else
        held (s.fillPage s.cur.unit s.cur.ctx va) fun s =>
          let line := tg.pa / 64
          let armed := match s.me.monitor with
            | some m => m.line == line
            | none => false
          let fired := match s.me.monitor with
            | some m => m.line == line && m.fired
            | none => false
          if armed && !fired then .stall .monwait s
          else
            let s := if armed then s else armMonitor s s.cur.unit s.cur.ctx line
            match monRead s tg with
            | .error (w, s) => .stall w (if armed then s else s.modMe fun x => { x with monitor := none })
            | .ok (v, bad, s) =>
              if fired || bad || v ≠ X s xb then loadDone (s.modMe fun x => { x with monitor := none }) xd v bad tg.pa
              else .stall .monwait s)

/-! ## TRAP and BREAK (R192) -/

/-- TRAP: resumes at A + 4. -/
def execTrap (code : BitVec 8) (s : State) : Res :=
  .next (control s [] none fun s => .trap { cause := 0x11, code := code, epc := some (s.me.pc + 4) })

/-- BREAK: resumes at A. -/
def execBreak (code : BitVec 8) (s : State) : Res :=
  .next (control s [] none fun _ => .trap { cause := 0x12, code := code })

end Sys2Proof.Machine
end

