-- ==== Sys2Proof/Machine/Dispatch.lean ====
section
/-!
DEFINITION. One arm per constructor of `Instr`: a direct call of its meaning, or a refusal by name.
-/
namespace Sys2Proof.Machine

def exec (i : Instr) (s : State) : Host.Outcome State Fault Refusal :=
  match i with
  | .add xd xa xb sd sa sb => Sys2Proof.Machine.execAdd xd xa xb sd sa sb s
  | .sub xd xa xb sd sa sb => Sys2Proof.Machine.execSub xd xa xb sd sa sb s
  | .and_ xd xa xb sd sa sb => Sys2Proof.Machine.execAnd xd xa xb sd sa sb s
  | .or_ xd xa xb sd sa sb => Sys2Proof.Machine.execOr xd xa xb sd sa sb s
  | .xor xd xa xb sd sa sb => Sys2Proof.Machine.execXor xd xa xb sd sa sb s
  | .andn xd xa xb sd sa sb => Sys2Proof.Machine.execAndn xd xa xb sd sa sb s
  | .shl xd xa xb sd sa sb => Sys2Proof.Machine.execShl xd xa xb sd sa sb s
  | .shr xd xa xb sd sa sb => Sys2Proof.Machine.execShr xd xa xb sd sa sb s
  | .sar xd xa xb sd sa sb => Sys2Proof.Machine.execSar xd xa xb sd sa sb s
  | .rol xd xa xb sd sa sb => Sys2Proof.Machine.execRol xd xa xb sd sa sb s
  | .mul xd xa xb sd sa sb => Sys2Proof.Machine.execMul xd xa xb sd sa sb s
  | .mulh xd xa xb sd sa sb => Sys2Proof.Machine.execMulh xd xa xb sd sa sb s
  | .mulhn xd xa xb sd sa sb => Sys2Proof.Machine.execMulhn xd xa xb sd sa sb s
  | .div xd xa xb sd sa sb => Sys2Proof.Machine.execDiv xd xa xb sd sa sb s
  | .divn xd xa xb sd sa sb => Sys2Proof.Machine.execDivn xd xa xb sd sa sb s
  | .rem xd xa xb sd sa sb => Sys2Proof.Machine.execRem xd xa xb sd sa sb s
  | .remn xd xa xb sd sa sb => Sys2Proof.Machine.execRemn xd xa xb sd sa sb s
  | .min xd xa xb sd sa sb => Sys2Proof.Machine.execMin xd xa xb sd sa sb s
  | .max xd xa xb sd sa sb => Sys2Proof.Machine.execMax xd xa xb sd sa sb s
  | .minn xd xa xb sd sa sb => Sys2Proof.Machine.execMinn xd xa xb sd sa sb s
  | .maxn xd xa xb sd sa sb => Sys2Proof.Machine.execMaxn xd xa xb sd sa sb s
  | .cmpeq xd xa xb sd sa sb => Sys2Proof.Machine.execCmpeq xd xa xb sd sa sb s
  | .cmplt xd xa xb sd sa sb => Sys2Proof.Machine.execCmplt xd xa xb sd sa sb s
  | .cmpltn xd xa xb sd sa sb => Sys2Proof.Machine.execCmpltn xd xa xb sd sa sb s
  | .clz xd xa sd sa => Sys2Proof.Machine.execClz xd xa sd sa s
  | .ctz xd xa sd sa => Sys2Proof.Machine.execCtz xd xa sd sa s
  | .popc xd xa sd sa => Sys2Proof.Machine.execPopc xd xa sd sa s
  | .bswap xd xa sd sa => Sys2Proof.Machine.execBswap xd xa sd sa s
  | .sext xd xa sd sa w => Sys2Proof.Machine.execSext xd xa sd sa w s
  | .zext xd xa sd sa w => Sys2Proof.Machine.execZext xd xa sd sa w s
  | .addi xd xa imm => Sys2Proof.Machine.execAddi xd xa imm s
  | .andi xd xa imm => Sys2Proof.Machine.execAndi xd xa imm s
  | .ori xd xa imm => Sys2Proof.Machine.execOri xd xa imm s
  | .xori xd xa imm => Sys2Proof.Machine.execXori xd xa imm s
  | .shli xd xa n => Sys2Proof.Machine.execShli xd xa n s
  | .shri xd xa n => Sys2Proof.Machine.execShri xd xa n s
  | .sari xd xa n => Sys2Proof.Machine.execSari xd xa n s
  | .cmplti xd xa imm => Sys2Proof.Machine.execCmplti xd xa imm s
  | .ldhi xd imm => Sys2Proof.Machine.execLdhi xd imm s
  | .addpc xd imm => Sys2Proof.Machine.execAddpc xd imm s
  | .ldb xd xa off => Sys2Proof.Machine.execLdb xd xa off s
  | .ldh xd xa off => Sys2Proof.Machine.execLdh xd xa off s
  | .ldw xd xa off => Sys2Proof.Machine.execLdw xd xa off s
  | .ldd xd xa off => Sys2Proof.Machine.execLdd xd xa off s
  | .ldbn xd xa off => Sys2Proof.Machine.execLdbn xd xa off s
  | .ldhn xd xa off => Sys2Proof.Machine.execLdhn xd xa off s
  | .ldwn xd xa off => Sys2Proof.Machine.execLdwn xd xa off s
  | .stb xs xa off => Sys2Proof.Machine.execStb xs xa off s
  | .sth xs xa off => Sys2Proof.Machine.execSth xs xa off s
  | .stw xs xa off => Sys2Proof.Machine.execStw xs xa off s
  | .std xs xa off => Sys2Proof.Machine.execStd xs xa off s
  | .lds xd xa off sz => Sys2Proof.Machine.execLds xd xa off sz s
  | .sts xs xa off sz => Sys2Proof.Machine.execSts xs xa off sz s
  | .lda xd xa scope => Sys2Proof.Machine.execLda xd xa scope s
  | .stl xa xb scope => Sys2Proof.Machine.execStl xa xb scope s
  | .amoadd xd xa xb scope => Sys2Proof.Machine.execAmoadd xd xa xb scope s
  | .amoswp xd xa xb scope => Sys2Proof.Machine.execAmoswp xd xa xb scope s
  | .amocas xd xa xb scope => Sys2Proof.Machine.execAmocas xd xa xb scope s
  | .amomin xd xa xb scope => Sys2Proof.Machine.execAmomin xd xa xb scope s
  | .amomax xd xa xb scope => Sys2Proof.Machine.execAmomax xd xa xb scope s
  | .amominn xd xa xb scope => Sys2Proof.Machine.execAmominn xd xa xb scope s
  | .amomaxn xd xa xb scope => Sys2Proof.Machine.execAmomaxn xd xa xb scope s
  | .amoand xd xa xb scope => Sys2Proof.Machine.execAmoand xd xa xb scope s
  | .amoor xd xa xb scope => Sys2Proof.Machine.execAmoor xd xa xb scope s
  | .amoxor xd xa xb scope => Sys2Proof.Machine.execAmoxor xd xa xb scope s
  | .beq xa xb off => Sys2Proof.Machine.execBeq xa xb off s
  | .bne xa xb off => Sys2Proof.Machine.execBne xa xb off s
  | .blt xa xb off => Sys2Proof.Machine.execBlt xa xb off s
  | .bltn xa xb off => Sys2Proof.Machine.execBltn xa xb off s
  | .bge xa xb off => Sys2Proof.Machine.execBge xa xb off s
  | .bgen xa xb off => Sys2Proof.Machine.execBgen xa xb off s
  | .jmp off => Sys2Proof.Machine.execJmp off s
  | .call off => Sys2Proof.Machine.execCall off s
  | .jr xa => Sys2Proof.Machine.execJr xa s
  | .callr xd xa => Sys2Proof.Machine.execCallr xd xa s
  | .fork xd xa xb fn => Sys2Proof.Machine.execFork xd xa xb fn s
  | .forki xd xa xb fn => Sys2Proof.Machine.execForki xd xa xb fn s
  | .bsend xa => Sys2Proof.Machine.execBsend xa s
  | .legid xd => Sys2Proof.Machine.execLegid xd s
  | .vfetch off => Sys2Proof.Machine.execVfetch off s
  | .vfetchx xa => Sys2Proof.Machine.execVfetchx xa s
  | .rdreply xd => Sys2Proof.Machine.execRdreply xd s
  | .vset xd xa xb => Sys2Proof.Machine.execVset xd xa xb s
  | .send xa xb chan n => Sys2Proof.Machine.execSend xa xb chan n s
  | .chset xa xb => Sys2Proof.Machine.execChset xa xb s
  | .chblk xa => Sys2Proof.Machine.execChblk xa s
  | .chblkRem xa xb => Sys2Proof.Machine.execChblkRem xa xb s
  | .chunb xa => Sys2Proof.Machine.execChunb xa s
  | .chunbRem xa xb => Sys2Proof.Machine.execChunbRem xa xb s
  | .tspawn xd xa => Sys2Proof.Machine.execTspawn xd xa s
  | .twait xa => Sys2Proof.Machine.execTwait xa s
  | .rtcopy xd xa => Sys2Proof.Machine.execRtcopy xd xa s
  | .rtgath xd xa => Sys2Proof.Machine.execRtgath xd xa s
  | .rtwait xa => Sys2Proof.Machine.execRtwait xa s
  | .rload xd xa sz => Sys2Proof.Machine.execRload xd xa sz s
  | .rstore xd xa sz => Sys2Proof.Machine.execRstore xd xa sz s
  | .ramoadd xd xa xb => Sys2Proof.Machine.execRamoadd xd xa xb s
  | .ramoswp xd xa xb => Sys2Proof.Machine.execRamoswp xd xa xb s
  | .ramocas xd xa xb => Sys2Proof.Machine.execRamocas xd xa xb s
  | .ramomin xd xa xb => Sys2Proof.Machine.execRamomin xd xa xb s
  | .ramomax xd xa xb => Sys2Proof.Machine.execRamomax xd xa xb s
  | .ramominn xd xa xb => Sys2Proof.Machine.execRamominn xd xa xb s
  | .ramomaxn xd xa xb => Sys2Proof.Machine.execRamomaxn xd xa xb s
  | .ramoand xd xa xb => Sys2Proof.Machine.execRamoand xd xa xb s
  | .ramoor xd xa xb => Sys2Proof.Machine.execRamoor xd xa xb s
  | .ramoxor xd xa xb => Sys2Proof.Machine.execRamoxor xd xa xb s
  | .rcopy xa => Sys2Proof.Machine.execRcopy xa s
  | .coll xd xa scope => Sys2Proof.Machine.execColl xd xa scope s
  | .collwait xa scope => Sys2Proof.Machine.execCollwait xa scope s
  | .fence scope => Sys2Proof.Machine.execFence scope s
  | .monwait xd xa xb => Sys2Proof.Machine.execMonwait xd xa xb s
  | .gets xd num => Sys2Proof.Machine.execGets xd num s
  | .sets xs num => Sys2Proof.Machine.execSets xs num s
  | .locq xd xa => Sys2Proof.Machine.execLocq xd xa s
  | .trap code => Sys2Proof.Machine.execTrap code s
  | .break_ code => Sys2Proof.Machine.execBreak code s
  | .getp xd xa => Sys2Proof.Machine.execGetp xd xa s
  | .setp xa xb => Sys2Proof.Machine.execSetp xa xb s
  | .tlbinv xa xb => Sys2Proof.Machine.execTlbinv xa xb s
  | .tlbinva xa => Sys2Proof.Machine.execTlbinva xa s
  | .ctxsave xd xa xb => Sys2Proof.Machine.execCtxsave xd xa xb s
  | .ctxld xd xa xb => Sys2Proof.Machine.execCtxld xd xa xb s
  | .qdrain xa => Sys2Proof.Machine.execQdrain xa s
  | .partrst xa => Sys2Proof.Machine.execPartrst xa s
  | .cvault xd xa xb => Sys2Proof.Machine.execCvault xd xa xb s
  | .cksync xa => Sys2Proof.Machine.execCksync xa s
  | .elrd xd xa => Sys2Proof.Machine.execElrd xd xa s
  | .elrdPop xd xa => Sys2Proof.Machine.execElrdPop xd xa s
  | .hcall xd xa xb => Sys2Proof.Machine.execHcall xd xa xb s
  | .wfe xd => Sys2Proof.Machine.execWfe xd s
  | .ringownWrite ring value => Sys2Proof.Machine.execRingownWrite ring value s
  | .astagWrite part value => Sys2Proof.Machine.execAstagWrite part value s
  | .illegalEncoding w => Sys2Proof.Machine.execIllegalEncoding w s
  | .vstop f => Sys2Proof.Machine.execVstop f s
  | .vnop f => Sys2Proof.Machine.execVnop f s
  | .vloopSet f => Sys2Proof.Machine.execVloopSet f s
  | .vloop f => Sys2Proof.Machine.execVloop f s
  | .vregion f => Sys2Proof.Machine.execVregion f s
  | .vreply f => Sys2Proof.Machine.execVreply f s
  | .vadd f => Sys2Proof.Machine.execVadd f s
  | .vsub f => Sys2Proof.Machine.execVsub f s
  | .vmul f => Sys2Proof.Machine.execVmul f s
  | .vmulh f => Sys2Proof.Machine.execVmulh f s
  | .vmadd f => Sys2Proof.Machine.execVmadd f s
  | .vdiv f => Sys2Proof.Machine.execVdiv f s
  | .vmin f => Sys2Proof.Machine.execVmin f s
  | .vmax f => Sys2Proof.Machine.execVmax f s
  | .vand f => Sys2Proof.Machine.execVand f s
  | .vor f => Sys2Proof.Machine.execVor f s
  | .vxor f => Sys2Proof.Machine.execVxor f s
  | .vshl f => Sys2Proof.Machine.execVshl f s
  | .vshr f => Sys2Proof.Machine.execVshr f s
  | .vsar f => Sys2Proof.Machine.execVsar f s
  | .vaddc f => Sys2Proof.Machine.execVaddc f s
  | .vsubb f => Sys2Proof.Machine.execVsubb f s
  | .vabsd f => Sys2Proof.Machine.execVabsd f s
  | .vadds f => Sys2Proof.Machine.execVadds f s
  | .vsubs f => Sys2Proof.Machine.execVsubs f s
  | .vcmp f => Sys2Proof.Machine.execVcmp f s
  | .vsel f => Sys2Proof.Machine.execVsel f s
  | .vmov f => Sys2Proof.Machine.execVmov f s
  | .vbcast f => Sys2Proof.Machine.execVbcast f s
  | .viota f => Sys2Proof.Machine.execViota f s
  | .vfadd f => Sys2Proof.Machine.execVfadd f s
  | .vfsub f => Sys2Proof.Machine.execVfsub f s
  | .vfmul f => Sys2Proof.Machine.execVfmul f s
  | .vfma f => Sys2Proof.Machine.execVfma f s
  | .vfnma f => Sys2Proof.Machine.execVfnma f s
  | .vfdiv f => Sys2Proof.Machine.execVfdiv f s
  | .vfsqrt f => Sys2Proof.Machine.execVfsqrt f s
  | .vfmin f => Sys2Proof.Machine.execVfmin f s
  | .vfmax f => Sys2Proof.Machine.execVfmax f s
  | .vfsgn f => Sys2Proof.Machine.execVfsgn f s
  | .vfclass f => Sys2Proof.Machine.execVfclass f s
  | .vexp2 f => Sys2Proof.Machine.execVexp2 f s
  | .vlog2 f => Sys2Proof.Machine.execVlog2 f s
  | .vrcp f => Sys2Proof.Machine.execVrcp f s
  | .vcvt f => Sys2Proof.Machine.execVcvt f s
  | .vquant f => Sys2Proof.Machine.execVquant f s
  | .vdeq f => Sys2Proof.Machine.execVdeq f s
  | .pand f => Sys2Proof.Machine.execPand f s
  | .por f => Sys2Proof.Machine.execPor f s
  | .pxor f => Sys2Proof.Machine.execPxor f s
  | .pnot f => Sys2Proof.Machine.execPnot f s
  | .pmov f => Sys2Proof.Machine.execPmov f s
  | .pany f => Sys2Proof.Machine.execPany f s
  | .pcnt f => Sys2Proof.Machine.execPcnt f s
  | .pfirst f => Sys2Proof.Machine.execPfirst f s
  | .pbrkb f => Sys2Proof.Machine.execPbrkb f s
  | .pbrka f => Sys2Proof.Machine.execPbrka f s
  | .pshl f => Sys2Proof.Machine.execPshl f s
  | .vperm f => Sys2Proof.Machine.execVperm f s
  | .vslide f => Sys2Proof.Machine.execVslide f s
  | .vxpose f => Sys2Proof.Machine.execVxpose f s
  | .vextr f => Sys2Proof.Machine.execVextr f s
  | .vcompr f => Sys2Proof.Machine.execVcompr f s
  | .vexpnd f => Sys2Proof.Machine.execVexpnd f s
  | .xsend f => Sys2Proof.Machine.execXsend f s
  | .xrecv f => Sys2Proof.Machine.execXrecv f s
  | .vredsum f => Sys2Proof.Machine.execVredsum f s
  | .vredosum f => Sys2Proof.Machine.execVredosum f s
  | .vredmin f => Sys2Proof.Machine.execVredmin f s
  | .vredmax f => Sys2Proof.Machine.execVredmax f s
  | .vredand f => Sys2Proof.Machine.execVredand f s
  | .vredor f => Sys2Proof.Machine.execVredor f s
  | .vld f => Sys2Proof.Machine.execVld f s
  | .vldScl f => Sys2Proof.Machine.execVldScl f s
  | .vst f => Sys2Proof.Machine.execVst f s
  | .vstScl f => Sys2Proof.Machine.execVstScl f s
  | .vldx f => Sys2Proof.Machine.execVldx f s
  | .vstx f => Sys2Proof.Machine.execVstx f s
  | .vldff f => Sys2Proof.Machine.execVldff f s
  | .vlds f => Sys2Proof.Machine.execVlds f s
  | .vldsScl f => Sys2Proof.Machine.execVldsScl f s
  | .vsts f => Sys2Proof.Machine.execVsts f s
  | .vstsScl f => Sys2Proof.Machine.execVstsScl f s
  | .vldseg f => Sys2Proof.Machine.execVldseg f s
  | .vstseg f => Sys2Proof.Machine.execVstseg f s
  | .vscadd f => Sys2Proof.Machine.execVscadd f s
  | .lsync f => Sys2Proof.Machine.execLsync f s
  | .lsyncScoped f => Sys2Proof.Machine.execLsyncScoped f s
  | .mshape f => Sys2Proof.Machine.execMshape f s
  | .mtld f => Sys2Proof.Machine.execMtld f s
  | .mtldm f => Sys2Proof.Machine.execMtldm f s
  | .mtldmScl f => Sys2Proof.Machine.execMtldmScl f s
  | .mtst f => Sys2Proof.Machine.execMtst f s
  | .mtstScl f => Sys2Proof.Machine.execMtstScl f s
  | .mmaIp f => Sys2Proof.Machine.execMmaIp f s
  | .mmaOp f => Sys2Proof.Machine.execMmaOp f s
  | .mmaRw f => Sys2Proof.Machine.execMmaRw f s
  | .mmaRwSp f => Sys2Proof.Machine.execMmaRwSp f s
  | .maccz f => Sys2Proof.Machine.execMaccz f s
  | .maccrd f => Sys2Proof.Machine.execMaccrd f s
  | .maccwr f => Sys2Proof.Machine.execMaccwr f s
  | .mmrd f => Sys2Proof.Machine.execMmrd f s
  | .vmerge f => Sys2Proof.Machine.execVmerge f s
  | .vtopk f => Sys2Proof.Machine.execVtopk f s
  | .vsortk f => Sys2Proof.Machine.execVsortk f s
  | .vcsrx f => Sys2Proof.Machine.execVcsrx f s
  | .readRegister port num inst => Sys2Proof.Machine.execReadRegister port num inst s
  | .writeRegister num inst value => Sys2Proof.Machine.execWriteRegister num inst value s
  | .startDispatcherStrand part queue image => Sys2Proof.Machine.execStartDispatcherStrand part queue image s
  | .resumeAfterPageFault record action => Sys2Proof.Machine.execResumeAfterPageFault record action s
  | .orderVault core slot => Sys2Proof.Machine.execOrderVault core slot s
  | .drainPartition part => Sys2Proof.Machine.execDrainPartition part s
  | .resetPartition part => Sys2Proof.Machine.execResetPartition part s
  | .readErrorRecord port part pop => Sys2Proof.Machine.execReadErrorRecord port part pop s
  | .requestCheckpointPass part => Sys2Proof.Machine.execRequestCheckpointPass part s
  | .readLinkConfiguration port => Sys2Proof.Machine.execReadLinkConfiguration port s
  | .messageToFirmware w0 w1 => Sys2Proof.Machine.execMessageToFirmware w0 w1 s
  | .readDeviceMessage => Sys2Proof.Machine.execReadDeviceMessage s
  | .sendQueueTransfer unit ctx => Sys2Proof.Machine.execSendQueueTransfer unit ctx s
  | .messageStart unit => Sys2Proof.Machine.execMessageStart unit s
  | .blockStart unit => Sys2Proof.Machine.execBlockStart unit s
  | .legStart strand => Sys2Proof.Machine.execLegStart strand s
  | .batonDelivery unit => Sys2Proof.Machine.execBatonDelivery unit s
  | .storeBroadcast unit => Sys2Proof.Machine.execStoreBroadcast unit s
  | .forwardingRequest unit ctx => Sys2Proof.Machine.execForwardingRequest unit ctx s
  | .commitBaton strand => Sys2Proof.Machine.execCommitBaton strand s
  | .cacheMissFill unit ctx bad => Sys2Proof.Machine.execCacheMissFill unit ctx bad s
  | .headerRetry unit ctx => Sys2Proof.Machine.execHeaderRetry unit ctx s
  | .coherenceInvalidation unit line => Sys2Proof.Machine.execCoherenceInvalidation unit line s
  | .leaseExpiry die line => Sys2Proof.Machine.execLeaseExpiry die line s
  | .leaseWaitWrite idx => Sys2Proof.Machine.execLeaseWaitWrite idx s
  | .lineWriteback at_ line bad forced => Sys2Proof.Machine.execLineWriteback at_ line bad forced s
  | .powerGate agent => Sys2Proof.Machine.execPowerGate agent s
  | .scatterAddApply idx => Sys2Proof.Machine.execScatterAddApply idx s
  | .monitorFire unit ctx => Sys2Proof.Machine.execMonitorFire unit ctx s
  | .chunkLanding copy chunk => Sys2Proof.Machine.execChunkLanding copy chunk s
  | .copyCompletion unit handle => Sys2Proof.Machine.execCopyCompletion unit handle s
  | .retrieverPageFault unit handle chunk => Sys2Proof.Machine.execRetrieverPageFault unit handle chunk s
  | .remoteRequest src pod va op => Sys2Proof.Machine.execRemoteRequest src pod va op s
  | .remoteReply unit ctx id value ok => Sys2Proof.Machine.execRemoteReply unit ctx id value ok s
  | .remoteError unit ctx id => Sys2Proof.Machine.execRemoteError unit ctx id s
  | .rcopyFlagWrite unit ctx id => Sys2Proof.Machine.execRcopyFlagWrite unit ctx id s
  | .collectiveComplete part entry inst others => Sys2Proof.Machine.execCollectiveComplete part entry inst others s
  | .taskOrderPoint die node => Sys2Proof.Machine.execTaskOrderPoint die node s
  | .taskPlacement die part => Sys2Proof.Machine.execTaskPlacement die part s
  | .taskCompletion strand => Sys2Proof.Machine.execTaskCompletion strand s
  | .launchPickup part queue => Sys2Proof.Machine.execLaunchPickup part queue s
  | .watchdogExpiry part queue => Sys2Proof.Machine.execWatchdogExpiry part queue s
  | .handlerStallExpiry unit ctx => Sys2Proof.Machine.execHandlerStallExpiry unit ctx s
  | .recoveryWaitTimeout part => Sys2Proof.Machine.execRecoveryWaitTimeout part s
  | .partitionDrain part => Sys2Proof.Machine.execPartitionDrain part s
  | .tableWalk unit ctx va level bad => Sys2Proof.Machine.execTableWalk unit ctx va level bad s
  | .blockFaultTake unit => Sys2Proof.Machine.execBlockFaultTake unit s
  | .vaultDrain ring => Sys2Proof.Machine.execVaultDrain ring s
  | .vaultCopy ring => Sys2Proof.Machine.execVaultCopy ring s
  | .vaultCopyFailure ring => Sys2Proof.Machine.execVaultCopyFailure ring s
  | .vaultFlip ring => Sys2Proof.Machine.execVaultFlip ring s
  | .checkpointTimer part => Sys2Proof.Machine.execCheckpointTimer part s
  | .checkpointPass part => Sys2Proof.Machine.execCheckpointPass part s
  | .rejoinAdmission agent => Sys2Proof.Machine.execRejoinAdmission agent s
  | .throttleUpdate power temp => Sys2Proof.Machine.execThrottleUpdate power temp s
  | .packageFault => Sys2Proof.Machine.execPackageFault s
  | .packageReset => Sys2Proof.Machine.execPackageReset s
  | .bringupPhase result => Sys2Proof.Machine.execBringupPhase result s
  | .hostAccess pa op => Sys2Proof.Machine.execHostAccess pa op s
  | .backInvalidation line data => Sys2Proof.Machine.execBackInvalidation line data s
  | .hostSnoop unit line kind => Sys2Proof.Machine.execHostSnoop unit line kind s
  | .hostLinkFailure => Sys2Proof.Machine.execHostLinkFailure s
  | .hostLinkRestored => Sys2Proof.Machine.execHostLinkRestored s
  | .stationFailure station => Sys2Proof.Machine.execStationFailure station s
  | .cachePowerUp agent => Sys2Proof.Machine.execCachePowerUp agent s
  | .pageFaultService record served => Sys2Proof.Machine.execPageFaultService record served s
  | .correctedEventWindow part => Sys2Proof.Machine.execCorrectedEventWindow part s
  | .join => Sys2Proof.Machine.execJoin s
  | .bar => Sys2Proof.Machine.execBar s
  | .vwait => Sys2Proof.Machine.execVwait s
  | .hexit => Sys2Proof.Machine.execHexit s
  | .shsync => Sys2Proof.Machine.execShsync s
  | .yield => Sys2Proof.Machine.execYield s
  | .splock => Sys2Proof.Machine.execSplock s
  | .spunlk => Sys2Proof.Machine.execSpunlk s
  | .eret => Sys2Proof.Machine.execEret s

end Sys2Proof.Machine
end

