-- ==== Sys2Proof/Machine/Issue.lean ====
section
/-!
DEFINITION. Fetching and issuing: the issue rotation of a core (R19 to R23, R185, R375), the fetch of
control words (R145, R116, R310), block words (R25) and the turn of an event.
-/
namespace Sys2Proof.Machine

abbrev Out := Host.Outcome State Fault Refusal

/-! ## Fetch -/

/-- The control word at the context's pc, or the trap of its fetch. A pc with bits [1:0] nonzero can only come from
an EPC that software has edited (R322): the specification names no outcome, and the model takes the misaligned-fetch
trap, with the pc as its address (DESIGN CHOICE, log entry 67). -/
def fetchCtl (s : State) (u c : Nat) : Except TrapInfo Ctl :=
  let pc := (s.ctx u c).pc
  if pc.toNat % 4 ≠ 0 then .error (trapAt 0x04 pc)
  else
    match s.xlate u c .fetch false pc with
    | .error st => .error (trapXlate true st pc)
    | .ok tg =>
      if !tg.attr.cached then .error (trapAt 0x08 pc)
      else .ok (bytesBV 32 (view s u c tg.pa 4))

/-- The instruction that a fetched control word is: one of the table, or ILLEGAL_ENCODING (R154). -/
def ctlInstr (w : Ctl) : Instr :=
  match decodeCtl w with
  | .ok i => i
  | .error _ => .illegalEncoding (.control w)

/-- The instruction that a fetched block word is. -/
def blkInstr (w : Blk) : Instr :=
  match decodeBlk w with
  | .ok i => i
  | .error _ => .illegalEncoding (.block w)

/-- A block fault is ready and may be taken at the context's boundary (R316). -/
def blockFaultDue (s : State) (u : Nat) : Bool :=
  let q := (s.core u).seq
  q.fault.isSome && !q.frozen && (s.ctx u 0).trap == .none

/-- The strand that has been restored on the core takes the scratchpad lock again before its first
instruction (R187). -/
def relockDue (s : State) (u c : Nat) : Bool := (s.ctx u c).relock

/-- It takes the lock, or waits for it. -/
def relock (s : State) (u c : Nat) : State :=
  match takeLock s u c with
  | .ok s => s.modCtx u c fun x => { x with relock := false, stall := none }
  | .error s => s.modCtx u c fun x => { x with stall := some .lock }

/-- A context issues: a block fault that is ready is taken at the boundary; otherwise the word at its
pc executes (R155, R316). -/
def issueRaw (s : State) (u c : Nat) : Out :=
  let s := s.setCur ⟨u, c⟩
  if relockDue s u c then .next (relock s u c)
  else if c = 0 && blockFaultDue s u && (spawnServed s u 0).isNone then .next (takeBlockFault (takeBackSpawn s u 0) u)
  else
    match fetchCtl s u c with
    | .error t => .next (raise (takeBackSpawn s u c) u c t)
    | .ok w => exec (ctlInstr w) (s.fillPage u c (s.ctx u c).pc)

/-! ## The checks of R336 -/

/-- The next outcome of the core's checks. -/
def popCheck (s : State) (u : Nat) : Check × State :=
  match (s.core u).checks with
  | [] => (.good, s)
  | k :: rest => (k, s.modCore u fun c => { c with checks := rest })

/-- Where a party of a core stands, its run of restarts and the address of the run: the sequencer, or a context
(R337). -/
def runOf (s : State) (u : Nat) (ctx : Option Nat) : Word × Nat × Word :=
  match ctx with
  | some c => let x := s.ctx u c; (x.pc, x.restarts, x.restartAt)
  | none => let q := (s.core u).seq; (q.pc, q.restarts, q.restartAt)

def setRun (s : State) (u : Nat) (ctx : Option Nat) (n : Nat) (pc : Word) : State :=
  match ctx with
  | some c => s.modCtx u c fun x => { x with restarts := n, restartAt := pc }
  | none => s.modCore u fun c => { c with seq := { c.seq with restarts := n, restartAt := pc } }

/-- Restarts so far of the instruction at which the party stands. -/
def restartsHere (s : State) (u : Nat) (ctx : Option Nat) : Nat :=
  let (pc, n, at_) := runOf s u ctx
  if at_ = pc then n else 0

/-- No mismatch: the run of the instruction ends. -/
def endRun (s : State) (u : Nat) (ctx : Option Nat) : State :=
  if restartsHere s u ctx = 0 then s else setRun s u ctx 0 (runOf s u ctx).1

/-- A leg that has not committed early is replayed; it counts as no replay for a consumed error (R337,
R341). -/
def replayLeg (s : State) (u : Nat) : State :=
  match (s.core u).leg, (s.core u).strand with
  | some l, some h =>
    if s.speculative u 0 then squashFrom s h l.k false
    else squashOne (squashFrom s h (l.k + 1) false) u false
  | _, _ => s

/-- The word at the sequencer goes this far in its turn; for a context there is nothing to stop inside. -/
def setStop (s : State) (u : Nat) (ctx : Option Nat) (n : Option Nat) : State :=
  match ctx with
  | some _ => s
  | none => s.modCore u fun c => { c with seq := { c.seq with stop := n } }

/-- A comparison has failed (R337): the leg is replayed, or the instruction starts again; after 4 consecutive restarts
of one instruction the error is a consumed one. -/
def mismatched (s : State) (u : Nat) (ctx : Option Nat) : State :=
  let c := ctx.getD 0
  let pc := (runOf s u ctx).1
  let n := restartsHere s u ctx
  if 4 ≤ n then consume (setRun s u ctx 0 pc) u c 0
  else setRun (if s.versioned u c then replayLeg s u else s) u ctx (n + 1) pc

/-- A sector of memory, by PA / 16, has an uncorrectable error: what the leg on the core has written of it, or where it
stands (R340). -/
def badMemory (s : State) (u k : Nat) : State :=
  let mine (x : Line) : Bool := x.line == k / 4 && x.st == .L && x.dirty.getLsbD (k % 4)
  if (s.core u).lines.any mine then
    s.modCore u fun c => { c with lines := c.lines.map fun x => if mine x then { x with bad := putBit x.bad (k % 4) true } else x }
  else s.modFab fun f => { f with poison := insertNat k f.poison }

/-- An instruction issues under the checks: `ctx` is its context, or none for a block word, whose
context is 0 (R336, R337, R340). -/
def checked (s : State) (u : Nat) (ctx : Option Nat) (go : State → Out) : Out :=
  let c := ctx.getD 0
  match popCheck s u with
  | (.mismatch unit, s) => .next (mismatched (correctedEvent s u 1 unit.code 0) u ctx)
  | (k, s) =>
    let s := setStop (endRun s u ctx) u ctx none
    match k with
    | .good => go s
    | .mismatch _ => .next s
    | .stop n => go (setStop s u ctx (some n))
    | .group r g =>
      go (s.modCore u fun k => { k with v := { k.v with poison := vset k.v.poison r (putBit (vget k.v.poison 0 r) g true) } })
    | .sector n => go (s.modCore u fun k => { k with spPoison := insertNat (n % 0x8000) k.spPoison })
    | .lost => .next (consume s u c 0)
    | .memory n => go (badMemory s u n)
    | .corrected st pa =>
      let s := correctedStore s u st pa
      if s.vaulting u then .next s else go s

/-- A context issues, checked. -/
def issueCtx (s : State) (u c : Nat) : Out := checked s u (some c) fun s => issueRaw s u c

/-! ## The rotation -/

/-- A pre-emption has stopped the context: it is not in a handler, and has no access or reply under way that comes
first (R324, R165, R251), nor the fault of a block that a transfer comes after (R134, R316). -/
def preempted (s : State) (u c : Nat) : Bool :=
  let x := s.ctx u c
  c == 0 && x.trap == .none && !x.finishing && saves s u && !(blockFaultDue s u && copiesBehind s u)

/-- A vault has stopped the context (R348): only an access or a reply under way comes first (R165, R251). -/
def vaulted (s : State) (u c : Nat) : Bool := s.vaulting u && !(s.ctx u c).finishing

/-- A context could issue and go on: it is resident and not stopped, and if it is stalled its
instruction would no longer stall (R21). -/
def readyCtx (s : State) (u c : Nat) : Bool :=
  let x := s.ctx u c
  x.resident && !x.stopped && !preempted s u c && !vaulted s u c &&
    match x.stall with
    | none => true
    | some (.refused _ _ _) => false
    | some w =>
      match issueRaw s u c with
      | .next s' => (s'.ctx u c).stall != some w
      | _ => true

/-- Resident contexts, ascending. -/
def residents (c : Core) : List Nat := (upTo 8).filter fun i => (c.ctx i).resident

/-- The slots of a new rotation (R20). -/
def newRotation (members : List Nat) : List (Option Nat) :=
  match members with
  | [] => [none, none]
  | [m] => [some m, none]
  | l => l.map some

/-- The core at the start of a control cycle: at the first slot of a rotation, membership and the
throttle are sampled (R20, R23, R375). -/
def startSlot (s : State) (u : Nat) : Core :=
  let c := s.core u
  if c.rot.isEmpty then
    let level := if c.run = 0 then s.pkg.throt.toNat else c.runLevel
    { c with rot := newRotation (residents c), gatedRot := decide (c.run < level), runLevel := level, run := (c.run + 1) % 8 }
  else c

/-- Order of the contexts that a lent slot may go to: priority, then least recent issue (R22). -/
def lentBetter (s : State) (u a b : Nat) : Bool :=
  let x := s.ctx u a
  let y := s.ctx u b
  decide (y.prio.toNat < x.prio.toNat) || (x.prio == y.prio && decide (x.lastIssue < y.lastIssue))

/-- The context that takes a lent slot (R22). Of contexts of one priority with the same last issue, such as two that have
never issued, the lowest takes it (DESIGN CHOICE, log entry 86). -/
def lentTo (s : State) (u : Nat) (next : Option Nat) : Option Nat :=
  ((upTo 8).filter fun c => (s.core u).lastCtx != some c && next != some c && readyCtx s u c).foldl
    (fun best c => match best with | none => some c | some b => if lentBetter s u c b then some c else some b) none

/-- One control cycle of a core (R20 to R23): who issues, and what the rotation becomes. At the last slot of a rotation the
owner of the next slot is the first of the contexts resident then (DESIGN CHOICE, log entry 86). A context that has yielded
keeps its yield through a rotation that the throttle gates: whether an own slot in such a rotation counts as its next
one is not stated (DESIGN CHOICE, log entry 68). -/
def pickIssuer (s : State) (u : Nat) : Option Nat × State :=
  let c := startSlot s u
  match c.rot with
  | [] => (none, s.setCore u c)
  | owner :: rest =>
    -- writes of the slot's owner to XS registers are visible from its own slot on (R323)
    let c := { c with
      rot := rest
      xsOld := match owner with
        | some o => settleXs c.xsOld o
        | none => c.xsOld }
    let next := match rest with
      | o :: _ => o
      | [] => (residents c).head?
    let s := s.setCore u c
    if c.gatedRot then (none, s)
    else
      match owner with
      | none => (lentTo s u next, s)
      | some o =>
        if (s.ctx u o).yielded then
          let s := s.modCtx u o fun x => { x with yielded := false }
          (lentTo (s.modCtx u o fun x => { x with stopped := true }) u next, s)
        else if readyCtx s u o then (some o, s)
        else (lentTo s u next, s)

/-- Nothing issues on the core: it is a compute core, and bring-up is not over (R372) or it has no power (R376), or its
partition drains or has drained (R301). -/
def coreOff (s : State) (u : Nat) : Bool :=
  (!isMgmt u && (s.pkg.faulted || s.pkg.phase != 6)) ||
    match s.partOf u with
    | some p => !s.placing p
    | none => false

/-- A vault that began before the drain of the partition completes first: a context of the core ends the access that it
has sent (R301, R351). -/
def lastAccess (s : State) (u : Nat) : Bool := !s.pkg.faulted && s.vaulting u && !contextsStopped s u

/-- A context that finishes an access before it is stopped has finished it when none is under way any more (R165,
R251). -/
def endFinishing (u c : Nat) (o : Out) : Out :=
  match o with
  | .next s => .next (if (s.ctx u c).finishing && !accessSent s u c then s.modCtx u c fun x => { x with finishing := false } else s)
  | .fault f => .fault f
  | .refused r => .refused r

/-- A control cycle of core `u`. -/
def cycleTurn (s : State) (u : Nat) : Out :=
  if numUnits ≤ u then .fault .noSuchCore
  else if coreOff s u && !lastAccess s u then .next s
  else
    let (who, s) := pickIssuer s u
    let s := s.modCore u fun c => { c with lastCtx := who }
    match who with
    | none => .next s
    | some c => endFinishing u c (issueCtx (s.modCtx u c fun x => { x with lastIssue := s.now + 1 }) u c)

/-! ## Block words -/

/-- A vault or a pre-emption stops the sequencer, but for blocks that a transfer issued before it has still to come
after (R134, R348, R350). -/
def seqStopped (s : State) (u : Nat) : Bool :=
  (saves s u && !copiesBehind s u) ||
    (s.vaulting u && !(s.core u).copies.any fun p => p.preQ && p.ctx == 0 && copyBehind s u p)

/-- The sequencer may issue: it runs a block, and no fault stops it. -/
def seqReady (s : State) (u : Nat) : Bool :=
  let q := (s.core u).seq
  q.active && q.fault.isNone && !q.frozen && (s.ctx u 0).resident && !(s.ctx u 0).stopped && !seqStopped s u

/-- The scalar registers that a block word reads (R26, R44, R194, R222). -/
def wordRegs (i : Instr) : List Reg :=
  match i with
  | .vadd f | .vsub f | .vmul f | .vmulh f | .vmadd f | .vdiv f | .vmin f | .vmax f | .vand f | .vor f | .vxor f
  | .vshl f | .vshr f | .vsar f | .vabsd f | .vadds f | .vsubs f | .vcmp f | .vfadd f | .vfsub f | .vfmul f | .vfma f
  | .vfnma f | .vfdiv f | .vfmin f | .vfmax f | .vfsgn f | .vreply f => if f.func.getLsbD 0 then [f.vc] else []
  | .vloopSet f | .vbcast f | .viota f | .vslide f | .vextr f | .vldx f | .vstx f | .vscadd f | .mshape f | .mmrd f
  | .vtopk f => [f.vc]
  | .vld f | .vldScl f | .vst f | .vstScl f | .vldff f | .vlds f | .vldsScl f | .vsts f | .vstsScl f =>
    if usesStride f then [f.vc, f.vb] else [f.vc]
  | .vldseg f | .vstseg f | .mtldm f | .mtldmScl f | .mtst f | .mtstScl f => [f.vc, f.vb]
  | _ => []

/-- A register that the word reads held the leg's start value at the VFETCH, and that value is not known yet: the leg
predicts none, and none has been delivered (R44). -/
def wordPending (s : State) (u : Nat) (i : Instr) : Bool :=
  match (s.core u).leg, s.regionOf u with
  | some l, some r => (wordRegs i).any fun n =>
      s.block.fresh.getLsbD n.toNat && (r.startReg l.k n.toNat).2 && !l.delivered.getLsbD n.toNat
  | _, _ => false

/-- READ of the registers that the word reads while they hold their start value (R44). -/
def markWordRegs (s : State) (u : Nat) (i : Instr) : State :=
  match (s.core u).leg with
  | none => s
  | some l =>
    let read := (wordRegs i).foldl (fun m (n : Reg) => if s.block.fresh.getLsbD n.toNat then putBit m n.toNat true else m) l.read
    if read = l.read then s else s.modCore u fun c => { c with leg := some { l with read := read } }

/-- Words that the sequencer performs itself: they send nothing to a queue, and no lane takes part (R26, R27), so that
the checking lane does not count them (DEDUCED, log entry 79). -/
def ofSequencer (i : Instr) : Bool :=
  match i with
  | .vstop _ | .vnop _ | .vloop _ | .vloopSet _ | .vregion _ => true
  | _ => false

/-- Once a vector instruction has completed, the checking lane goes on to the next working lane (R336). -/
def countLane (u : Nat) (pc : Word) (i : Instr) (o : Out) : Out :=
  match o with
  | .next s =>
    .next (if (s.core u).seq.pc = pc + 8 && !ofSequencer i then s.modPslot (s.slotKey u) fun p => { p with lane := p.lane + 1 } else s)
  | .fault f => .fault f
  | .refused r => .refused r

/-- The word at the sequencer, or the trap of its fetch (R25, R116). -/
def fetchBlk (s : State) (u : Nat) : Except TrapInfo Blk :=
  let pc := (s.core u).seq.pc
  match s.xlate u 0 .fetch false pc with
  | .error st => .error (trapXlate true st pc)
  | .ok tg => if !tg.attr.cached then .error (trapAt 0x08 pc) else .ok (bytesBV 64 (view s u 0 tg.pa 8))

/-- The sequencer of core `u` issues one block word (R25, R155). -/
def wordTurn (s : State) (u : Nat) : Out :=
  if numCores ≤ u then .fault .noSuchCore
  else if !seqReady s u || coreOff s u then .next s
  else checked s u none fun s =>
    let s := s.setCur ⟨u, 0⟩
    let pc := (s.core u).seq.pc
    match fetchBlk s u with
    | .error t => .next (if t.later then s else wordFault s t)
    | .ok w =>
      let s := s.fillPage u 0 pc
      if wordPending s u (blkInstr w) then .next s else countLane u pc (blkInstr w) (exec (blkInstr w) (markWordRegs s u (blkInstr w)))

/-! ## Events -/

/-- The steps of the table that are not instruction words. -/
def isEvent (i : Instr) : Bool :=
  match encode i with
  | .ctl _ => false
  | .blk _ => false
  | .none =>
    match i with
    | .illegalEncoding _ => false
    | _ => true

/-- An event of the table happens. -/
def eventTurn (s : State) (i : Instr) : Out := if isEvent i then exec i s else .fault .notAnEvent

/-- One turn. -/
def turn (s : State) (t : Turn) : Out :=
  match t with
  | .cycle u => cycleTurn s u
  | .word u => wordTurn s u
  | .event i => eventTurn s i

/-- Time passes (R4). -/
def passTime (dt : Nat) (o : Out) : Out :=
  match o with
  | .next s => .next { s with now := s.now + dt }
  | .fault f => .fault f
  | .refused r => .refused r

/-- The next turn, and the state that has taken it off the agenda. -/
def nextSlot (s : State) : Slot × State :=
  match s.agenda with
  | [] => (Config.schedule s.fresh, s.tick)
  | x :: rest => (x, { s with agenda := rest })

/-! ## Placing an instruction (log entry 8) -/

/-- Where `placeWord` puts the word: an address that a TLB entry of core 0 maps to itself. -/
def placeVa : Nat := 0x40000

/-- The translation of that page. -/
def placeTlb : TlbEntry := ⟨0, 18, placeVa / 2 ^ 18, placeVa / 2 ^ 18, .cacheable, false, true, true⟩

/-- A strand stands on core 0 of ring 0, with its pc, or its sequencer's, at the word, and the next
turn is that core's, or its sequencer's. It stands for bring-up, the host's set-up of partition 0 and
the launch of a task (log entry 8). -/
def placeWord (s : State) (nbits w : Nat) : State :=
  let bytes := leBytes (nbits / 8) w
  let s := s.setMem (s.mem.writeN placeVa bytes)
  let s := s.modPkg fun p => { p with phase := 6 }
  let s := s.modRing 0 fun r => { r with own := 0x10 }
  let s := s.modPart 0 fun p => { p with ptbase := 1 }
  let s := s.setStrand 0 { part := 0, node := (0, 8192), size := 1, at_ := 0, flags := 0, subcnt := 0, region := none, ended := false, saving := none }
  let entry : Fetch := ⟨BitVec.ofNat 64 placeVa, 16, 64, 0, (s.ctx 0 0).x, 0, 0⟩
  let s := s.modCore 0 fun c =>
    { c with
      strand := some 0, tlb := placeTlb :: c.tlb, rot := [], lastCtx := none, run := 0
      ctxs := vset c.ctxs 0 { c.ctx 0 with resident := true, stopped := false, stall := .none, pc := BitVec.ofNat 64 placeVa }
      seq := if nbits = 64 then { c.seq with fq := [entry], active := true, pc := BitVec.ofNat 64 placeVa, fault := .none, frozen := false } else c.seq }
  { s with agenda := [⟨1, if nbits = 64 then .word 0 else .cycle 0⟩] }

end Sys2Proof.Machine
end

