-- ==== Sys2Proof/Machine/Step.lean ====
section
/-!
DEFINITION. One step of the package: the next turn is taken, and time passes.
-/
namespace Sys2Proof.Machine

/-- One turn of one agent. -/
def step (s : State) : Host.Outcome State Fault Refusal :=
  let (x, s) := nextSlot s
  passTime x.dt (turn s x.turn)

/-- The state with this word where the next step fetches an instruction. -/
def State.withFetchWord (s : State) (nbits w : Nat) : State := placeWord s nbits w

end Sys2Proof.Machine
end

