-- ==== Sys2Proof/Safety.lean ====
section
/-!
DEFINITION. What claims count as a safe run, and the terms in which claims speak of one step: when a
context may issue, what a completed instruction has written, and what it has left alone.
-/
namespace Sys2Proof.Machine

/-! ## Runs -/

/-- The invariant of memory: device and host memory are in canonical form. -/
def State.memOk (s : State) : Prop := s.mem.wf = true

/-- A step that answers a next state. -/
def StepsTo (s t : State) : Prop := step s = .next t

/-- A run of steps that all answer a next state. -/
inductive Reaches : State → State → Prop where
  | refl (s : State) : Reaches s s
  | tail {s t r : State} : Reaches s t → StepsTo t r → Reaches s r

/-! ## When a context may issue -/

/-- None of these source registers holds a carried value that has not arrived (R44), and the
destination is not the induction register of an open region (R41). -/
structure Ready (s : State) (srcs : List Reg) (dst : Option Reg) : Prop where
  ctx : s.cur.ctx < 8
  arrived : pendingSrc s srcs = none
  free : ∀ d ∈ dst, isOpenInd s d = false

/-- The issuing context is the strand context of a compute core and is not in trap mode (R12, R322). -/
structure InStrand (s : State) : Prop where
  ctx : s.cur.ctx = 0
  core : isMgmt s.cur.unit = false
  trap : s.me.trap = .none

/-- The issuing context is not a leg of a FORK region that still has to commit, so that a held action
goes on at once (R56, R59). -/
structure Unheld (s : State) : Prop where
  runner : s.speculative s.cur.unit s.cur.ctx = false
  plain : s.versioned s.cur.unit s.cur.ctx = false

/-- The issuing context runs no leg of a region, and its nest stack is empty: it may issue anything that
its mode allows. -/
structure Plain (s : State) : Prop where
  ctx : s.cur.ctx < 8
  leg : s.inLeg s.cur.unit s.cur.ctx = false
  nest : s.me.nest = []

/-! ## What an instruction leaves alone -/

/-- A leg without the marks that reading and writing registers leaves (R44). -/
def Leg.unmarked (l : Leg) : Leg := { l with read := 0, written := 0, pending := 0 }

/-- Every queue is as it was but for the time at which its watchdog last saw a retirement (R298). -/
def QueuesKept (s t : State) : Prop := ∀ q, { t.queue q with wdBase := 0 } = { s.queue q with wdBase := 0 }

/-- Outside the contexts and the leg's marks the issuing core is as it was. -/
def CoreKept (x y : Core) : Prop :=
  { y with ctxs := x.ctxs, leg := x.leg } = x ∧ y.leg.map Leg.unmarked = x.leg.map Leg.unmarked

/-- Nothing outside the issuing context has changed but the marks of its leg and its queue's watchdog:
no byte of memory, no pending store, no other context, no vector, special or shared register. -/
structure OthersKept (s t : State) : Prop where
  mem : t.mem = s.mem
  fab : t.fab = s.fab
  dies : t.dies = s.dies
  rings : t.rings = s.rings
  slots : t.slots = s.slots
  parts : t.parts = s.parts
  strands : t.strands = s.strands
  pkg : t.pkg = s.pkg
  now : t.now = s.now
  cur : t.cur = s.cur
  queues : QueuesKept s t
  cores : ∀ u, u ≠ s.cur.unit → t.core u = s.core u
  ctxs : ∀ c, c ≠ s.cur.ctx → t.ctx s.cur.unit c = s.ctx s.cur.unit c
  here : CoreKept s.here t.here

/-- Of a context, only the pc, the X registers, the stall reason, the mark of a deferred trap and the time of
its last retirement may have changed. -/
def CtxKept (x y : Ctx) : Prop :=
  { y with pc := x.pc, x := x.x, stall := x.stall, deferred := x.deferred, lastRetire := x.lastRetire } = x

/-- The issuing context goes on at `pc` with nothing to wait for. -/
structure GoesOn (t : State) (pc : Word) : Prop where
  pc : t.me.pc = pc
  ready : t.me.stall = none

/-- The X registers after a write of `rd`: a write of X0 is discarded (R68). -/
def RegsAfter (s t : State) (rd : Reg) (v : Word) : Prop :=
  ∀ r, t.me.reg r = if r = rd.toNat ∧ r ≠ 0 then v else s.me.reg r

/-- No X register of the issuing context has changed. -/
def RegsKept (s t : State) : Prop := ∀ r, t.me.reg r = s.me.reg r

/-- The whole effect of an instruction that writes one X register and goes on at `pc`. -/
structure WroteReg (s t : State) (rd : Reg) (v pc : Word) : Prop where
  on : GoesOn t pc
  regs : RegsAfter s t rd v
  ctx : CtxKept s.me t.me
  others : OthersKept s t

/-- The whole effect of an instruction that only goes on at `pc`. -/
structure WentOn (s t : State) (pc : Word) : Prop where
  on : GoesOn t pc
  regs : RegsKept s t
  ctx : CtxKept s.me t.me
  others : OthersKept s t

/-- The issuing context of a state goes on at A + 4 (R164). What that changes is said by `WentOn`. -/
def goOn (s : State) : State := finish s (.done s)

/-- The issuing context of a state goes on at `pc`. -/
def goTo (s : State) (pc : Word) : State := finish s (.jump s pc)

/-- The instruction stalls its context (R21, R165). -/
def stalls (s : State) (w : Stall) : State := finish s (.stall w s)

/-- The instruction raises a trap in its context (R164, R320). -/
def traps (s : State) (t : TrapInfo) : State := raise s s.cur.unit s.cur.ctx t

/-! ## Tables of instructions of one shape, with what each computes -/

/-- The ALU instructions of two sources (R166, R167). -/
def aluTwo : List ((Reg → Reg → Reg → Bool → Bool → Bool → Instr) × (Word → Word → Word)) :=
  [(.add, fun a b => a + b), (.sub, fun a b => a - b), (.and_, fun a b => a &&& b), (.or_, fun a b => a ||| b),
   (.xor, fun a b => a ^^^ b), (.andn, fun a b => a &&& ~~~b), (.shl, fun a b => a <<< (b.toNat % 64)),
   (.shr, fun a b => a >>> (b.toNat % 64)), (.sar, fun a b => a.sshiftRight (b.toNat % 64)),
   (.rol, fun a b => a.rotateLeft (b.toNat % 64)), (.mul, fun a b => a * b), (.mulh, mulHigh), (.mulhn, mulHighN),
   (.div, divS), (.divn, divN), (.rem, remS), (.remn, remN),
   (.min, fun a b => if a.slt b then a else b), (.max, fun a b => if a.slt b then b else a),
   (.minn, fun a b => if a.ult b then a else b), (.maxn, fun a b => if a.ult b then b else a),
   (.cmpeq, fun a b => if a = b then 1 else 0), (.cmplt, fun a b => if a.slt b then 1 else 0),
   (.cmpltn, fun a b => if a.ult b then 1 else 0)]

/-- The ALU instructions of one source (R166). -/
def aluOne : List ((Reg → Reg → Bool → Bool → Instr) × (Word → Word)) :=
  [(.clz, fun a => BitVec.ofNat 64 (clz 64 a.toNat)), (.ctz, fun a => BitVec.ofNat 64 (ctz 64 a.toNat)),
   (.popc, fun a => BitVec.ofNat 64 (popc 64 a.toNat)), (.bswap, bswap64),
   (fun d a p q => .sext d a p q 0, fun a => (a.setWidth 8).signExtend 64),
   (fun d a p q => .sext d a p q 1, fun a => (a.setWidth 16).signExtend 64),
   (fun d a p q => .sext d a p q 2, fun a => (a.setWidth 32).signExtend 64),
   (fun d a p q => .zext d a p q 0, fun a => (a.setWidth 8).setWidth 64),
   (fun d a p q => .zext d a p q 1, fun a => (a.setWidth 16).setWidth 64),
   (fun d a p q => .zext d a p q 2, fun a => (a.setWidth 32).setWidth 64)]

/-- The immediate forms of R169 that take a 16-bit immediate, and those that take a shift count. -/
def immForms : List ((Reg → Reg → BitVec 16 → Instr) × (Word → BitVec 16 → Word)) :=
  [(.addi, fun a i => a + i.signExtend 64), (.andi, fun a i => a &&& i.setWidth 64), (.ori, fun a i => a ||| i.setWidth 64),
   (.xori, fun a i => a ^^^ i.setWidth 64), (.cmplti, fun a i => if a.slt (i.signExtend 64) then 1 else 0)]
def shiftForms : List ((Reg → Reg → BitVec 6 → Instr) × (Word → Nat → Word)) :=
  [(.shli, fun a n => a <<< n), (.shri, fun a n => a >>> n), (.sari, fun a n => a.sshiftRight n)]

/-- The scalar loads (R170): size code and extension. -/
def loadForms : List ((Reg → Reg → BitVec 14 → Instr) × Nat × (Nat → Word)) :=
  [(.ldb, 0, sext 8), (.ldh, 1, sext 16), (.ldw, 2, sext 32), (.ldd, 3, sext 64), (.ldbn, 0, zext 8), (.ldhn, 1, zext 16),
   (.ldwn, 2, zext 32)]
/-- The scalar stores (R170): size code. -/
def storeForms : List ((Reg → Reg → BitVec 14 → Instr) × Nat) := [(.stb, 0), (.sth, 1), (.stw, 2), (.std, 3)]

/-- The AMO family (R173): operation code, and what an operation that writes leaves in memory from the old
value and Xb. -/
def amoForms : List ((Reg → Reg → Reg → BitVec 3 → Instr) × Nat × (Word → Word → Word)) :=
  [(.amoadd, 0, fun o b => o + b), (.amoswp, 1, fun _ b => b), (.amomin, 3, fun o b => if o.slt b then o else b),
   (.amomax, 4, fun o b => if o.slt b then b else o), (.amominn, 5, fun o b => if o.ult b then o else b),
   (.amomaxn, 6, fun o b => if o.ult b then b else o), (.amoand, 7, fun o b => o &&& b), (.amoor, 8, fun o b => o ||| b),
   (.amoxor, 9, fun o b => o ^^^ b)]

/-- The conditional branches (R174). -/
def branchForms : List ((Reg → Reg → BitVec 15 → Instr) × (Word → Word → Prop)) :=
  [(.beq, fun a b => a = b), (.bne, fun a b => a ≠ b), (.blt, fun a b => a.toInt < b.toInt), (.bltn, fun a b => a.toNat < b.toNat),
   (.bge, fun a b => b.toInt ≤ a.toInt), (.bgen, fun a b => b.toNat ≤ a.toNat)]

/-- The results of R167 for a dividend and a divisor: quotient and remainder, signed and unsigned. -/
structure Division (a b q r qn rn : Word) : Prop where
  zero : b = 0 → q = BitVec.allOnes 64 ∧ qn = BitVec.allOnes 64 ∧ r = a ∧ rn = a
  least : a = 0x8000_0000_0000_0000#64 → b = BitVec.allOnes 64 → q = a ∧ r = 0
  signed : b ≠ 0 → ¬(a = 0x8000_0000_0000_0000#64 ∧ b = BitVec.allOnes 64) →
    a.toInt = q.toInt * b.toInt + r.toInt ∧ r.toInt.natAbs < b.toInt.natAbs
  unsigned : b ≠ 0 → a.toNat = qn.toNat * b.toNat + rn.toNat ∧ rn.toNat < b.toNat

/-! ## Accesses to memory -/

/-- The state of an access of the issuing context once its page is in the TLBs (R307). -/
def paged (s : State) (va : Word) : State := s.fillPage s.cur.unit s.cur.ctx va

/-- The context reads these bytes without an uncorrectable error (R340). -/
abbrev CleanAt (s : State) (u c pa n : Nat) : Prop := ∀ i < n, badByte s u c (pa + i) = false

/-- A load of `n` bytes finds its data at `tg` without a stall (R106, R123, R141, R340, R344). -/
structure LoadAt (s : State) (n : Nat) (tg : Target) : Prop where
  blocks : s.blockWait s.cur.unit s.cur.ctx tg n = false
  inside : insideOver s s.cur.unit s.cur.ctx allEarlier tg n = false
  settled : loadWaits s s.cur.unit s.cur.ctx tg.pa n = false
  device : tg.attr = .device → s.devicePending s.cur.unit s.cur.ctx allEarlier = false
  present : tg.attr.cached = true → s.cacheBarred s.cur.unit = false ∧ (s.cacheOff s.cur.unit = false →
    (s.here.lines.any fun x => x.live (tg.pa / 64) s.time) = true) ∧ (s.cacheOff s.cur.unit = true →
    (leaseFor s s.cur.unit (tg.pa / 64) (s.issuePart s.cur.unit s.cur.ctx)).isSome = true)
  clean : CleanAt s s.cur.unit s.cur.ctx tg.pa n

/-- A load of `n` bytes at `va` finds its data at `tg` without a trap or a stall (R170). -/
structure LoadReady (s : State) (va : Word) (n : Nat) (tg : Target) : Prop where
  aligned : va.toNat % n = 0
  target : s.xlate s.cur.unit s.cur.ctx .load false va = .ok tg
  found : LoadAt (paged s va) n tg

/-- The line has been used, for replacement (R106); with the leg cache gated its lease has been taken (R111). -/
def usedLine (s : State) (tg : Target) : State :=
  if tg.attr.cached = false then s
  else if s.cacheOff s.cur.unit then
    ((leaseFor s s.cur.unit (tg.pa / 64) (s.issuePart s.cur.unit s.cur.ctx)).map (·.2)).getD s
  else touchLine s s.cur.unit (tg.pa / 64)

/-- What a load leaves beside its register: the use of the line, and the note that it has read stores of
other contexts of its core (R106, R129). -/
def loadNoted (s : State) (n : Nat) (tg : Target) : State := markRead (usedLine s tg) s.cur.unit s.cur.ctx tg.pa n

/-- No byte that a context sees has changed, and no byte of memory. -/
structure BytesKept (s t : State) : Prop where
  mem : t.mem = s.mem
  view : ∀ u c a, viewByte t u c a = viewByte s u c a

/-- The leg cache owns the line of a cacheable store, or has no power (R106, R110, R344). -/
def Owned (s : State) (tg : Target) : Prop :=
  tg.attr.cached = true → s.cacheBarred s.cur.unit = false ∧ (s.cacheOff s.cur.unit = false → s.owns s.cur.unit (tg.pa / 64) = true)

/-- A store of `bytes` at `va` is made at `tg` without a trap or a stall. -/
structure StoreReady (s : State) (va : Word) (bytes : List Byte) (tg : Target) : Prop where
  aligned : va.toNat % bytes.length = 0
  target : s.xlate s.cur.unit s.cur.ctx .store true va = .ok tg
  blocks : (paged s va).blockWait s.cur.unit s.cur.ctx tg bytes.length = false
  inside : insideOver (paged s va) s.cur.unit s.cur.ctx allEarlier tg bytes.length = false
  copies : copyReads s s.cur.unit s.cur.ctx allEarlier tg.pa bytes.length = false
  device : tg.attr = .device → deviceTransfer (paged s va) s.cur.unit s.cur.ctx allEarlier = false
  owned : Owned s tg

/-- The pending store that a scalar store makes (R120). -/
def scalarEntry (s : State) (va : Word) (tg : Target) (locked : Bool) (bytes : List Byte) : PStore :=
  { unit := s.cur.unit, ctx := s.cur.ctx, path := .scalar, pa := tg.pa, bytes := bytes,
    part := s.issuePart s.cur.unit s.cur.ctx, epoch := s.me.epoch, owner := s.ownerOf s.cur.unit s.cur.ctx,
    cached := tg.attr.cached, locked := locked, et := tg.attr == .errorTolerant, readers := [], rel := [],
    tag := (s.part (s.issuePart s.cur.unit s.cur.ctx)).tag, va := va, add := none, inst := 0, dev := tg.attr == .device }

/-- The line of a store is in state M, with its last writer (R106, R343). -/
def ownedLine (s : State) (tg : Target) : State :=
  if s.cacheOff s.cur.unit then s else ownLine s s.cur.unit s.cur.ctx (tg.pa / 64)

/-- What a scalar store leaves: the line owned, the store pending, and its broadcast in a leg (R51, R106). -/
def storeNoted (s : State) (va : Word) (tg : Target) (locked : Bool) (bytes : List Byte) : State :=
  if tg.attr.cached then
    let r := pushStore (ownedLine s tg) (scalarEntry s va tg locked bytes)
    if s.inLeg s.cur.unit s.cur.ctx then broadcast r s.cur.unit (sectorsOf tg.pa bytes.length) else r
  else pushStore s (scalarEntry s va tg locked bytes)

/-- The state in which an AMO reads: a release and an acquire of its location (R128). -/
def synced (s : State) (va : Word) (tg : Target) : State :=
  markAcquire (markRelease (paged s va) s.cur.unit s.cur.ctx tg.pa) s.cur.unit s.cur.ctx tg.pa

/-- An AMO of scope `scope` at `va` passes its checks and is ordered (R127, R129, R173, R261). -/
structure AmoReady (s : State) (va : Word) (scope : BitVec 3) (tg : Target) : Prop where
  aligned : va.toNat % 8 = 0
  target : s.xlate s.cur.unit s.cur.ctx .store true va = .ok tg
  memory : tg.attr ≠ .device
  error : scope = 4 → remotePending s = false
  ordered : orderedAt (paged s va) scope = true
  copies : copyReads (paged s va) s.cur.unit s.cur.ctx allEarlier tg.pa 8 = false

/-- It is performed at the home: nothing of the context's own stands before it there, the write may be
performed now, and the doubleword is clean (R112, R130). The line of a host address is owned first (R120). -/
structure AmoAtHome (s : State) (scope : BitVec 3) (tg : Target) : Prop where
  home : scope ≠ 0 ∨ tg.attr.cached = false ∨ s.cacheOff s.cur.unit = true
  own : ownPendOver s tg 8 = false
  owned : isHost tg.pa = true → Owned s tg
  writable : s.writable (tg.pa / 64) = true
  clean : s.fab.poison.contains (tg.pa / 16) = false

/-- It is performed in the leg cache, which owns the line (R130). -/
structure AmoInCache (s : State) (tg : Target) : Prop where
  cached : tg.attr.cached = true
  powered : s.cacheOff s.cur.unit = false
  alone : ((corePerformed s.fab.pend).any fun x => x.1.pa / 64 == tg.pa / 64 &&
    (x.1.unit != s.cur.unit || !x.1.cached || x.1.add.isSome || !x.1.seenBy x.2 s.cur.unit s.cur.ctx (s.ownerOf s.cur.unit s.cur.ctx))) = false
  owned : s.owns s.cur.unit (tg.pa / 64) = true
  found : LoadAt s 8 tg

/-- The state in which an AMO is performed at the home (R106, R120). -/
def homeOwned (s : State) (tg : Target) : State := if isHost tg.pa && tg.attr.cached then ownedLine s tg else s
/-- The doubleword at its home, and the write of an AMO there. -/
def homeDouble (s : State) (tg : Target) : Word := BitVec.ofNat 64 (s.mem.readLe tg.pa 8)
def amoWritten (s : State) (tg : Target) (w : Word) : State :=
  let r := homeWrite s (some s.cur.unit) (if s.cur.ctx = 0 then s.here.strand else none) (s.issuePart s.cur.unit s.cur.ctx)
    tg.attr tg.pa (bvBytes 8 w)
  if s.inLeg s.cur.unit s.cur.ctx then broadcast r s.cur.unit (sectorsOf tg.pa 8) else r

/-- The doubleword that a context sees. -/
def seenDouble (s : State) (tg : Target) : Word := bytesBV 64 (view s s.cur.unit s.cur.ctx tg.pa 8)

/-- A scratchpad access of `n` bytes at offset `o` passes its checks (R107, R171, R186). -/
structure SpReady (s : State) (o : Word) (n : Nat) : Prop where
  aligned : o.toNat % n = 0
  range : spCheck s.here o.toNat n = none
  lock : s.here.spLocked s.cur.ctx o.toNat n = false
  blocks : s.padWait s.cur.unit s.cur.ctx = false

/-! ## Control of legs and blocks -/

/-- The issuing context is the strand context of strand `h`, whose record is `x`, outside a region. -/
structure Outside (s : State) (h : Nat) (x : Strand) : Prop where
  plain : Plain s
  context : InStrand s
  owner : s.here.strand = some h
  strand : s.strand? h = some x

/-- It is leg `l` of region `r` of strand `h`, and may issue. -/
structure InLeg (s : State) (h : Nat) (r : Region) (l : Leg) : Prop where
  context : InStrand s
  owner : s.here.strand = some h
  region : s.regionOf s.cur.unit = some r
  leg : s.here.leg = some l

/-- The operands and the JOIN of a FORK pass their checks (R41, R176, R177). -/
structure ForkOk (s : State) (indep : Bool) (xind xstep : Reg) (joinPc : Word) (tg : Target) : Prop where
  target : s.xlate s.cur.unit 0 .fetch false joinPc = .ok tg
  cached : tg.attr.cached = true
  operands : forkOperandsBad s indep xind (X s xstep) = false
  closes : bytesBV 32 (view s s.cur.unit 0 tg.pa 4) = joinWord

/-- FORK and FORKI, with the flag of FORKI. -/
def forkForms : List ((Reg → Reg → Reg → BitVec 11 → Instr) × Bool) := [(.fork, false), (.forki, true)]

/-- The instructions that are illegal outside a strand context that is not in trap mode, whatever their operands
(R12, R322); of VFETCH, VFETCHX, FORK and FORKI the fault of a target address comes first (R315). -/
inductive StrandOnly (s : State) : Instr → Prop where
  | join : StrandOnly s .join
  | bar : StrandOnly s .bar
  | vwait : StrandOnly s .vwait
  | bsend (xa : Reg) : StrandOnly s (.bsend xa)
  | rdreply (xd : Reg) : StrandOnly s (.rdreply xd)
  | vfetch (off : BitVec 26) : (inHandler s = true → (s.me.pc + off.signExtend 64 <<< 2).toNat % 8 = 0) → StrandOnly s (.vfetch off)
  | vfetchx (xa : Reg) : (inHandler s = true → (X s xa).toNat % 8 = 0) → StrandOnly s (.vfetchx xa)
  | fork (a b c : Reg) (fn : BitVec 11) :
    (inHandler s = true → ∃ tg, s.xlate s.cur.unit 0 .fetch false (s.me.pc + 4 * fn.setWidth 64) = .ok tg) → StrandOnly s (.fork a b c fn)
  | forki (a b c : Reg) (fn : BitVec 11) :
    (inHandler s = true → ∃ tg, s.xlate s.cur.unit 0 .fetch false (s.me.pc + 4 * fn.setWidth 64) = .ok tg) → StrandOnly s (.forki a b c fn)

/-- The context waits for nothing of its blocks: VWAIT's condition (R181). -/
def Idle (s : State) : Prop := s.blocksDone s.cur.unit s.cur.ctx = true

/-- A write of one user state register leaves the others: the state that GETS reads, number by number. -/
def readsAs (s t : State) (n : Nat) (v : Word) : Prop :=
  readUser t n = v ∧ ∀ m < 256, isUserReg m = true → m ≠ n → readUser t m = readUser s m

/-! ## Messages and tasks -/

/-- A descriptor of `n` doublewords at `va` can be read: its doublewords are `l`, and `s1` is the state in
which the reads leave the machine (R170). -/
structure Described (s : State) (va : Word) (n : Nat) (l : List Word) (s1 : State) : Prop where
  aligned : va.toNat % (8 * n) = 0
  words : readWords s va n = .ok (l, s1)

/-- The scheduler of a core's die can take a task image of partition `p` now (R291, R292). -/
structure SpawnOk (s : State) (p : Nat) (i : Image) : Prop where
  image : imageOk s p i = true
  placing : s.placing p = true
  room : nodeRoom s (dieOf s.cur.unit) i.ranges = true
  links : linksFree s (some (dieOf s.cur.unit)) (predsOf s p (some i.queueNo) i.ranges i.preds) = true

/-- The issuing context has sent the task `h` to the order point, and the task has had its turn there (R293). -/
def Spawned (s : State) (h : Word) : Prop := s.me.spawning = some h ∧ s.spawnWaits h = false

/-- A message of a core's inbound queue that can start, with its priority (R32). -/
def StartableAt (c : Core) (k p : Nat) : Prop := ∃ m, c.inq[k]? = some m ∧ startPrio c m = some p

/-- A node of a partition that is ready, and the span that it would take (R294). -/
def FitsAt (s : State) (p : Nat) (x : Nat × Nat × Node) (c : Nat) : Prop :=
  x ∈ (s.dies.flatMap fun (d, y) => y.nodes.filterMap fun (k, n) =>
    if n.part = p && n.st == .ready then some (d, k, n) else none) ∧ findSpan s p x.1 x.2.2.size = some c

/-! ## Copies, remote operations and collectives -/

/-- The index list of a gather, and the scratchpad ranges that a copy touches (R257). -/
def gatherIndex (s : State) (gather : Bool) (i : CopyImage) : List (BitVec 32) :=
  if gather then (upTo (i.dims.getD 1 (0, 0, 0)).1).map fun r =>
    BitVec.ofNat 32 (bytesBV 32 (spRead s.here (s.spOwn s.cur.unit s.cur.ctx) (i.idx.toNat + 4 * r) 4)).toNat
  else []
def indexSide (s : State) (gather : Bool) (i : CopyImage) : List (Nat × Option (Int × Int)) :=
  if gather then [(s.cur.unit, some ((i.idx.toNat : Int), (i.idx.toNat : Int) + 4 * (i.dims.getD 1 (0, 0, 0)).1 - 1))] else []
def copySides (s : State) (gather : Bool) (i : CopyImage) : List (Nat × Option (Int × Int)) :=
  indexSide s gather i ++ spSides s.cur.unit i gather (gatherIndex s gather i)

/-- The image of a copy at the offset in Xa lies in the scratchpad, is clean, and passes every check (R257). -/
structure CopyOk (s : State) (gather : Bool) (xa : Reg) (i : CopyImage) : Prop where
  image : i = CopyImage.read s.here (s.spOwn s.cur.unit s.cur.ctx) (X s xa).toNat
  aligned : (X s xa).toNat % 32 = 0
  inside : spCheck s.here (X s xa).toNat (32 + 24 * (bits i.ctrl 4 4 + 1)) = none
  clean : spReadBad s.here (s.spOwn s.cur.unit s.cur.ctx) (X s xa).toNat (32 + 24 * i.dims.length) = false
  fields : imageBad s gather i = false
  multiples : imageMisaligned gather i = false
  range : ((copySides s gather i).any fun x => beyondSp x.2) = false
  snaps : ((copySides s gather i).any fun x => meetsSnaps (s.core x.1) x.2) = false
  blocks : s.padWait s.cur.unit s.cur.ctx = false
  slot : s.here.copies.length < 16
  pred : i.pred = 0 ∨ s.blocksDone s.cur.unit s.cur.ctx = true
  aborted : abortedTrap s s.cur.unit s.cur.ctx = none

/-- RTCOPY and RTGATH. -/
def copyForms : List ((Reg → Reg → Instr) × Bool) := [(.rtcopy, false), (.rtgath, true)]

/-- The RAMO family: operation code, and what each writes from the old value and Xb (R173, R260). -/
def ramoForms : List ((Reg → Reg → Reg → Instr) × BitVec 4 × (Word → Word → Word)) :=
  [(.ramoadd, 0, fun o b => o + b), (.ramoswp, 1, fun _ b => b), (.ramomin, 3, fun o b => if o.slt b then o else b),
   (.ramomax, 4, fun o b => if o.slt b then b else o), (.ramominn, 5, fun o b => if o.ult b then o else b),
   (.ramomaxn, 6, fun o b => if o.ult b then b else o), (.ramoand, 7, fun o b => o &&& b), (.ramoor, 8, fun o b => o ||| b),
   (.ramoxor, 9, fun o b => o ^^^ b)]

/-- The address pair of a remote operation of `n` bytes passes its checks (R260). -/
structure PairBits (s : State) (xa : Reg) (n : Nat) : Prop where
  address : zeroBits (X s xa) 56 8 = true
  package : zeroBits (X s (pairReg xa)) 10 54 = true
  aligned : (X s xa).toNat % n = 0

/-- And the partition has a POD (R334). -/
structure PairOk (s : State) (xa : Reg) (n : Nat) (pod : BitVec 4) : Prop where
  bits : PairBits s xa n
  pod : podOf s s.cur.unit s.cur.ctx = some pod

/-- No reply has arrived, and no earlier remote operation of the context waits for one. -/
def NoReply (s : State) : Prop := s.me.reply = none ∧ (s.me.rops.any fun r => !r.store) = false

/-- It names this package, and `n` bytes at its address stand at `tg`, which nothing keeps back (R114, R142). -/
structure PairHere (s : State) (xa : Reg) (n : Nat) (write : Bool) (tg : Target) : Prop where
  here : (X s (pairReg xa)).toNat = s.pkg.id
  target : s.deviceXlate (s.issuePart s.cur.unit s.cur.ctx) write (X s xa) = .ok tg
  fault : faultOpen s (.own s.cur.unit s.cur.ctx) = false
  inside : insideBusy s s.cur.unit s.cur.ctx = false
  own : ownPendOver s tg n = false
  device : tg.attr = .device → s.devicePending s.cur.unit s.cur.ctx allEarlier = false
  blocks : s.blockWait s.cur.unit s.cur.ctx tg n = false
  copies : write = true → copyReads s s.cur.unit s.cur.ctx allEarlier tg.pa n = false

/-- What the members of a collective's list brought, by member index: those here, and of a group of packages those
elsewhere; `none` of a member that cannot be reached (R262, R365). -/
structure PartsAre (k : Coll) (here : List (Nat × Nat × Coll)) (others : List (Nat × Option (Word × List Byte)))
    (parts : List (Option (Word × List Byte))) : Prop where
  length : parts.length = k.members.length
  each : ∀ i id, k.members[i]? = some id →
    (∀ x, memberNamed here id = some x → parts[i]? = some (some (x.2.2.word, x.2.2.data))) ∧
    (memberNamed here id = none → k.pkg = true ∧
      ∃ x, others.find? (fun x => x.1 == i) = some x ∧ parts[i]? = some (x.2.map fun y => (agreeWord y.1, y.2)))

/-- Every check of a COLL on its group: `ids` are the members, `data` what this member brings, and `s3` the
state that reading them leaves (R262, R335, R365). -/
structure CollOk (s1 : State) (scope : BitVec 3) (d : CollDesc) (ids : List Nat) (data : List Byte) (s3 : State) : Prop where
  fields : d.bad = false
  entry : d.group < 64
  enabled : (grpctlOf s1 (s1.issuePart s1.cur.unit s1.cur.ctx) d.group).getLsbD 63 = true
  scope : 3 ≤ scope.toNat ∧ ((grpctlOf s1 (s1.issuePart s1.cur.unit s1.cur.ctx) d.group).getLsbD 62 = true → scope = 4)
  fits : d.misfit (bits (grpctlOf s1 (s1.issuePart s1.cur.unit s1.cur.ctx) d.group) 0 10 + 1) = false
  list : ∃ l s2, readWords s1 (grplistOf s1 (s1.issuePart s1.cur.unit s1.cur.ctx) d.group &&& 0x00FF_FFFF_FFFF_FFC0#64)
      (ceilDiv (bits (grpctlOf s1 (s1.issuePart s1.cur.unit s1.cur.ctx) d.group) 0 10 + 1) 4) = .ok (l, s2) ∧
    ids = memberIds l (bits (grpctlOf s1 (s1.issuePart s1.cur.unit s1.cur.ctx) d.group) 0 10 + 1) ∧
    (let pkg := (grpctlOf s1 (s1.issuePart s1.cur.unit s1.cur.ctx) d.group).getLsbD 62
     let me := if pkg then s2.pkg.id else s2.cur.unit
     let ns := if d.brings ((listIndex (· == me) ids).getD 0) then d.count else 0
     membersOk s2 pkg me ids = true ∧ dataFault s2 d.src d.dst d.size ns (d.dstCount ids.length) = none ∧
     (pkg = true → podTrap s2 d ids = none) ∧ ((streamColls s2).filter fun k => !k.done).length < 4 ∧
     readSource s2 d.src d.size ns = .ok (data, s3))

/-! ## Vector words -/

/-- The operands of a block word pass the checks of R70 and R71, the shape has at most 16 rows, and no active
element of a source lies in a poisoned group (R69, R75). -/
structure WordReady (s : State) (f : BlockFields) (tys : List (BitVec 5)) (srcs : List (BitVec 5 × BitVec 5)) : Prop where
  shape : shapeTrap (blockShape s f) tys = false
  rows : (blockShape s f).rows ≤ 16
  clean : poisoned s.vc (blockShape s f) srcs (active s.vc f f.ty) = false

/-- Nothing of the word at the sequencer has been done in an earlier turn, and it runs to its end in this one (R103,
R196, R231). -/
structure WholeWord (s : State) : Prop where
  turn : s.here.seq.stop = none
  steps : s.here.seq.step = 0
  parts : s.here.seq.red = none

/-- The sequencer after a word that has completed: the next word, of which nothing has been done. -/
def seqOn (q : Seqr) : Seqr := { q with pc := q.pc + 8, answered := [], refused := [], stop := none, step := 0, red := none, idx := none }

/-- The state after a block word that has changed the core's vector context alone: the sequencer goes on. -/
def wordOn (s : State) : State := setWordPc s (s.here.seq.pc + 8)
def WordKept (s t : State) : Prop := t = wordOn (s.setVc t.vc)

/-- Of a vector context, only register `d`, its poison and its save tags, and FLAGS may have changed. -/
structure VecKept (v w : VCtx) (d : BitVec 5) : Prop where
  others : ∀ r, r ≠ d → w.reg r = v.reg r ∧ w.poi r = v.poi r
  rest : { w with v := v.v, poison := v.poison, vdirty := v.vdirty, validRows := v.validRows, flags := v.flags } = v

/-- Element `j` of a vector register, as the word's operand form and type select it (R69, R71). -/
def laneOf (s : State) (f : BlockFields) (ty : BitVec 5) (r : BitVec 5) (j : Nat) : Nat := elem (s.vc.reg r) (blockShape s f) ty j
/-- The second source of an element: vb's, or the scalar (R194). -/
def secondOf (s : State) (f : BlockFields) (j : Nat) : Nat := second s f s.vc (blockShape s f) j
/-- The word's elements and its active ones (R71, R77). -/
def laneCount (s : State) (f : BlockFields) : Nat := (blockShape s f).count
def laneOn (s : State) (f : BlockFields) (j : Nat) : Bool := active s.vc f f.ty j
/-- The flags that the active elements raise together (R92). -/
def laneFlags (s : State) (f : BlockFields) (fl : Nat → Flags) : Flags :=
  (List.range (laneCount s f)).foldl (fun a j => if laneOn s f j then a ||| fl j else a) 0

/-- A bit of a register lies in no element of the operand. -/
def outside (s : State) (f : BlockFields) (b : Nat) : Prop :=
  ∀ j < laneCount s f, ¬(elemBit f.ty ((blockShape s f).pos j) ≤ b ∧ b < elemBit f.ty ((blockShape s f).pos j) + tyBits f.ty)

/-- The elements of Vd after a word: active ones take `val`, others become zero under zm and otherwise keep their
bits, and no bit outside the operand changes (R195). -/
structure LanesAre (s t : State) (f : BlockFields) (val : Nat → Nat) : Prop where
  lanes : ∀ j < laneCount s f, elem (t.vc.reg f.vd) (blockShape s f) f.ty j =
    if laneOn s f j then val j % 2 ^ tyWidth f.ty else if f.zm then 0 else laneOf s f f.ty f.vd j
  bytes : ∀ b, outside s f b → (t.vc.reg f.vd).getLsbD b = (s.vc.reg f.vd).getLsbD b

/-- The whole effect of an elementwise word: the elements of Vd, the flags, and nothing else. -/
structure WroteVec (s t : State) (f : BlockFields) (val : Nat → Nat) (fl : Nat → Flags) : Prop where
  elems : LanesAre s t f val
  flags : t.vc.flags = s.vc.flags ||| laneFlags s f fl
  vector : VecKept s.vc t.vc f.vd
  rest : WordKept s t

/-- Bits of a predicate after a word over `n` bits: active ones take `res`, others become zero under zm and
otherwise stay, and those from `n` up are zero (R195). -/
def BitsAre (s t : State) (d : BitVec 5) (n : Nat) (zm : Bool) (on res : Nat → Bool) : Prop :=
  ∀ j < 8192, (t.vc.pred d).getLsbD j = (decide (j < n) && if on j then res j else !zm && (s.vc.pred d).getLsbD j)

/-- The whole effect of a word that writes predicate `d`. -/
structure WrotePred (s t : State) (d : BitVec 5) (n : Nat) (zm : Bool) (on res : Nat → Bool) (fl : Flags) : Prop where
  bits : BitsAre s t d n zm on res
  others : ∀ r, r ≠ d → t.vc.pred r = s.vc.pred r
  flags : t.vc.flags = s.vc.flags ||| fl
  vector : { t.vc with p := s.vc.p, pdirty := s.vc.pdirty, flags := s.vc.flags } = s.vc
  rest : WordKept s t

/-- The integer instructions of two sources (R202, R203), on elements of `w` bits; `sg` for signed types. -/
def satS (w : Nat) (i : Int) : BitVec w := BitVec.ofInt w (max (-(2 ^ (w - 1))) (min (2 ^ (w - 1) - 1) i))
def satN (w : Nat) (i : Int) : BitVec w := BitVec.ofInt w (max 0 (min (2 ^ w - 1) i))
def intLanes : List ((BlockFields → Instr) × ((w : Nat) → Bool → BitVec w → BitVec w → BitVec w)) :=
  [(.vadd, fun _ _ a b => a + b), (.vsub, fun _ _ a b => a - b), (.vmul, fun _ _ a b => a * b),
   (.vmulh, fun w sg a b => if sg then (a.signExtend (2 * w) * b.signExtend (2 * w)).extractLsb' w w
      else (a.setWidth (2 * w) * b.setWidth (2 * w)).extractLsb' w w),
   (.vdiv, fun w sg a b => if b = 0 then BitVec.allOnes w else if sg then a.sdiv b else a / b),
   (.vmin, fun _ sg a b => if (if sg then b.slt a else b.ult a) then b else a),
   (.vmax, fun _ sg a b => if (if sg then a.slt b else a.ult b) then b else a),
   (.vand, fun _ _ a b => a &&& b), (.vor, fun _ _ a b => a ||| b), (.vxor, fun _ _ a b => a ^^^ b),
   (.vshl, fun w _ a b => a <<< (b.toNat % w)), (.vshr, fun w _ a b => a >>> (b.toNat % w)),
   (.vsar, fun w _ a b => a.sshiftRight (b.toNat % w)),
   (.vabsd, fun _ sg a b => if (if sg then a.slt b else a.ult b) then b - a else a - b),
   (.vadds, fun w sg a b => if sg then satS w (a.toInt + b.toInt) else satN w (a.toNat + b.toNat)),
   (.vsubs, fun w sg a b => if sg then satS w (a.toInt - b.toInt) else satN w ((a.toNat : Int) - b.toNat))]

/-- An element with its flags: an IEEE input of a floating-point word (R91). -/
def inputOf (s : State) (f : BlockFields) (x : Nat) : FVal × Flags := inValue (ftzOn s) f.ty x
/-- An exact result rounded once into the word's type, with every flag that it has raised (R90, R92). -/
def outputOf (s : State) (f : BlockFields) (fl : Flags) (r : FRes × Flags) : Nat × Flags :=
  let x := (fmtOf f.ty).finish (roundMode s f) (ftzOn s) r.1
  (x.1, fl ||| r.2 ||| x.2)
def fpLanes : List ((BlockFields → Instr) × (RMode → FVal → FVal → FRes × Flags)) :=
  [(.vfadd, fun m a b => exactRes (fAdd m a b)), (.vfsub, fun m a b => exactRes (fAdd m a b.negate)),
   (.vfmul, fun _ a b => exactRes (fMul a b)), (.vfdiv, fun _ a b => fDiv a b)]
def fpOnes : List ((BlockFields → Instr) × (FVal → FRes × Flags)) :=
  [(.vfsqrt, fSqrt), (.vexp2, fExp2), (.vlog2, fLog2), (.vrcp, fDiv (.fin false 1 0))]

/-- Of two values that are no NaN the first is not the greater (R93). -/
def Below (a b : FVal) : Prop :=
  a = .inf true ∨ b = .inf false ∨ ∃ n m e k l g, a = .fin n m e ∧ b = .fin k l g ∧
    ∀ q, q ≤ e → q ≤ g → signedAt q n m e ≤ signedAt q k l g

/-- The predicate instructions that write a predicate (R214): bit `j` of the result over `n` bits. -/
def predLanes : List ((BlockFields → Instr) × (BlockFields → VCtx → Nat → Nat → Bool)) :=
  [(.pand, fun f v _ j => (v.pred f.va).getLsbD j && (v.pred f.vb).getLsbD j),
   (.por, fun f v _ j => (v.pred f.va).getLsbD j || (v.pred f.vb).getLsbD j),
   (.pxor, fun f v _ j => (v.pred f.va).getLsbD j ^^ (v.pred f.vb).getLsbD j),
   (.pnot, fun f v _ j => !(v.pred f.va).getLsbD j), (.pmov, fun f v _ j => (v.pred f.va).getLsbD j),
   (.pbrkb, fun f v _ j => (List.range (j + 1)).all fun i => !(govOn v f i && (v.pred f.va).getLsbD i)),
   (.pbrka, fun f v _ j => (List.range j).all fun i => !(govOn v f i && (v.pred f.va).getLsbD i)),
   (.pshl, fun f v n j => let k := bits f.func 0 8
     if f.func.getLsbD 8 then decide (j + k < n) && (v.pred f.va).getLsbD (j + k) else decide (k ≤ j) && (v.pred f.va).getLsbD (j - k))]

/-- The moves within a core: the checks of each beside those of R70, R71 and R195, and where each destination
unit comes from (R207, R216 to R218). -/
def moveLanes : List ((BlockFields → Instr) × (State → BlockFields → Prop) × (State → BlockFields → Nat → Moved)) :=
  [(.vmov, fun _ _ => True, fun _ _ k => .copy k),
   (.vperm, fun s f => (permShape (blockShape s f) f.ty).bad (permType f.ty) = false ∧
      poisoned s.vc (permShape (blockShape s f) f.ty) [(f.vb, permType f.ty)] (unitOn s.vc f) = false,
    fun s f k => .copy (elem (s.vc.reg f.vb) (permShape (blockShape s f) f.ty) (permType f.ty) k)),
   (.vslide, fun s f => isMx f.ty = true → (xOperand s f).toNat % 32 = 0,
    fun s f k => let d := (xOperand s f).toNat / unitSize f.ty
     if f.func.getLsbD 0 then .copy (k + d) else if d ≤ k then .copy (k - d) else .zero),
   (.vextr, fun _ _ => True, fun s f _ => .copy (xOperand s f).toNat),
   (.vxpose, fun s f => (blockShape s f).rows = (blockShape s f).cols,
    fun s f k => .copy (k % (blockShape s f).cols * (blockShape s f).cols + k / (blockShape s f).cols))]

/-- The checks that every move makes (R70, R71, R195). -/
structure MoveReady (s : State) (f : BlockFields) : Prop where
  shape : shapeTrap (blockShape s f) [f.ty] = false
  rows : (blockShape s f).rows ≤ 16
  blocks : (isMx f.ty && mixedBlock s.vc f f.ty (blockShape s f).count) = false

/-- Element `j` of a move: of the source unit, or zero. Beyond the operand's elements a source is zero (R215). -/
def movedLane (src : Source) (h : Shape) (ty : BitVec 5) (from_ : Nat → Moved) (j : Nat) : Nat :=
  match from_ (j / unitSize ty) with
  | .copy i => elem src.image h ty (unitSize ty * i + j % unitSize ty)
  | .zero => 0

/-! ## Vector accesses -/

/-- The strand context runs no speculative leg, and its leg, if it runs one, has no lines of its own (R49, R59). -/
structure Direct (s : State) : Prop where
  plain : s.speculative s.cur.unit 0 = false
  home : s.versioned s.cur.unit 0 = false

/-- A word over lanes: where each lane is accessed, how many bytes it has, and which lanes take part. -/
structure Access where
  count : Nat
  on : Nat → Bool
  va : Nat → Word
  size : Nat

/-- VLD, VST, VLDFF, VLDS and VSTS of elements (R222), packed MX blocks (R223), scale bytes (R223), indexed
accesses (R224) and segments (R227). -/
def elemAccess (s : State) (f : BlockFields) : Access :=
  ⟨laneCount s f, laneOn s f, fun j => xOperand s f + elemOffset (bits f.func 0 2) (xStride s f) (blockShape s f) (tyBytes f.ty) j, tyBytes f.ty⟩
def blockAccess (s : State) (f : BlockFields) : Access :=
  ⟨laneCount s f / 32, fun k => laneOn s f (32 * k), fun k => xOperand s f +
    (if bits f.func 0 2 = 2 then BitVec.ofNat 64 ((blockShape s f).block k).1 * xStride s f + BitVec.ofNat 64 (((blockShape s f).block k).2 * blockBytes f.ty)
      else BitVec.ofNat 64 (k * blockBytes f.ty)), blockBytes f.ty⟩
def scaleAccess (s : State) (f : BlockFields) : Access :=
  ⟨(if f.sh = 1 then 1 else (blockShape s f).rows) * ((blockShape s f).cols / 32), fun _ => true, fun k => xOperand s f +
    (if bits f.func 0 2 = 2 then BitVec.ofNat 64 ((blockShape s f).block k).1 * xStride s f + BitVec.ofNat 64 ((blockShape s f).block k).2
      else BitVec.ofNat 64 (((blockShape s f).block k).1 * ((blockShape s f).cols / 32) + ((blockShape s f).block k).2)), 1⟩
def indexAccess (s : State) (f : BlockFields) : Access :=
  ⟨laneCount s f, laneOn s f, fun j => xOperand s f +
    sext (tyBits (indexType f)) (laneOf s f (indexType f) f.vb j) <<< bits f.func 2 3, tyBytes f.ty⟩
def segAccess (s : State) (f : BlockFields) : Access :=
  ⟨laneCount s f, laneOn s f, fun j => xOperand s f + BitVec.ofNat 64 j * xStride s f, segFields f * tyBytes f.ty⟩

/-- Every lane below `n` that takes part translates to `tg` and lies in one line. -/
def Access.mapped (a : Access) (s : State) (n : Nat) (write : Bool) (tg : Nat → Target) : Prop :=
  ∀ j < n, a.on j = true → (a.va j).toNat % 64 + a.size ≤ 64 ∧
    s.xlate s.cur.unit 0 (if write then .store else .load) write (a.va j) = .ok (tg j)
/-- No byte of those lanes has an uncorrectable error (R340). -/
def Access.clean (a : Access) (s : State) (n : Nat) (tg : Nat → Target) : Prop :=
  ∀ j < n, a.on j = true → CleanAt s s.cur.unit 0 (tg j).pa a.size
/-- A line at hand for a load: the leg cache holds it, or has no power and the home grants a lease at once (R109 to
R111, R344). -/
def LineHere (s : State) (line : Nat) : Prop :=
  s.cacheBarred s.cur.unit = false ∧
    ((s.cacheOff s.cur.unit = false ∧ (s.here.lines.any fun x => x.live line s.time) = true) ∨
      (s.cacheOff s.cur.unit = true ∧ (remoteHome s.cur.unit line = false ∨ (linePending s line = false ∧ s.lineWaited line = false))))
/-- The state with the pages of the lanes below `n` in the TLBs (R307). -/
def Access.paged (a : Access) (s : State) (n : Nat) : State :=
  ((((List.range n).filter a.on).map fun j => (a.va j).toNat / 2 ^ 18).eraseDups).foldl
    (fun s k => s.fillPage s.cur.unit 0 (BitVec.ofNat 64 (k * 2 ^ 18))) s
/-- Nothing makes the load of those lanes wait (R109, R111, R123 to R126): their lines are at hand. -/
def Access.goes (a : Access) (s : State) (n : Nat) (lane : Nat → Nat) (tg : Nat → Target) : Prop :=
  (∀ j < n, a.on j = true → vecLoadWaits (a.paged s n) (lane j) ⟨tg j, 0, a.size⟩ = false) ∧
    ∀ j < n, a.on j = true → (tg j).attr.cached = true → LineHere s ((tg j).pa / 64)
/-- No earlier transfer of the context has yet to access the bytes of the lanes: no RCOPY is to read them (R261), no
RSTORE on the own package to write them (R123), and no transfer to touch a device page, when they lie in one (R141). -/
def Access.clear (a : Access) (s : State) (tg : Nat → Target) : Prop :=
  let r := a.paged s a.count
  ∀ j < a.count, a.on j = true → copyReads r s.cur.unit 0 (r.blockEarlier s.cur.unit) (tg j).pa a.size = false ∧
    insideOver r s.cur.unit 0 (r.blockEarlier s.cur.unit) (tg j) a.size = false ∧
    ((tg j).attr = .device → deviceTransfer r s.cur.unit 0 (r.blockEarlier s.cur.unit) = false)
/-- Nothing makes the store of those lanes wait: the leg cache owns their lines, or has no power (R106, R110, R344). -/
def Access.free (a : Access) (s : State) (tg : Nat → Target) : Prop :=
  a.clear s tg ∧ ∀ j < a.count, a.on j = true → Owned s (tg j)
/-- Nothing makes the adds of those lanes wait (R115). -/
def Access.addFree (a : Access) (s : State) (tg : Nat → Target) : Prop := a.clear s tg
/-- Those lanes lie in the scratchpad, outside the snapshots, and the lock does not keep them back (R107, R186). -/
def Access.inPad (a : Access) (s : State) : Prop :=
  ∀ j < a.count, a.on j = true → spCheck s.here (a.va j).toNat a.size = none ∧ s.here.spLocked 0 (a.va j).toNat a.size = false
/-- The bytes that a lane takes from memory, or from the scratchpad. -/
def Access.seen (a : Access) (s : State) (tg : Nat → Target) (j : Nat) : Nat := bytesNat (view s s.cur.unit 0 (tg j).pa a.size)
def Access.inSp (a : Access) (s : State) (j : Nat) : Nat := s.here.sp.readLe (a.va j).toNat a.size
/-- The pending stores of those lanes, in ascending order, each on the path of its lane group (R112, R125). -/
def Access.stores (a : Access) (s : State) (lane : Nat → Nat) (inst : Nat) (add : Option (BitVec 5)) (tg : Nat → Target)
    (data : Nat → List Byte) : List PStore :=
  ((List.range a.count).filter a.on).map fun j =>
    storeEntry s s.cur.unit 0 (.lane (lane j) (sliceOf (tg j).pa)) inst add false (a.va j) (tg j) (data j)

/-- The lane group of an element, of a block, and of the scale bytes (R72, R125). -/
def laneGroup (s : State) (f : BlockFields) (j : Nat) : Nat := groupOfBit (elemBit f.ty ((blockShape s f).pos j)) % 8
def mxGroup (s : State) (f : BlockFields) (k : Nat) : Nat := laneGroup s f (32 * k)

/-- The checks of VLD and its kin, at the start of the instruction: nothing of it was done before (R73, R196, R222). -/
structure LoadChecks (s : State) (f : BlockFields) (acq : Bool) : Prop where
  fields : memTrap s f acq = none
  rows : (blockShape s f).rows ≤ 16
  fresh : vget s.vc.prog 128 f.vd.toNat = 128
  going : s.here.seq.stop = none
structure StoreChecks (s : State) (f : BlockFields) : Prop where
  fields : memTrap s f false = none
  rows : (blockShape s f).rows ≤ 16
  fresh : s.here.seq.resume = 0
  going : s.here.seq.stop = none
  clean : s.vc.poi f.va = 0

/-- The bytes of an element, of a packed block and of a scale byte that a store takes from Va (R222, R223). -/
def elemBytes (s : State) (f : BlockFields) (j : Nat) : List Byte := bvBytes (tyBytes f.ty) (BitVec.ofNat 64 (laneOf s f f.ty f.va j))
def blockData (s : State) (f : BlockFields) (k : Nat) : List Byte :=
  packBlock f.ty ((List.range 32).map fun i => laneOf s f f.ty f.va (32 * k + i))
def scaleData (s : State) (f : BlockFields) (k : Nat) : List Byte :=
  [BitVec.ofNat 8 (s.vc.scale (sclFp4 f) f.va ((blockShape s f).block k).1 ((blockShape s f).block k).2)]

/-- A load has changed no memory, no register but `d`, and nothing of the core's control. -/
structure LoadKept (s t : State) (d : BitVec 5) : Prop where
  mem : t.mem = s.mem
  regs : ∀ r, r ≠ d → t.vc.reg r = s.vc.reg r
  on : t.here.seq = seqOn s.here.seq
  me : t.me = s.me
/-- A store has made the pending stores `l`, and has changed no vector register. -/
structure StoreKept (s t : State) (l : List PStore) : Prop where
  mem : t.mem = s.mem
  pend : t.fab.pend = s.fab.pend ++ l
  vector : t.vc = s.vc
  on : t.here.seq = { seqOn s.here.seq with resume := t.here.seq.resume }
  me : t.me = s.me

/-! ## Matrices -/

/-- The accesses of MTLDM and MTST: 64 bytes of a tile row at a time, or a row of the scale area (R234). -/
def tileAccess (s : State) (f : BlockFields) : Access :=
  ⟨256, fun _ => true, fun k => xOperand s f + BitVec.ofNat 64 (k / 8) * xStride s f + BitVec.ofNat 64 (64 * (k % 8)), 64⟩
def tileScaleAccess (s : State) (f : BlockFields) : Access :=
  ⟨32, fun _ => true, fun k => xOperand s f + BitVec.ofNat 64 k * xStride s f, 32⟩

/-- Part `k` of a tile, of 64 bytes, and row `k` of its scale area, of 32 bytes. -/
def tilePart (v : VCtx) (n k : Nat) : BitVec 512 := (v.tile n).extractLsb' (512 * k) 512
def tileScaleRow (v : VCtx) (n k : Nat) : BitVec 256 := (vget v.tsc 0 n).extractLsb' (256 * k) 256

/-- Of a vector context, only tile `n`, its scale area and its DIRTY bit may have changed. -/
structure TileKept (v w : VCtx) (n : Nat) : Prop where
  others : ∀ k, k ≠ n → w.tile k = v.tile k ∧ vget w.tsc 0 k = vget v.tsc 0 k
  rest : { w with t := v.t, tsc := v.tsc, tdirty := v.tdirty } = v

/-- Of a vector context, only accumulator `n` may have changed. -/
structure AccKept (v w : VCtx) (n : Nat) : Prop where
  others : ∀ k, k ≠ n → vget w.acc 0 k = vget v.acc 0 k ∧ vget w.kpos 0 k = vget v.kpos 0 k ∧ vget w.opn false k = vget v.opn false k
  rest : { w with acc := v.acc, kpos := v.kpos, opn := v.opn, part := v.part, adirty := v.adirty, flags := v.flags } = v

/-- An accumulator element updated by one k-group after another, each an exact sum of products rounded once into
it (R97): `pairs` are the factors of a group, `scales` its two scale bytes. -/
def accumulate (acct : BitVec 5) (mx : Bool) (groups : List Nat) (pairs : Nat → List (FVal × FVal)) (scales : Nat → Nat × Nat)
    (c : Nat) : Nat × Flags :=
  groups.foldl (fun a i =>
    let x := closeGroup acct a.1 (groupSum (pairs i)) (scaleShift mx (scales i).1 (scales i).2).1 (scaleShift mx (scales i).1 (scales i).2).2
    (x.1, a.2 ||| x.2)) (c, 0)

/-- MMA.ip on one destination element (R239). -/
def ipCell (s : State) (f : BlockFields) (row j : Nat) (c : Nat) : Nat × Flags :=
  accumulate (acctOf s.vc) (isMx f.ty) (List.range (ceilDiv (mshapeK s.vc) (groupLen f.ty)))
    (fun i => ((List.range (min (i * groupLen f.ty + groupLen f.ty) (mshapeK s.vc) - i * groupLen f.ty)).map (i * groupLen f.ty + ·)).map fun x =>
      (elemValue f.ty (rowElem s.vc f.va f.ty row x), elemValue f.ty (tileElem (s.vc.tile f.vc.toNat) f.ty j x)))
    (fun i => (s.vc.scale (isFp4 f.ty) f.va row i, s.vc.tileScale f.vc.toNat j i)) c
/-- MMA.rw on one destination element (R241). -/
def rwCell (s : State) (f : BlockFields) (row n : Nat) (c : Nat) : Nat × Flags :=
  accumulate (acctOf s.vc) (isMx f.ty) (windowGroups (groupLen f.ty) (bits f.func 6 3) (mshapeK s.vc))
    (fun i => ((sparsePairs s f row).filter fun x => x.1 / groupLen f.ty == i).map fun x =>
      (elemValue f.ty (rowElem s.vc f.va f.ty row x.2), elemValue f.ty (tileElem (s.vc.tile f.vc.toNat) f.ty (x.1 - 32 * bits f.func 6 3) n)))
    (fun i => (s.vc.scale (isFp4 f.ty) f.va row i, bits (vget s.vc.tsc 0 f.vc.toNat) (8 * n) 8)) c

/-- No source of an MMA and no row of its destination lies in a poisoned group. -/
def mmaClean (s : State) (f : BlockFields) : Prop := s.vc.poi f.va = 0 ∧ s.vc.poi f.vb = 0 ∧ s.vc.poi f.vd = 0

/-- The exact value of a sum of products of finite factors in units of 2^(2q) (R96). -/
def productSum (q : Int) (l : List ((Bool × Nat × Int) × (Bool × Nat × Int))) : Int :=
  (l.map fun x => signedAt q x.1.1 x.1.2.1 x.1.2.2 * signedAt q x.2.1 x.2.2.1 x.2.2.2).sum

/-! ## Sparse vectors -/

/-- The entries of a coordinate stream: index and value of each element that is not padding (R246). -/
def streamOf (s : State) (f : BlockFields) (vi vv : BitVec 5) : List (Nat × Nat) :=
  (List.range (laneCount s f)).filterMap fun j =>
    if laneOf s f (sparseType f) vi j = padding (sparseType f) then none
    else some (laneOf s f (sparseType f) vi j, laneOf s f f.ty vv j)

/-- Indices rise strictly. -/
def Rising (l : List (Nat × Nat)) : Prop := l.Pairwise fun a b => a.1 < b.1

/-- The operands of a sparse word pass the checks of R70 and R71, and no element among `srcs` is poisoned. -/
structure SparseReady (s : State) (f : BlockFields) (srcs : List (BitVec 5 × BitVec 5)) (on : Nat → Bool) : Prop where
  shape : shapeTrap (blockShape s f) [f.ty, sparseType f] = false
  rows : (blockShape s f).rows ≤ 16
  clean : poisoned s.vc (blockShape s f) srcs on = false
  pair : regPlus f.vd 1 ≠ f.vd

/-- An element of a word's result, and the registers that it leaves alone. -/
def laneAfter (s t : State) (f : BlockFields) (ty r : BitVec 5) (j : Nat) : Nat := elem (t.vc.reg r) (blockShape s f) ty j
def PairKept (s t : State) (f : BlockFields) : Prop :=
  WordKept s t ∧ ∀ r, r ≠ f.vd → r ≠ regPlus f.vd 1 → t.vc.reg r = s.vc.reg r

/-! ## Traps and privileged code -/

/-- A trap of a context can be taken: its record can be written at `tg` now (R317, R320, R321). -/
structure TrapReady (s : State) (u c : Nat) (tg : Target) : Prop where
  ctx : c < 8
  mode : (s.ctx u c).trap ≠ .nested
  enabled : (trapVec s u).getLsbD 0 = true
  target : s.translate u ((s.partOf u).getD 0) true .store true
    (trapHead s u c + if (s.ctx u c).trap = .none then 0 else 64) = .ok tg
  cached : tg.attr.cached = true
  own : s.ownPend u c = []
  writable : s.writable (tg.pa / 64) = true
  clean : tg.attr ≠ .errorTolerant ∨ ∀ k ∈ sectorsOf tg.pa 64, k ∉ s.fab.poison

/-- The issuing context runs privileged code, outside a region. -/
structure Privileged (s : State) : Prop where
  plain : Plain s
  mode : s.privileged s.cur.unit s.cur.ctx = true

/-- It runs on a management core. -/
structure OnMgmt (s : State) : Prop where
  code : Privileged s
  unit : isMgmt s.cur.unit = true
  real : s.cur.unit < numUnits

/-- A strand that is in no region, or in a FORKI region, can leave its span now, and its kennel at `base` be written
(R64, R251, R324). -/
structure SaveReady (s : State) (first : Nat) (x : Strand) (base : Nat) : Prop where
  going : x.ended = false
  placing : s.placing x.part = true
  region : ∀ r, x.region = some r → r.indep = true
  home : x.at_ = first
  quiet : ∀ u ∈ Strand.cores first x, coreQuiet s u = true
  lines : ∀ y ∈ kennelTargets s x.part (strandPieces s first first base x), ∀ k ∈ linesOf y.1.pa y.2.length, s.writable k = true

/-- A node without what the model keeps beside a kennel (log entry 41). -/
def Node.bare (n : Node) : Node := { n with parked := [] }

/-- The privileged instructions but ERET, and those of R330 that only management cores run. -/
def privilegedForms : List (Reg → Reg → Reg → Instr) :=
  [fun d a _ => .getp d a, fun _ a b => .setp a b, fun _ a b => .tlbinv a b, fun _ a _ => .tlbinva a, .ctxsave, .ctxld,
   fun _ a _ => .qdrain a, fun _ a _ => .partrst a, .cvault, fun _ a _ => .cksync a, fun d a _ => .elrd d a,
   fun d a _ => .elrdPop d a, .hcall, fun d _ _ => .wfe d]
def mgmtForms : List (Reg → Reg → Reg → Instr) :=
  [.ctxsave, .ctxld, fun _ a _ => .qdrain a, fun _ a _ => .partrst a, .cvault, fun d _ _ => .wfe d]

/-- The selector of a GETP or SETP, and whether the issuing core may name the register (R329, R331, R333). -/
def selected (sel : Word) : Option PReg := pregOf (bits sel 0 12) (bits sel 16 12)
def MayName (s : State) (r : PReg) (set : Bool) : Prop :=
  isMgmt s.cur.unit = true ∨ (r.part s = s.partOf s.cur.unit ∧ (r.part s).isSome = true ∧ (set = true → r.setC = true))

end Sys2Proof.Machine
end

