-- ==== Sys2Proof/Certificates/Slice0/Obligations.lean ====
section
/-!
DEFINITION. The statements for the provers: what the rules of the specification say an instruction or the
machine does, about the model's own step and meanings. A statement that joins several claims names them; each
claim has its own definition here, with the rules it follows.
-/
open Sys2Proof Sys2Proof.Machine

/-- Every well-formed instruction that has a word decodes from it to itself, whatever its operands
(R145 to R155). -/
def Sys2Proof.Claims.DecodeOfEncodeIsTheInstruction : Prop :=
  ∀ i : Instr, WellFormed i = true →
    match encode i with
    | .ctl w => decodeCtl w = .ok i
    | .blk w => decodeBlk w = .ok i
    | .none => True

/-- A word that decodes is the word of the instruction it decodes to, and that instruction is
well-formed: no accepted word has a bit that does not count (R154). -/
def Sys2Proof.Claims.DecodedWordIsTheEncoding : Prop :=
  (∀ (w : Ctl) (i : Instr), decodeCtl w = .ok i → encode i = .ctl w ∧ WellFormed i = true) ∧
  ∀ (w : Blk) (i : Instr), decodeBlk w = .ok i → encode i = .blk w ∧ WellFormed i = true

/-- Decode and encode agree on every instruction and on every accepted word. -/
def Obligations.EncodedInstructionsDecode : Prop :=
  Claims.DecodeOfEncodeIsTheInstruction ∧ Claims.DecodedWordIsTheEncoding

/-- Words that the specification spells out decode to the instructions it says they are (R154, R168, R173, R178, R192,
R198, R332). -/
def Obligations.SpelledOutWordsDecode : Prop :=
  decodeCtl 0x04490400#32 = .ok (.add 2 9 0 true false false) ∧
  decodeCtl 0x60A63803#32 = .ok (.amoadd 5 6 7 3) ∧
  decodeCtl 0x60A63814#32 = .ok (.amocas 5 6 7 4) ∧
  decodeCtl 0x55030004#32 = .ok (.lda 8 3 4) ∧
  decodeCtl 0x58034803#32 = .ok (.stl 3 9 3) ∧
  decodeCtl 0xD0000004#32 = .ok (.fence 4) ∧
  decodeCtl 0x98000000#32 = .ok .join ∧
  decodeCtl 0xE8000221#32 = .ok (.trap 0x21) ∧
  decodeCtl 0xEC000002#32 = .ok .eret ∧
  decodeCtl 0xECA6002B#32 = .ok (.elrdPop 5 6) ∧
  decodeBlk 0x0500000000000000#64 = .ok (.vnop ⟨0, 0, 0, 0, 0, false, 0, 0, 0, false, 0, 0⟩) ∧
  decodeBlk 0x0100000000000000#64 = .ok (.vstop ⟨0, 0, 0, 0, 0, false, 0, 0, 0, false, 0, 0⟩)

/-- No step takes memory out of its canonical form: addresses rise strictly and no listed byte equals what an unlisted
one reads as, so that equal memories stay equal data. -/
def Obligations.MemoryStaysCanonical : Prop := ∀ s t : State, s.memOk → step s = .next t → t.memOk

/-- After reset memory is canonical, and every byte reads as 0. For device memory that is what bring-up
leaves (R372); for host memory it is the model's choice (log entry 6). -/
def Sys2Proof.Claims.ResetMemoryIsClear : Prop := State.reset.memOk ∧ ∀ a, State.reset.mem.read a = 0

/-- The reset values that the specification gives the partition, queue, ring and package registers
(R286, R303, R317, R334, R335, R345, R346, R372, R374). -/
def Sys2Proof.Claims.ResetRegisterValues : Prop :=
  ∀ (p q r k g : Nat),
    (State.reset.part p).fnmode = 0x555 ∧ (State.reset.part p).ptbase = 0 ∧ (State.reset.part p).astag = 0 ∧
    (State.reset.part p).tvec = 0 ∧ (State.reset.part p).khead = 0 ∧
    (State.reset.part p).grpctl.get 0 g = 0 ∧ (State.reset.part p).grplist.get 0 g = 0 ∧ (State.reset.part p).lease = 2048 ∧
    (State.reset.part p).ckint = 0x8000000 ∧ (State.reset.part p).cethresh = 0x1000000040 ∧ (State.reset.part p).podpair = 0 ∧
    (State.reset.part p).recov = .run ∧
    (State.reset.queue q).qctl = 4 ∧ (State.reset.queue q).qarea = 0 ∧ (State.reset.queue q).qlog = 0 ∧
    (State.reset.queue q).wdlimit = 0x8000000 ∧ wdstatWord State.reset q = 0 ∧
    (State.reset.ring r).own = 0 ∧ (∀ c < 16, remapSlot (State.reset.ring r).remap c = c) ∧
    (∀ c < 16, remapState (State.reset.ring r).remap c = 0) ∧
    remapState (State.reset.ring r).remap 16 = 1 ∧ remapState (State.reset.ring r).remap 17 = 1 ∧
    (State.reset.pslot k).cycle = 0 ∧ State.reset.time = 0 ∧ State.reset.pkg.phase = 1

/-- After reset memory is canonical and clear (clear host memory: log entry 6), and registers hold the stated values.
-/
def Obligations.ResetState : Prop :=
  Claims.ResetMemoryIsClear ∧ Claims.ResetRegisterValues

/-- A turn of a core in which context `c` of a compute or management core issues and no check of R336
reports anything: the word at its pc is fetched, decoded and executed for that context; what is added
around the instruction is the rotation, which `pickIssuer` moves on, the note of who issued last, the page of
the fetch in the TLBs, the end of a run of restarts, the end of an access that had to finish first, and the time
that passes (R20 to R22, R145, R155, R165, R307, R337). -/
def Sys2Proof.Claims.StepRunsTheControlWord : Prop :=
  ∀ (s : State) (u c dt : Nat) (rest : List Slot) (s1 : State) (w : Ctl) (i : Instr),
    s.agenda = ⟨dt, .cycle u⟩ :: rest → u < numUnits → c < 8 →
    coreOff { s with agenda := rest } u = false →
    pickIssuer { s with agenda := rest } u = (some c, s1) →
    let s2 := (s1.modCore u fun k => { k with lastCtx := some c }).modCtx u c fun x => { x with lastIssue := s1.now + 1 }
    let s3 := (endRun s2 u (some c)).setCur ⟨u, c⟩
    (s2.core u).checks = [] → relockDue s3 u c = false → (c = 0 → blockFaultDue s3 u = false) →
    fetchCtl s3 u c = .ok w → decodeCtl w = .ok i →
    step s = passTime dt (endFinishing u c (exec i (s3.fillPage u c (s3.ctx u c).pc)))

/-- A turn of a core's vector sequencer that runs a block: the eight bytes at its address are decoded and, unless the
word reads a carried register whose value is not known yet, executed for context 0; what is added around the
instruction is the page of the fetch in the TLBs, READ of the carried registers that the word reads, the count of
the checking lane, and the time that passes (R25, R44, R155, R307, R336). -/
def Sys2Proof.Claims.StepRunsTheBlockWord : Prop :=
  ∀ (s : State) (u dt : Nat) (rest : List Slot) (w : Blk) (i : Instr),
    s.agenda = ⟨dt, .word u⟩ :: rest → u < numCores →
    let s1 : State := { s with agenda := rest }
    seqReady s1 u = true → coreOff s1 u = false → (s1.core u).checks = [] →
    let s2 := (setStop (endRun s1 u none) u none none).setCur ⟨u, 0⟩
    let pc := (s2.core u).seq.pc
    let s3 := s2.fillPage u 0 pc
    fetchBlk s2 u = .ok w → decodeBlk w = .ok i →
    (wordPending s3 u i = true → step s = passTime dt (.next s3)) ∧
    (wordPending s3 u i = false → step s = passTime dt (countLane u pc i (exec i (markWordRegs s3 u i))))

/-- A turn that is an event of the table executes that event; a word that decodes to no instruction
executes as ILLEGAL_ENCODING (R154, R155). -/
def Sys2Proof.Claims.StepRunsEventsAndIllegalWords : Prop :=
  (∀ (s : State) (e : Instr) (dt : Nat) (rest : List Slot), s.agenda = ⟨dt, .event e⟩ :: rest → isEvent e = true →
    step s = passTime dt (exec e { s with agenda := rest })) ∧
  (∀ (w : Ctl) (r : Reject), decodeCtl w = .error r → ctlInstr w = .illegalEncoding (.control w)) ∧
  (∀ (w : Blk) (r : Reject), decodeBlk w = .error r → blkInstr w = .illegalEncoding (.block w)) ∧
  (∀ (w : Ctl) (s : State), exec (.illegalEncoding (.control w)) s = .next (traps s trapIllegal)) ∧
  ∀ (w : Blk) (s : State), exec (.illegalEncoding (.block w)) s = .next (wordFault s trapIllegal)

/-- A turn executes the instruction that the fetched word decodes to, or the event it names. Completes:
illegalEncoding. Completes: illegalEncoding. -/
def Obligations.StepRunsTheDecodedInstruction : Prop :=
  Claims.StepRunsTheControlWord ∧ Claims.StepRunsTheBlockWord ∧ Claims.StepRunsEventsAndIllegalWords

/-- The ALU instructions on X registers: Xd receives the result, X0 discards it, and nothing else changes but
the pc (R164, R166, R167). -/
def Sys2Proof.Claims.AluTwoSourcesResult : Prop :=
  ∀ p ∈ aluTwo, ∀ (s : State) (xd xa xb : Reg), Ready s [xa, xb] (some xd) →
    ∃ t, exec (p.1 xd xa xb false false false) s = .next t ∧ WroteReg s t xd (p.2 (X s xa) (X s xb)) (s.me.pc + 4)

/-- The ALU instructions of one source on X registers (R166). -/
def Sys2Proof.Claims.AluOneSourceResult : Prop :=
  ∀ p ∈ aluOne, ∀ (s : State) (xd xa : Reg), Ready s [xa] (some xd) →
    ∃ t, exec (p.1 xd xa false false) s = .next t ∧ WroteReg s t xd (p.2 (X s xa)) (s.me.pc + 4)

/-- What the counting and multiplying functions of R166 compute, bit by bit: the upper halves of the two
products, the counts of leading and trailing zeros and of ones, and the reversal of bytes. -/
def Sys2Proof.Claims.CountsAndProducts : Prop :=
  ∀ a b : Word,
    mulHigh a b = (a.signExtend 128 * b.signExtend 128).extractLsb' 64 64 ∧
    mulHighN a b = (a.setWidth 128 * b.setWidth 128).extractLsb' 64 64 ∧
    clz 64 a.toNat ≤ 64 ∧ (∀ i < 64, 64 - clz 64 a.toNat ≤ i → a.getLsbD i = false) ∧
    (clz 64 a.toNat < 64 → a.getLsbD (63 - clz 64 a.toNat) = true) ∧
    ctz 64 a.toNat ≤ 64 ∧ (∀ i < ctz 64 a.toNat, a.getLsbD i = false) ∧
    (ctz 64 a.toNat < 64 → a.getLsbD (ctz 64 a.toNat) = true) ∧
    popc 64 a.toNat = ((List.range 64).filter a.getLsbD).length ∧
    ∀ k < 8, (bswap64 a).extractLsb' (8 * k) 8 = a.extractLsb' (56 - 8 * k) 8

/-- The immediate forms, LDHI and ADDPC (R169). -/
def Sys2Proof.Claims.ImmediateForms : Prop :=
  ∀ (s : State) (xd xa : Reg),
    (∀ p ∈ immForms, ∀ imm, Ready s [xa] (some xd) →
      ∃ t, exec (p.1 xd xa imm) s = .next t ∧ WroteReg s t xd (p.2 (X s xa) imm) (s.me.pc + 4)) ∧
    (∀ p ∈ shiftForms, ∀ n : BitVec 6, Ready s [xa] (some xd) →
      ∃ t, exec (p.1 xd xa n) s = .next t ∧ WroteReg s t xd (p.2 (X s xa) n.toNat) (s.me.pc + 4)) ∧
    ∀ imm : BitVec 21, Ready s [] (some xd) →
      (∃ t, exec (.ldhi xd imm) s = .next t ∧ WroteReg s t xd (imm.signExtend 64 <<< 16) (s.me.pc + 4)) ∧
      ∃ t, exec (.addpc xd imm) s = .next t ∧
        WroteReg s t xd ((s.me.pc &&& 0xFFFF_FFFF_FFFF_0000#64) + imm.signExtend 64 <<< 16) (s.me.pc + 4)

/-- The scalar ALU and immediate forms write their result and nothing else. Completes: add, sub, and_, or_, xor, andn,
shl, shr, sar, rol, mul, mulh, mulhn, div, divn, rem, remn, min, max, minn, maxn, cmpeq, cmplt, cmpltn, clz, ctz,
popc, bswap, sext, zext, addi, andi, ori, xori, shli, shri, sari, cmplti, ldhi, addpc. -/
def Obligations.ScalarArithmetic : Prop :=
  Claims.AluTwoSourcesResult ∧ Claims.AluOneSourceResult ∧ Claims.CountsAndProducts ∧ Claims.ImmediateForms

/-- The ALU instructions with shared registers among their operands, in a core where no write of a shared
register is on its way: a source or the destination marked shared is XS0 to XS7, X registers then keep
their values, and a write of a shared register is on its way to the other contexts (R147, R168, R323). -/
def Sys2Proof.Claims.AluSharedOperands : Prop :=
  ∀ (s : State) (xd xa xb : Reg) (sd sa sb : Bool), Plain s → s.here.xsOld = [] →
    let src (shared : Bool) (r : Reg) : Word := if shared then vget s.here.xs 0 (r.toNat % 8) else X s r
    (∀ p ∈ aluTwo, ∃ t, exec (p.1 xd xa xb sd sa sb) s = .next t ∧
      if sd then WentOn (writeXs s xd (p.2 (src sa xa) (src sb xb))) t (s.me.pc + 4)
      else WroteReg s t xd (p.2 (src sa xa) (src sb xb)) (s.me.pc + 4)) ∧
    ∀ p ∈ aluOne, ∃ t, exec (p.1 xd xa sd sa) s = .next t ∧
      if sd then WentOn (writeXs s xd (p.2 (src sa xa))) t (s.me.pc + 4) else WroteReg s t xd (p.2 (src sa xa)) (s.me.pc + 4)

/-- A read of a shared register gives its newest value or one that a write not yet visible has replaced; a
context reads its own last write, and after a write the register holds the value (R323). -/
def Sys2Proof.Claims.SharedRegisterReads : Prop :=
  (∀ (s : State) (r : Reg), (readXs s r).1 = vget s.here.xs 0 (r.toNat % 8) ∨ (readXs s r).1 ∈ xsUnseen s r) ∧
  ∀ (s : State) (r : Reg) (v : Word), (readXs (writeXs s r v) r).1 = v

/-- Shared registers as ALU operands, and what a read of one may give. Completes: add, sub, and_, or_, xor, andn, shl,
shr, sar, rol, mul, mulh, mulhn, div, divn, rem, remn, min, max, minn, maxn, cmpeq, cmplt, cmpltn, clz, ctz, popc,
bswap, sext, zext. -/
def Obligations.SharedRegisters : Prop :=
  Claims.AluSharedOperands ∧ Claims.SharedRegisterReads

/-- Division never traps, and gives the results of R167: the boundary cases, and otherwise quotient and remainder.
Completes: div, divn, rem, remn. -/
def Obligations.DivisionNeverTraps : Prop :=
  ∀ (s : State) (xd xa xb : Reg), Ready s [xa, xb] (some xd) →
    ∃ q r qn rn t1 t2 t3 t4, Division (X s xa) (X s xb) q r qn rn ∧
      exec (.div xd xa xb false false false) s = .next t1 ∧ WroteReg s t1 xd q (s.me.pc + 4) ∧
      exec (.rem xd xa xb false false false) s = .next t2 ∧ WroteReg s t2 xd r (s.me.pc + 4) ∧
      exec (.divn xd xa xb false false false) s = .next t3 ∧ WroteReg s t3 xd qn (s.me.pc + 4) ∧
      exec (.remn xd xa xb false false false) s = .next t4 ∧ WroteReg s t4 xd rn (s.me.pc + 4)

/-- The scalar loads: Xd receives the bytes that the context sees at EA, extended; no byte of memory
changes, whoever looks (R170). -/
def Sys2Proof.Claims.ScalarLoads : Prop :=
  ∀ p ∈ loadForms, ∀ (s : State) (xd xa : Reg) (off : BitVec 14) (tg : Target),
    Ready s [xa] (some xd) → Unheld s → LoadReady s (effAddr s xa off p.2.1) (2 ^ p.2.1) tg →
    ∃ t, exec (p.1 xd xa off) s = .next t ∧ BytesKept s t ∧
      WroteReg (loadNoted (paged s (effAddr s xa off p.2.1)) (2 ^ p.2.1) tg) t xd
        (p.2.2 (bytesBV (8 * 2 ^ p.2.1) (view s s.cur.unit s.cur.ctx tg.pa (2 ^ p.2.1))).toNat) (s.me.pc + 4)

/-- The scalar stores: the low bytes of Xs are a pending store at EA. Memory at its home changes only
when that is performed, and of what the context itself sees only the stored bytes change (R120, R170). -/
def Sys2Proof.Claims.ScalarStores : Prop :=
  ∀ p ∈ storeForms, ∀ (s : State) (xs xa : Reg) (off : BitVec 14) (tg : Target),
    let bytes := bvBytes (2 ^ p.2) (X s xs)
    Ready s [xs, xa] none → Unheld s → StoreReady s (effAddr s xa off p.2) bytes tg →
    let va := effAddr s xa off p.2
    ∃ t, exec (p.1 xs xa off) s = .next t ∧ t.mem = s.mem ∧ WentOn (storeNoted (paged s va) va tg false bytes) t (s.me.pc + 4) ∧
      (s.inLeg s.cur.unit s.cur.ctx = false → ∀ a, viewByte t s.cur.unit s.cur.ctx a =
        if tg.pa ≤ a ∧ a < tg.pa + bytes.length then bytes.getD (a - tg.pa) 0 else viewByte s s.cur.unit s.cur.ctx a)

/-- Scalar loads give what the context sees; scalar stores are pending at EA, and change only their bytes. Completes:
ldb, ldh, ldw, ldd, ldbn, ldhn, ldwn, stb, sth, stw, std. Completes: ldb, ldh, ldw, ldd, ldbn, ldhn, ldwn, stb, sth,
stw, std. -/
def Obligations.ScalarLoadsAndStores : Prop :=
  Claims.ScalarLoads ∧ Claims.ScalarStores

/-- LDS and STS: the scratchpad of the core at offset O; STS changes the stored bytes alone. A context beside a
speculative leg reads the bytes that the leg has written as they were before it; and what it stores itself is no
longer the leg's (R58, R107, R133, R171). Completes: lds, sts. -/
def Obligations.ScratchpadAccesses : Prop :=
  ∀ (s : State) (x xa : Reg) (off : BitVec 14) (sz : BitVec 2),
    let n := 2 ^ sz.toNat
    let o := effAddr s xa off sz.toNat
    SpReady s o n →
      (Ready s [xa] (some x) →
        (s.spOwn s.cur.unit s.cur.ctx = true → s.here.spPoison.contains (o.toNat / 16) = false →
          ∃ t, exec (.lds x xa off sz) s = .next t ∧ WroteReg s t x (sext (8 * n) (s.here.sp.readLe o.toNat n)) (s.me.pc + 4)) ∧
        (s.spOwn s.cur.unit s.cur.ctx = false → s.here.spSeenBad (o.toNat / 16) = false →
          ∃ t, exec (.lds x xa off sz) s = .next t ∧ WroteReg s t x
            (sext (8 * n) (bytesBV (8 * n) ((List.range n).map fun i => s.here.spSeen (o.toNat + i))).toNat) (s.me.pc + 4))) ∧
      (Ready s [x, xa] none → s.speculative s.cur.unit s.cur.ctx = false →
        ∃ t, exec (.sts x xa off sz) s = .next t ∧
          WentOn (s.modHere fun c => { c with
            sp := c.sp.writeN o.toNat (bvBytes n (X s x))
            spPoison := clearPoison c.spPoison o.toNat n false
            leg := c.leg.map fun l => { l with undo := l.undo.map (·.wrote o.toNat (bvBytes n (X s x))) } }) t (s.me.pc + 4) ∧
          ∀ a, t.here.sp.read a = if o.toNat ≤ a ∧ a < o.toNat + n then (bvBytes n (X s x)).getD (a - o.toNat) 0 else s.here.sp.read a)

/-- An address that is not a multiple of the access size raises the misaligned-access trap at the instruction: every
scalar load and store, LDS, STS, LDA, STL, MONWAIT and the AMO family. STL and an AMO of system scope first take a
remote-access error that is pending (R170 to R173, R189, R315). -/
def Obligations.MisalignedAccessesTrap : Prop :=
  ∀ s : State, Plain s →
    (∀ p ∈ loadForms, ∀ (xd xa : Reg) (off : BitVec 14), (effAddr s xa off p.2.1).toNat % 2 ^ p.2.1 ≠ 0 →
      exec (p.1 xd xa off) s = .next (traps s { cause := 0x05, faddr := effAddr s xa off p.2.1 })) ∧
    (∀ p ∈ storeForms, ∀ (xs xa : Reg) (off : BitVec 14), (effAddr s xa off p.2).toNat % 2 ^ p.2 ≠ 0 →
      exec (p.1 xs xa off) s = .next (traps s { cause := 0x05, faddr := effAddr s xa off p.2 })) ∧
    (∀ (x xa : Reg) (off : BitVec 14) (sz : BitVec 2), (effAddr s xa off sz.toNat).toNat % 2 ^ sz.toNat ≠ 0 →
      exec (.lds x xa off sz) s = .next (traps s { cause := 0x05, faddr := effAddr s xa off sz.toNat }) ∧
      exec (.sts x xa off sz) s = .next (traps s { cause := 0x05, faddr := effAddr s xa off sz.toNat })) ∧
    ∀ (xd xa xb : Reg) (scope : BitVec 3), (X s xa).toNat % 8 ≠ 0 →
      exec (.lda xd xa scope) s = .next (traps s { cause := 0x05, faddr := X s xa }) ∧
      exec (.monwait xd xa xb) s = .next (traps s { cause := 0x05, faddr := X s xa }) ∧
      (¬(scope = 4 ∧ remotePending s = true) →
        exec (.stl xa xb scope) s = .next (traps s { cause := 0x05, faddr := X s xa }) ∧
        exec (.amocas xd xa xb scope) s = .next (traps s { cause := 0x05, faddr := X s xa }) ∧
        ∀ p ∈ amoForms, exec (p.1 xd xa xb scope) s = .next (traps s { cause := 0x05, faddr := X s xa }))

/-- LDA and STL, with the marks of a release and an acquire of the location (R128). Up to die scope, and on pages that are not cached or not device memory, LDA loads as a
scalar load does; wider it reads the doubleword at its home. STL is a store once every earlier access is
performed at its scope (R111, R127, R129, R172). -/
def Sys2Proof.Claims.AcquireLoadsAndReleaseStores : Prop :=
  ∀ (s : State) (xd xa xb : Reg) (scope : BitVec 3) (tg : Target), Plain s → (X s xa).toNat % 8 = 0 →
    let u := s.cur.unit
    let c := s.cur.ctx
    (s.xlate u c .load false (X s xa) = .ok tg →
      let r := markAcquire (paged s (X s xa)) u c tg.pa
      (scope.toNat ≤ 2 ∨ tg.attr.cached = false ∨ isDevMem tg.pa = false → LoadAt r 8 tg →
        exec (.lda xd xa scope) s = .next (goOn (setX (loadNoted r 8 tg) xd (seenDouble s tg)))) ∧
      (3 ≤ scope.toNat → tg.attr.cached = true → isDevMem tg.pa = true → r.blockWait u c tg 8 = false →
        ownPendOver r tg 8 = false → hostHolds s tg.pa = false → s.fab.poison.contains (tg.pa / 16) = false →
        exec (.lda xd xa scope) s = .next (goOn (setX r xd (homeDouble s tg))))) ∧
    (StoreReady (markRelease s u c tg.pa) (X s xa) (bvBytes 8 (X s xb)) tg → orderedAt s scope = true → (scope = 4 → remotePending s = false) →
      exec (.stl xa xb scope) s =
        .next (goOn (storeNoted (paged (markRelease s u c tg.pa) (X s xa)) (X s xa) tg false (bvBytes 8 (X s xb)))))

/-- The AMO family: Xd receives the old doubleword, and the operation's result is written, at the home, or
in the leg cache for core scope. AMOCAS writes Xb when the old value is Xd's, and otherwise nothing (R130, R173). -/
def Sys2Proof.Claims.AtomicOperations : Prop :=
  ∀ (s : State) (xd xa xb : Reg) (scope : BitVec 3) (tg : Target), Plain s → AmoReady s (X s xa) scope tg →
    let r := synced s (X s xa) tg
    (AmoAtHome r scope tg →
      (∀ p ∈ amoForms, exec (p.1 xd xa xb scope) s =
        .next (goOn (setX (amoWritten (homeOwned r tg) tg (p.2.2 (homeDouble s tg) (X s xb))) xd (homeDouble s tg)))) ∧
      exec (.amocas xd xa xb scope) s =
        .next (goOn (setX (if homeDouble s tg = X s xd then amoWritten (homeOwned r tg) tg (X s xb) else homeOwned r tg) xd (homeDouble s tg)))) ∧
    (scope = 0 → AmoInCache r tg →
      let q := loadNoted (ownedLine r tg) 8 tg
      (∀ p ∈ amoForms, exec (p.1 xd xa xb scope) s =
        .next (goOn (setX (storeNoted q (X s xa) tg true (bvBytes 8 (p.2.2 (seenDouble s tg) (X s xb)))) xd (seenDouble s tg)))) ∧
      exec (.amocas xd xa xb scope) s =
        .next (goOn (setX (if seenDouble s tg = X s xd then storeNoted q (X s xa) tg true (bvBytes 8 (X s xb)) else q) xd (seenDouble s tg))))

/-- LDA, STL, AMOCAS and the AMO family at every scope. Completes: lda, stl, amoadd, amoswp, amocas, amomin, amomax,
amominn, amomaxn, amoand, amoor, amoxor. -/
def Obligations.AcquireReleaseAndAtomics : Prop :=
  Claims.AcquireLoadsAndReleaseStores ∧ Claims.AtomicOperations

/-- A write at the home slice changes the bytes it writes and no other byte of memory; on an error-tolerant page a
poisoned sector may first become zeros (R112, R117). -/
def Obligations.HomeWriteChangesItsBytesAlone : Prop :=
  ∀ (s : State) (unit strand : Option Nat) (part : Nat) (attr : Attr) (pa : Nat) (bytes : List Byte) (a : Nat),
    attr ≠ .errorTolerant ∨ (∀ k ∈ sectorsOf pa bytes.length, k ∉ s.fab.poison) →
    (homeWrite s unit strand part attr pa bytes).mem.read a =
      if pa ≤ a ∧ a < pa + bytes.length then bytes.getD (a - pa) 0 else s.mem.read a

/-- The conditional branches, and the jumps: the relation that each tests, where it goes, and the link register; a
register target that is not a multiple of 4 traps at the jump (R145, R174, R175). Completes: beq, bne, blt, bltn, bge,
bgen, jmp, call, jr, callr. -/
def Obligations.BranchesAndJumps : Prop :=
  (∀ p ∈ branchForms, ∀ (s : State) (xa xb : Reg) (off : BitVec 15), Ready s [xa, xb] none →
    (p.2 (X s xa) (X s xb) → ∃ t, exec (p.1 xa xb off) s = .next t ∧ WentOn s t (s.me.pc + off.signExtend 64 <<< 2)) ∧
    (¬p.2 (X s xa) (X s xb) → ∃ t, exec (p.1 xa xb off) s = .next t ∧ WentOn s t (s.me.pc + 4))) ∧
  (∀ (s : State) (off : BitVec 26), (Ready s [] none →
      ∃ t, exec (.jmp off) s = .next t ∧ WentOn s t (s.me.pc + off.signExtend 64 <<< 2)) ∧
    (Ready s [] (some 31) →
      ∃ t, exec (.call off) s = .next t ∧ WroteReg s t 31 (s.me.pc + 4) (s.me.pc + off.signExtend 64 <<< 2))) ∧
  ∀ (s : State) (xd xa : Reg),
    ((X s xa).toNat % 4 = 0 →
      (Ready s [xa] none → ∃ t, exec (.jr xa) s = .next t ∧ WentOn s t (X s xa)) ∧
      (Ready s [xa] (some xd) → ∃ t, exec (.callr xd xa) s = .next t ∧ WroteReg s t xd (s.me.pc + 4) (X s xa))) ∧
    ((X s xa).toNat % 4 ≠ 0 → Plain s →
      exec (.jr xa) s = .next (traps s { cause := 0x04, faddr := X s xa }) ∧
      exec (.callr xd xa) s = .next (traps s { cause := 0x04, faddr := X s xa }))

/-- N of R40: the number of i with base + i x step < end, or > end for a negative step. -/
def Sys2Proof.Claims.IterationCount : Prop :=
  ∀ (base step endv : Word) (i : Nat),
    (0 < step.toInt → (i < iterCount base.toInt step.toInt endv.toInt ↔ base.toInt + i * step.toInt < endv.toInt)) ∧
    (step.toInt < 0 → (i < iterCount base.toInt step.toInt endv.toInt ↔ endv.toInt < base.toInt + i * step.toInt))

/-- FORK and FORKI whose checks pass; the page of the JOIN is then in the TLBs (R307). With N = 0 the strand goes on after the JOIN; inside a leg the loop is
pushed on the nest stack; outside a region, with every block and store before it done, a region of N
iterations opens and leg 0 starts on this core with every register as it was (R14, R40, R43, R177). A FORK waits while the leg cache is gated (log entry 57). -/
def Sys2Proof.Claims.ForkStartsALoop : Prop :=
  ∀ p ∈ forkForms, ∀ (s : State) (xind xstep xend : Reg) (fn : BitVec 11) (tg : Target),
    let joinPc := s.me.pc + 4 * fn.setWidth 64
    let n := iterCount (X s xind).toInt (X s xstep).toInt (X s xend).toInt
    let s1 := s.fillPage s.cur.unit 0 joinPc
    ForkOk s p.2 xind xstep joinPc tg → InStrand s → Ready s [xind, xstep, xend] none →
      (∀ h x, s.here.strand = some h → s.strand? h = some x → n = 0 →
        ∃ t, exec (p.1 xind xstep xend fn) s = .next t ∧ WentOn s1 t (joinPc + 4)) ∧
      (s.here.leg.isSome = true → n ≠ 0 → ∃ t, exec (p.1 xind xstep xend fn) s = .next t ∧
        WentOn (s1.modMe fun c => { c with nest := ⟨s.me.pc, joinPc, X s xstep, X s xend, xind, 0, n⟩ :: c.nest }) t (s.me.pc + 4)) ∧
      ∀ h x, Outside s h x → h ≤ s.cur.unit → s.cur.unit < h + x.size → n ≠ 0 → Idle s → s.performedAt s.cur.unit 0 1 = true →
        (p.2 = false → s.cacheOff s.cur.unit = false) → ∃ t r, exec (p.1 xind xstep xend fn) s = .next t ∧ t.mem = s.mem ∧ t.me.pc = s.me.pc + 4 ∧ RegsKept s t ∧
          (∃ l, t.here.leg = some l ∧ l.k = 0 ∧ l.i = 0) ∧ t.strand? h = some { x with region := some r, flags := x.flags ||| s.vc.flags } ∧
          r.indep = p.2 ∧ r.n = n ∧ r.legs = ceilDiv n s.me.legsz.toNat ∧ r.forkPc = s.me.pc ∧ r.joinPc = joinPc ∧
          r.xind = xind ∧ r.base = X s xind ∧ r.step = X s xstep ∧ r.runner = 0 ∧ r.arrived = true

/-- FORK and FORKI: the number of iterations, the nest stack and the region that opens. Completes: fork, forki. -/
def Obligations.ForksStartLoops : Prop :=
  Claims.IterationCount ∧ Claims.ForkStartsALoop

/-- JOIN inside a leg: of an inner loop, and of an iteration that is not the leg's last. The JOIN adds the
step to the induction register and goes back behind the FORK, or, after an inner loop's last iteration,
on; outside a region it is illegal (R40, R41, R178). -/
def Sys2Proof.Claims.JoinEndsAnIteration : Prop :=
  (∀ s : State, InStrand s → Plain s → exec .join s = .next (traps s trapIllegal)) ∧
  ∀ (s : State) (h : Nat) (r : Region) (l : Leg), InLeg s h r l → l.pending = 0 →
    (∀ e rest, s.me.nest = e :: rest → r.xind ≠ e.xind → (rest.any fun x => x.xind == e.xind) = false →
      (e.i + 1 < e.n → ∃ t, exec .join s = .next t ∧
        WroteReg (s.modMe fun c => { c with nest := { e with i := e.i + 1 } :: rest }) t e.xind (X s e.xind + e.step) (e.forkPc + 4)) ∧
      (e.n ≤ e.i + 1 → ∃ t, exec .join s = .next t ∧
        WroteReg (s.modMe fun c => { c with nest := rest }) t e.xind (X s e.xind + e.step) (s.me.pc + 4))) ∧
    (s.me.nest = [] → l.joined = false → l.i + 1 ≤ r.last l.k → ∃ t, exec .join s = .next t ∧
      WroteReg (s.modHere fun c => { c with leg := c.leg.map fun l => { l with i := l.i + 1 } }) t r.xind (X s r.xind + r.step) (r.forkPc + 4))

/-- The last JOIN of the final leg, when the leg is the runner (FORK) or every other leg has finished
(FORKI), its blocks have ended and it holds no line or store that has yet to reach its home: the region ends, and
the strand goes on after the JOIN on this core (R15, R55, R57, R62, R132). -/
def Sys2Proof.Claims.FinalJoinEndsTheRegion : Prop :=
  ∀ (s : State) (h : Nat) (x : Strand) (r : Region) (l : Leg), InLeg s h r l → l.pending = 0 → s.me.nest = [] →
    s.strand? h = some x → h ≤ s.cur.unit → s.cur.unit < h + x.size → r.last l.k < l.i + 1 → l.k + 1 = r.legs → Idle s → l.joined = false →
    (r.indep = false → l.k = r.runner ∧ r.arrived = true ∧ s.ownPend s.cur.unit 0 = [] ∧ ∀ y ∈ s.here.lines, y.st = .L → y.dirty = 0) →
    (r.indep = true → l.early = false ∧ r.finished + 1 = r.legs ∧ r.barCount = 0) →
    ∃ t, exec .join s = .next t ∧ t.mem = s.mem ∧ t.me.pc = s.me.pc + 4 ∧ t.here.leg = none ∧ t.here.snaps = 0 ∧
      RegsAfter s t r.xind (X s r.xind + r.step) ∧
      ∃ y, t.strand? h = some y ∧ y.region = none ∧ y.at_ = s.cur.unit ∧ y.flags = x.flags ||| s.vc.flags

/-- The last JOIN of a leg that is not the final one, when its blocks have ended. In a FORK region the runner commits:
each byte that the leg wrote stands at its home, no other byte of memory changes, its flags go to the strand, and leg
k + 1 is the runner, which is due; a leg that is not the runner waits at the JOIN. In a FORKI region the leg
finishes. The leg that has committed or finished leaves its core (R46, R55, R62, R93). -/
def Sys2Proof.Claims.LastJoinOfALeg : Prop :=
  ∀ (s : State) (h : Nat) (x : Strand) (r : Region) (l : Leg), InLeg s h r l → l.pending = 0 → s.me.nest = [] →
    s.strand? h = some x → r.last l.k < l.i + 1 → l.k + 1 ≠ r.legs → Idle s → l.joined = false →
    let left (t : State) : Prop := t.here.leg = none ∧ t.me.resident = false ∧ t.me.stall = none
    (r.indep = false → l.early = false → l.k = r.runner → r.arrived = true → commitReady s s.cur.unit = true →
      (s.here.lines.map (·.line)).Nodup →
      (∀ y ∈ s.here.lines, y.st = .L → y.et = false ∧ y.bad = 0 ∧ (y.dirty = 0 → y.mask = 0)) →
      ∃ t, exec .join s = .next t ∧ left t ∧
        (∀ a, t.mem.read a = (legByte s s.cur.unit a).getD (s.mem.read a)) ∧
        ∃ y q, t.strand? h = some y ∧ y.flags = x.flags ||| s.vc.flags ∧ y.region = some q ∧ q.runner = l.k + 1 ∧
          q.arrived = false ∧ q.legs = r.legs) ∧
    (r.indep = false → ¬(l.k = r.runner ∧ r.arrived = true) →
      ∃ t q, exec .join s = .next t ∧ t.mem = s.mem ∧ t.me.pc = s.me.pc ∧ t.me.stall = some .join ∧
        t.here.leg = some q ∧ q.k = l.k ∧ q.i = l.i + 1 ∧ q.joined = true) ∧
    (r.indep = true → l.early = false → r.barCount = 0 →
      ∃ t, exec .join s = .next t ∧ t.mem = s.mem ∧ left t ∧
        ∃ y, t.strand? h = some y ∧ y.flags = x.flags ||| s.vc.flags ∧ y.region = some { r with finished := r.finished + 1 })

/-- JOIN ends an iteration; the last one of a leg commits or finishes the leg, and that of the final leg ends the
region. Completes: join. -/
def Obligations.JoinsEndIterationsAndRegions : Prop :=
  Claims.JoinEndsAnIteration ∧ Claims.FinalJoinEndsTheRegion ∧ Claims.LastJoinOfALeg

/-- BAR. Of the last leg to arrive, once every access of the legs before it is performed: the barrier opens, and the
leg goes on; of another, or while an access is not performed, the leg waits at the barrier (R63). -/
def Sys2Proof.Claims.BarrierOpens : Prop :=
  ∀ (s : State) (h : Nat) (x : Strand) (r : Region) (l : Leg), InLeg s h r l → s.strand? h = some x → h ≤ s.cur.unit →
    s.cur.unit < h + x.size → r.indep = true → r.legs ≤ x.size → s.me.barArrived = false → Idle s →
    s.performedAt s.cur.unit 0 1 = true →
    (r.barCount + 1 + r.finished = r.legs → spanPerformed s h x = true → ∃ t, exec .bar s = .next t ∧ GoesOn t (s.me.pc + 4) ∧ t.me.barArrived = false ∧
      t.strand? h = some { x with region := some { r with barCount := 0, barGen := !r.barGen } }) ∧
    (r.barCount + 1 + r.finished < r.legs ∨ spanPerformed s h x = false → ∃ t, exec .bar s = .next t ∧ t.me.pc = s.me.pc ∧
      t.me.stall = some .bar ∧ t.me.barArrived = true ∧
      t.strand? h = some { x with region := some { r with barCount := r.barCount + 1 } })

/-- BSEND sends a carried register to the next leg, and has no effect for another register or in the final
leg (R41, R45, R179). LEGID gives the leg number, 0 outside a region (R39, R179). -/
def Sys2Proof.Claims.LegSendsAndNumbers : Prop :=
  (∀ (s : State) (h : Nat) (r : Region) (l : Leg) (xa : Reg), InLeg s h r l → Ready s [xa] none →
    ∃ t, exec (.bsend xa) s = .next t ∧
      WentOn (if r.carried.getLsbD xa.toNat ∧ l.k + 1 ≠ r.legs then sendParcel s h (l.k + 1) (.value xa (X s xa)) else s) t (s.me.pc + 4)) ∧
  ∀ (s : State) (xd : Reg), Ready s [] (some xd) →
    ∃ t, exec (.legid xd) s = .next t ∧
      WroteReg s t xd (BitVec.ofNat 64 ((if s.cur.ctx = 0 then (s.here.leg.map (·.k)).getD 0 else 0) % 2 ^ 32)) (s.me.pc + 4)

/-- The instructions of R12 are illegal in a management core, in another context than context 0, and in trap
mode, whatever their operands (R12, R322). In trap mode VFETCH and VFETCHX report a misaligned address, and FORK and
FORKI a translation fault of the JOIN, ahead of that (R315). -/
def Sys2Proof.Claims.StrandInstructionsAreIllegalElsewhere : Prop :=
  ∀ (s : State) (i : Instr), StrandOnly s i → s.cur.ctx ≠ 0 ∨ isMgmt s.cur.unit = true ∨ s.me.trap ≠ .none →
    exec i s = .next (traps s trapIllegal)

/-- BAR, BSEND and LEGID in a region, and where strand instructions are illegal. Completes: bar, bsend, legid. -/
def Obligations.LegInstructions : Prop :=
  Claims.BarrierOpens ∧ Claims.LegSendsAndNumbers ∧ Claims.StrandInstructionsAreIllegalElsewhere

/-- VFETCH and VFETCHX put a block at the end of the fetch queue, with the shape, the rounding mode and the
scalar registers of that moment; an address that is not a multiple of 8 traps, and a full queue stalls
(R25, R26, R83, R145, R180). -/
def Sys2Proof.Claims.BlocksAreFetched : Prop :=
  ∀ (s : State) (off : BitVec 26) (xa : Reg), InStrand s → Plain s →
    let fetched (a : Word) : State :=
      s.modHere fun c => { c with seq := { c.seq with
        fq := c.seq.fq ++ [⟨a, s.vc.vrows, s.vc.vcols, s.vc.rmode, s.me.x, 0, s.here.copyNo⟩] } }
    ∀ p ∈ [((.vfetch off : Instr), s.me.pc + off.signExtend 64 <<< 2), (.vfetchx xa, X s xa)],
      (p.2.toNat % 8 = 0 → s.here.seq.fq.length < 16 → exec p.1 s = .next (goOn (fetched p.2))) ∧
      (p.2.toNat % 8 = 0 → 16 ≤ s.here.seq.fq.length → exec p.1 s = .next (stalls s .fetchFull)) ∧
      (p.2.toNat % 8 ≠ 0 → exec p.1 s = .next (traps s { cause := 0x04, faddr := p.2 }))

/-- VWAIT goes on when every block has ended; RDREPLY takes the oldest entry of the reply queue, or stalls
(R27, R28, R181). VSET gives the shape and its product (R182). -/
def Sys2Proof.Claims.BlockWaitsAndShape : Prop :=
  (∀ s : State, InStrand s → Ready s [] none →
    (s.blocksDone s.cur.unit 0 = true → ∃ t, exec .vwait s = .next t ∧ WentOn s t (s.me.pc + 4)) ∧
    (s.blocksDone s.cur.unit 0 = false → exec .vwait s = .next (stalls s .blocks))) ∧
  (∀ (s : State) (xd : Reg), InStrand s → Ready s [] (some xd) →
    (∀ v rest, s.here.seq.reply = v :: rest → ∃ t, exec (.rdreply xd) s = .next t ∧
      WroteReg (s.modHere fun c => { c with seq := { c.seq with reply := rest } }) t xd v (s.me.pc + 4)) ∧
    (s.here.seq.reply = [] → exec (.rdreply xd) s = .next (stalls s .replyEmpty))) ∧
  ∀ (s : State) (xd xa xb : Reg), InStrand s → Plain s → X s xa ≠ 0 → X s xb ≠ 0 →
    let rows := min (X s xa).toNat 16
    let cols := min (X s xb).toNat 1024
    ∃ t, exec (.vset xd xa xb) s = .next t ∧ t.vc.vrows.toNat = rows ∧ t.vc.vcols.toNat = cols ∧
      WroteReg (s.setVc { s.vc with vrows := BitVec.ofNat 5 rows, vcols := BitVec.ofNat 11 cols }) t xd (BitVec.ofNat 64 (rows * cols)) (s.me.pc + 4)

/-- VFETCH, VFETCHX, VWAIT, RDREPLY and VSET. Completes: vfetch, vfetchx, rdreply, vset, vwait. -/
def Obligations.BlockQueue : Prop :=
  Claims.BlocksAreFetched ∧ Claims.BlockWaitsAndShape

/-- The scratchpad lock: SPLOCK takes it when it is free and nobody waits, a context that holds it may not
take it again; SPUNLK releases it once the context's accesses are performed at core scope; the two are an acquire and
a release of the lock (R128, R186, R187). -/
def Sys2Proof.Claims.ScratchpadLock : Prop :=
  ∀ s : State, Plain s → s.me.trap = .none →
    (s.here.lock = none → s.here.lockQ = [] → exec .splock s = .next (goOn
      (markAcquire (s.modHere fun k => { k with lock := some s.cur.ctx, lockQ := [] }) s.cur.unit s.cur.ctx (lockLocation s.cur.unit)))) ∧
    (∀ h, s.here.lock = some h → h ≠ s.cur.ctx → s.here.lockQ.contains s.cur.ctx = false →
      exec .splock s = .next (stalls (s.modHere fun k => { k with lockQ := k.lockQ ++ [s.cur.ctx] }) .lock)) ∧
    (s.here.lock = some s.cur.ctx → exec .splock s = .next (traps s trapOperand) ∧
      (orderedAt s 0 = true →
        exec .spunlk s = .next (goOn
          ((markRelease s s.cur.unit s.cur.ctx (lockLocation s.cur.unit)).modHere fun k => { k with lock := none })))) ∧
    (s.here.lock ≠ some s.cur.ctx → exec .spunlk s = .next (traps s trapOperand))

/-- SHSYNC makes the context's writes of shared registers visible, YIELD offers its next slot, and FENCE goes
on once every earlier access is performed at its scope (R129, R184, R185, R188). -/
def Sys2Proof.Claims.SynchronisationInstructions : Prop :=
  (∀ s : State, Ready s [] none → Unheld s → ∃ t, exec .shsync s = .next t ∧
    WentOn (s.modHere fun c => { c with xsOld := settleXs c.xsOld s.cur.ctx }) t (s.me.pc + 4)) ∧
  (∀ s : State, Ready s [] none → ∃ t, exec .yield s = .next t ∧ WentOn (s.modMe fun x => { x with yielded := true }) t (s.me.pc + 4)) ∧
  ∀ (s : State) (scope : BitVec 3), Plain s → (scope = 4 → remotePending s = false) →
    (orderedAt s scope = true → exec (.fence scope) s = .next (goOn s)) ∧
    (orderedAt s scope = false → exec (.fence scope) s = .next (stalls s .order))

/-- SPLOCK, SPUNLK, SHSYNC, YIELD and FENCE. Completes: splock, spunlk, fence, shsync, yield. -/
def Obligations.LocksAndFences : Prop :=
  Claims.ScratchpadLock ∧ Claims.SynchronisationInstructions

/-- MONWAIT of a doubleword of device memory: with no monitor there, and a value that differs from Xb, it goes on at
once and leaves no monitor armed; when the monitor has fired it gives the value; with a monitor that has not fired it
stalls (R189). Completes: monwait. -/
def Obligations.MonitoredWait : Prop :=
  ∀ (s : State) (xd xa xb : Reg) (tg : Target), Plain s → (X s xa).toNat % 8 = 0 →
    s.xlate s.cur.unit s.cur.ctx .load false (X s xa) = .ok tg → tg.attr ≠ .device → isHost tg.pa = false →
    let unarmed (t : State) : State := t.modMe fun x => { x with monitor := none }
    let r := paged s (X s xa)
    let clean := r.blockWait s.cur.unit s.cur.ctx tg 8 = false ∧ ownPendOver s tg 8 = false ∧ hostHolds s tg.pa = false ∧
      s.fab.poison.contains (tg.pa / 16) = false
    (s.me.monitor = none → clean → homeDouble s tg ≠ X s xb →
      exec (.monwait xd xa xb) s =
        .next (goOn (setX (unarmed (armMonitor r s.cur.unit s.cur.ctx (tg.pa / 64))) xd (homeDouble s tg)))) ∧
    (s.me.monitor = none → clean → homeDouble s tg = X s xb →
      exec (.monwait xd xa xb) s = .next (stalls (armMonitor r s.cur.unit s.cur.ctx (tg.pa / 64)) .monwait)) ∧
    ∀ m, s.me.monitor = some m → m.line = tg.pa / 64 →
      (m.fired = true → clean → exec (.monwait xd xa xb) s = .next (goOn (setX (unarmed r) xd (homeDouble s tg)))) ∧
      (m.fired = false → exec (.monwait xd xa xb) s = .next (stalls r .monwait))

/-- Taking a trap: the record holds CAUSE, EPC, BWADDR, FADDR, ELEM and X29 to X31, the handler runs privileged at its
entry with X29 the fault address, X30 the cause and X31 the record, and no other byte of memory and no other
register of the context changes (R319, R320, R321). -/
def Sys2Proof.Claims.TrapsAreTaken : Prop :=
  ∀ (s : State) (u c : Nat) (t : TrapInfo) (tg : Target), TrapReady s u c tg →
    let x := s.ctx u c
    let r := takeTrap s u c t
    let y := r.ctx u c
    let rec_ := [causeWord x (isMgmt u) t, t.epc.getD x.pc, t.block.getD 0, t.faddr, t.elem.setWidth 64, x.reg 29, x.reg 30, x.reg 31]
    y.pc = ((trapVec s u &&& 0x00FF_FFFF_FFFF_FFFC#64) + if x.trap = .none then 0 else 0x100) ∧ y.priv = true ∧
      y.trap = (if x.trap = .none then .handler else .nested) ∧ y.stall = none ∧
      (∀ n, y.reg n = if n = 29 then t.faddr else if n = 30 then causeWord x (isMgmt u) t
        else if n = 31 then trapHead s u c + (if x.trap = .none then 0 else 64) else x.reg n) ∧
      ∀ a, r.mem.read a = if tg.pa ≤ a ∧ a < tg.pa + 64 then (wordsBytes rec_).getD (a - tg.pa) 0 else s.mem.read a

/-- The CAUSE doubleword: cause, code, status, and the bits of the mode that the trap interrupts (R319). -/
def Sys2Proof.Claims.CauseDoubleword : Prop :=
  ∀ (x : Ctx) (mgmt : Bool) (t : TrapInfo),
    let w := causeWord x mgmt t
    w.extractLsb' 0 8 = t.cause ∧ w.extractLsb' 8 8 = t.code ∧ w.extractLsb' 16 16 = t.status ∧
      w.getLsbD 32 = (x.priv || mgmt) ∧ w.getLsbD 33 = t.block.isSome ∧ w.getLsbD 34 = x.deferred ∧
      w.getLsbD 35 = (x.trap != .none) ∧ w.extractLsb' 36 28 = 0

/-- A trap in the nested handler, and any trap while TVEC.EN is 0, is a double trap: it stops the context, which keeps
its registers, and writes nothing to memory; on a compute core the partition drains (R318, R321). -/
def Sys2Proof.Claims.DoubleTrapsStop : Prop :=
  ∀ (s : State) (u c : Nat) (t : TrapInfo), c < 8 → (s.ctx u c).trap = .nested ∨ (trapVec s u).getLsbD 0 = false →
    let r := takeTrap s u c t
    (r.ctx u c).stopped = true ∧ (r.ctx u c).pc = (s.ctx u c).pc ∧ (∀ n, (r.ctx u c).reg n = (s.ctx u c).reg n) ∧
      r.mem = s.mem ∧ (isMgmt u = false → ((s.part ((s.partOf u).getD 0)).recov = .run ∨ ∃ n, (s.part ((s.partOf u).getD 0)).recov = .wait n) →
        (r.part ((s.partOf u).getD 0)).recov = .drain)

/-- TRAP and BREAK raise their traps, with the code and the address at which the program goes on; a context that
holds nothing back takes a trap at once (R192, R320). -/
def Sys2Proof.Claims.SoftwareTraps : Prop :=
  (∀ (s : State) (code : BitVec 8), Ready s [] none →
    exec (.trap code) s = .next (traps s { cause := 0x11, code := code, epc := some (s.me.pc + 4) }) ∧
    exec (.break_ code) s = .next (traps s { cause := 0x12, code := code })) ∧
  ∀ (s : State) (t : TrapInfo), Unheld s → t.later = false → traps s t = takeTrap s s.cur.unit s.cur.ctx t

/-- ERET: X29 to X31, EPC and PRIV come from the current record, and the context leaves trap mode, or returns from the
nested handler to the handler; outside trap mode it is illegal (R322). -/
def Sys2Proof.Claims.TrapsReturn : Prop :=
  (∀ s : State, s.me.trap = .none → exec .eret s = .next (traps s trapIllegal)) ∧
  ∀ (s : State) (tg : Target), Privileged s → s.me.trap ≠ .none →
    s.translate s.cur.unit ((s.partOf s.cur.unit).getD 0) true .load false
      (trapHead s s.cur.unit s.cur.ctx + if s.me.trap = .nested then 64 else 0) = .ok tg →
    let w (i : Nat) : Word := bytesBV 64 (view s s.cur.unit s.cur.ctx (tg.pa + 8 * i) 8)
    ∃ t, exec .eret s = .next t ∧ t.mem = s.mem ∧ t.me.pc = w 1 ∧ t.me.priv = (w 0).getLsbD 32 ∧
      t.me.trap = (if s.me.trap = .nested then .handler else .none) ∧ t.me.stall = none ∧
      ∀ n, t.me.reg n = if n = 29 then w 5 else if n = 30 then w 6 else if n = 31 then w 7 else s.me.reg n

/-- Taking a trap, the double trap, the software traps and ERET. Completes: trap, break_, eret. -/
def Obligations.TrapsAndReturns : Prop :=
  Claims.TrapsAreTaken ∧ Claims.CauseDoubleword ∧ Claims.DoubleTrapsStop ∧ Claims.SoftwareTraps ∧
  Claims.TrapsReturn

/-- HEXIT of a handler frees its context, whose send queue stays; of a strand context outside a region, whose blocks
and transfers have completed, ends the strand. A pending error is taken first, also that of a collective of the
context that an error between packages has ended (R18, R19, R187, R254; log entry 87). Completes: hexit. -/
def Obligations.ContextsEnd : Prop :=
  (∀ s : State, Plain s → s.me.trap = .none → s.cur.ctx ≠ 0 → abortedTrap s s.cur.unit s.cur.ctx = none →
    (remotePending s = true → exec .hexit s = .next (traps s trapRemote)) ∧
    (remotePending s = false → ∀ k, failedColl s s.cur.unit s.cur.ctx = some k → exec .hexit s = .next (traps s (trapColl k))) ∧
    (remotePending s = false → failedColl s s.cur.unit s.cur.ctx = none →
      ∃ t, exec .hexit s = .next t ∧ t.me.resident = false ∧ t.me.sendq = s.me.sendq ∧
      t.mem = s.mem ∧ t.here.lock = (if s.here.lock = some s.cur.ctx then none else s.here.lock) ∧
      (∀ c, c ≠ s.cur.ctx → t.ctx s.cur.unit c = s.ctx s.cur.unit c) ∧ ∀ u, u ≠ s.cur.unit → t.core u = s.core u)) ∧
  ∀ (s : State) (h : Nat) (x : Strand), Outside s h x → h ≤ s.cur.unit → s.cur.unit < h + x.size →
    (s.blocksDone s.cur.unit 0 = false → exec .hexit s = .next (stalls s .blocks)) ∧
    (s.blocksDone s.cur.unit 0 = true → transfersDone s s.cur.unit = false → exec .hexit s = .next (stalls s .transfer)) ∧
    (s.blocksDone s.cur.unit 0 = true → transfersDone s s.cur.unit = true → abortedTrap s s.cur.unit 0 = none →
      remotePending s = false → failedColl s s.cur.unit 0 = none →
      ∃ t, exec .hexit s = .next t ∧ t.mem = s.mem ∧ t.me.resident = false ∧
        t.strand? h = some { x with ended := true, flags := x.flags ||| s.vc.flags })

/-- SEND appends the message to the context's send queue, once every earlier access is performed at package
scope and the queue has room; its target must be a core of the partition (R31, R35, R252). -/
def Sys2Proof.Claims.MessagesAreSent : Prop :=
  ∀ (s : State) (xa xb : Reg) (chan : BitVec 6) (n : BitVec 3), Plain s →
    (bits (X s xa) 10 54 ≠ 0 → exec (.send xa xb chan n) s = .next (traps s trapOperand)) ∧
    (bits (X s xa) 10 54 = 0 → s.samePart s.cur.unit (X s xa).toNat = false → exec (.send xa xb chan n) s = .next (traps s trapPartition)) ∧
    (bits (X s xa) 10 54 = 0 → s.samePart s.cur.unit (X s xa).toNat = true → orderedAt s 3 = true →
      (4 ≤ s.me.sendq.length → exec (.send xa xb chan n) s = .next (stalls s .sendFull)) ∧
      (s.me.sendq.length < 4 → exec (.send xa xb chan n) s = .next (goOn (s.modMe fun x =>
        { x with sendq := x.sendq ++ [⟨s.cur.unit, (X s xa).toNat, chan, (payloadRegs xb n).map (X s)⟩] }))))

/-- CHSET writes an entry of the task table, CHBLK and CHUNB write its BLOCKED bit on this core or another of
the partition; a reserved bit of an operand is illegal (R253). -/
def Sys2Proof.Claims.ChannelEntries : Prop :=
  ∀ (s : State) (xa xb : Reg), Plain s →
    (bits (X s xa) 6 58 ≠ 0 → ∀ i ∈ [Instr.chset xa xb, .chblk xa, .chunb xa, .chblkRem xa xb, .chunbRem xa xb],
      exec i s = .next (traps s trapOperand)) ∧
    (bits (X s xa) 6 58 = 0 →
      (zeroBits (X s xb) 56 4 = true → zeroBits (X s xb) 0 2 = true →
        exec (.chset xa xb) s = .next (goOn (s.modHere fun c => { c with table := vset c.table (X s xa).toNat (X s xb) }))) ∧
      exec (.chblk xa) s = .next (goOn (setBlocked s s.cur.unit (X s xa).toNat true)) ∧
      exec (.chunb xa) s = .next (goOn (setBlocked s s.cur.unit (X s xa).toNat false)) ∧
      (bits (X s xb) 10 54 = 0 → s.samePart s.cur.unit (X s xb).toNat = false →
        exec (.chblkRem xa xb) s = .next (traps s trapPartition) ∧ exec (.chunbRem xa xb) s = .next (traps s trapPartition)) ∧
      (bits (X s xb) 10 54 = 0 → s.samePart s.cur.unit (X s xb).toNat = true → s.vaulting (X s xb).toNat = false →
        (s.me.sendq.any fun m => m.dst == (X s xb).toNat) = false →
        exec (.chblkRem xa xb) s = .next (goOn (setBlocked s (X s xb).toNat (X s xa).toNat true)) ∧
        exec (.chunbRem xa xb) s = .next (goOn (setBlocked s (X s xb).toNat (X s xa).toNat false))))

/-- SEND appends a message; CHSET, CHBLK and CHUNB write the task table. Completes: send, chset, chblk, chblkRem,
chunb, chunbRem. -/
def Obligations.MessagesAndChannels : Prop :=
  Claims.MessagesAreSent ∧ Claims.ChannelEntries

/-- The oldest message of a send queue enters the inbound queue of its destination, which holds 32; while
that core is being vaulted it is held at the ring (R31, R252, R350). -/
def Sys2Proof.Claims.SendQueuesMoveOn : Prop :=
  ∀ (s : State) (u c : Nat) (m : Msg) (rest : List Msg), (s.ctx u c).sendq = m :: rest → s.vaulting u = false →
    let sent := s.modCtx u c fun x => { x with sendq := rest }
    (s.vaulting m.dst = false → (s.core m.dst).inq.length < 32 →
      exec (.sendQueueTransfer u c) s = .next (sent.modCore m.dst fun k => { k with inq := k.inq ++ [m] })) ∧
    (∀ v, (s.ring (ringOf m.dst)).vault = some v → s.vaulting m.dst = true → (s.core m.dst).inq.length + v.held.length < 32 →
      exec (.sendQueueTransfer u c) s = .next (sent.modRing (ringOf m.dst) fun r => { r with vault := some { v with held := v.held ++ [m] } }))

/-- The message that starts is startable, no startable one has a higher priority, and none of its priority
entered the queue before it (R32). -/
def Sys2Proof.Claims.MessageChoice : Prop :=
  ∀ (c : Core) (k p : Nat), pickMessage c = some (k, p) →
    StartableAt c k p ∧ ∀ j q, StartableAt c j q → q ≤ p ∧ (j < k → q < p)

/-- A message starts in the lowest-numbered free context from 1 to 7: its payload stands in X1 up, X7 tells
what it is, it runs at its entry's address with its entry's priority, and its queue entry is freed (R32, R33). -/
def Sys2Proof.Claims.HandlersStart : Prop :=
  ∀ (s : State) (u i k p : Nat) (m : Msg), startsHeld s u = false → 1 ≤ i → i < 8 → ((s.core u).ctx i).resident = false →
    (∀ j, 1 ≤ j → j < i → ((s.core u).ctx j).resident = true) → pickMessage (s.core u) = some (k, p) →
    (s.core u).inq[k]? = some m → m.payload.length ≤ 6 →
    let e := vget (s.core u).table 0 m.chan.toNat
    ∃ t, exec (.messageStart u) s = .next t ∧ t.mem = s.mem ∧ (t.core u).inq = listDel (s.core u).inq k ∧
      (t.ctx u i).resident = true ∧ (t.ctx u i).pc = (e &&& 0x00FF_FFFF_FFFF_FFFC#64) ∧ (t.ctx u i).prio.toNat = bits e 60 2 ∧
      (t.ctx u i).sendq = (s.ctx u i).sendq ∧
      (∀ r, 1 ≤ r → r ≤ 6 → (t.ctx u i).reg r = m.payload.getD (r - 1) 0) ∧
      (t.ctx u i).reg 7 = (0#45 ++ BitVec.ofNat 3 m.payload.length ++ m.chan ++ BitVec.ofNat 10 m.src) ∧
      (∀ r, 8 ≤ r → r < 32 → (t.ctx u i).reg r = 0) ∧ ∀ j, j ≠ i → t.ctx u j = s.ctx u j

/-- Messages cross the send queues, are chosen by priority and age, and start handlers. Completes: sendQueueTransfer,
messageStart. -/
def Obligations.MessageDelivery : Prop :=
  Claims.SendQueuesMoveOn ∧ Claims.MessageChoice ∧ Claims.HandlersStart

/-- Doublewords that a context can load, aligned and at hand, are read as it sees them, and reading them
changes no byte of memory (R170, R255, R256). -/
def Sys2Proof.Claims.DescriptorsAreRead : Prop :=
  ∀ (n : Nat) (s : State) (va : Word) (tg : Nat → Target), Plain s →
    (∀ i < n, LoadReady s (va + BitVec.ofNat 64 (8 * i)) 8 (tg i)) →
    ∃ s1, readWords s va n = .ok ((List.range n).map fun i => seenDouble s (tg i), s1) ∧ BytesKept s s1 ∧ s1.cur = s.cur ∧
      s1.me = s.me ∧ s1.now = s.now

/-- TSPAWN of an image that passes its checks, once every earlier access is performed at package scope:
a node is allocated, and the task goes to its order point; an image that fails one is an illegal operand. Once the task
has had its turn there, with its links, Xd receives its handle (log entry 55); until then TSPAWN stalls. TWAIT goes
on once the task has completed, and otherwise stalls (R255, R291 to R293). -/
def Sys2Proof.Claims.TasksAreSpawnedAndAwaited : Prop :=
  (∀ (s s1 : State) (xd xa : Reg) (l : List Word), Plain s → s.me.spawning = none → orderedAt s 3 = true → Described s (X s xa) 16 l s1 →
    let i := Image.ofWords l
    let p := s1.issuePart s1.cur.unit s1.cur.ctx
    let origin := if originFromImage s1 then i.origin else s1.originOf s1.cur.unit
    let r := allocNode s1 (dieOf s1.cur.unit) p (some i.queueNo) i origin (spawnKey s1.cur.unit s1.cur.ctx)
    (imageOk s1 p i = false → exec (.tspawn xd xa) s = .next (traps s trapOperand)) ∧
    (SpawnOk s1 p i → exec (.tspawn xd xa) s = .next (stalls (r.2.modMe fun x => { x with spawning := some r.1 }) .scheduler))) ∧
  (∀ (s : State) (xd xa : Reg) (h : Word),
    (Spawned s h → exec (.tspawn xd xa) s = .next (goOn (setX (s.modMe fun x => { x with spawning := none }) xd h))) ∧
    (Plain s → s.me.spawning = some h → s.spawnWaits h = true → exec (.tspawn xd xa) s = .next (stalls s .scheduler))) ∧
  ∀ (s : State) (xa : Reg), Plain s → match s.named (s.issuePart s.cur.unit s.cur.ctx) (X s xa) with
    | .bad => exec (.twait xa) s = .next (traps s trapOperand)
    | .completed => exec (.twait xa) s = .next (goOn s)
    | .live _ _ => exec (.twait xa) s = .next (stalls s .task)

/-- The handle that an allocation gives names the new task, which has not reached its order point (R255, R292). -/
def Sys2Proof.Claims.HandleNamesTheTask : Prop :=
  ∀ (s : State) (d p : Nat) (q : Option Nat) (i : Image) (origin : Word) (by_ : Nat), d < 8 →
    ((s.ringsOf p).any fun r => r / 8 == d) = true →
    let r := allocNode s d p q i origin by_
    ∃ k n, r.2.named p r.1 = .live d k ∧ (r.2.die d).nodes.find? k = some n ∧ n.st = .spawned ∧ n.part = p ∧ n.queue = q ∧
      n.entry = i.entry ∧ n.arg = i.arg ∧ n.origin = origin

/-- TSPAWN and TWAIT, and the handle that a task gets. Completes: tspawn, twait. -/
def Obligations.TasksAreSpawned : Prop :=
  Claims.DescriptorsAreRead ∧ Claims.TasksAreSpawnedAndAwaited ∧ Claims.HandleNamesTheTask

/-- At its order point, on its turn among the TSPAWNs of one control cycle, a task receives its distinct
predecessors: with none it is ready, otherwise it waits for as many completions. CONS of the queue goes past an image
that a launch unit picked up (R288, R289, R292, R293; log entry 55). -/
def Sys2Proof.Claims.OrderPoint : Prop :=
  ∀ (s s1 : State) (d k : Nat) (n : Node), (s.die d).nodes.find? k = some n → n.st = .spawned → s.placing n.part = true → orderTurn s n = true →
    linksFree s none (predsOf s n.part n.queue n.ranges n.preds) = true →
    (n.launched = none → s1 = s) →
    (∀ q, n.launched = some q → let va := (s.queue (4 * n.part + q)).header + 64
      ∃ tg rd, s.deviceXlate n.part true va = .ok tg ∧ s.deviceXlate n.part false va = .ok rd ∧ s.hostKeeps (rd.pa / 64) = false ∧
        s.writable (tg.pa / 64) = true ∧ s1 = homeWrite s none none n.part tg.attr tg.pa (bvBytes 8 (BitVec.ofNat 64 (s.mem.readLe rd.pa 8) + 1))) →
    ∃ t m, exec (.taskOrderPoint d k) s = .next t ∧ t.mem = s1.mem ∧ t.cores = s1.cores ∧ (t.die d).nodes.find? k = some m ∧
      m.count = (predsOf s n.part n.queue n.ranges n.preds).length ∧
      m.st = (if predsOf s n.part n.queue n.ranges n.preds = [] then .ready else .wait)

/-- The node that is placed next is ready and fits, and no other ready node that fits comes before it in the
order of R294. -/
def Sys2Proof.Claims.PlacementOrder : Prop :=
  ∀ (s : State) (p : Nat) (x : Nat × Nat × Node) (c : Nat), nextPlacement s p = some (x, c) →
    FitsAt s p x c ∧ ∀ y e, FitsAt s p y e → placedBefore s y x = false

/-- A placement starts the strand of the node on its span: it stands at the entry with X1 the argument, X2
its first core and size and every other register 0, and the cores of the span belong to it (R13, R294). -/
def Sys2Proof.Claims.StrandsStart : Prop :=
  ∀ (s : State) (d p k c : Nat) (n : Node), s.placing p = true → s.pkg.faulted = false → rateOk (s.die d).lastPlace s.now 8 = true →
    nextPlacement s p = some ((d, k, n), c) →
    ∃ t, exec (.taskPlacement d p) s = .next t ∧ t.mem = s.mem ∧ (t.ctx c 0).resident = true ∧ (t.ctx c 0).pc = n.entry ∧
      (t.ctx c 0).reg 1 = n.arg ∧ (t.ctx c 0).reg 2 = BitVec.ofNat 64 (c + 2 ^ 16 * n.size) ∧
      (∀ r, 3 ≤ r → r < 32 → (t.ctx c 0).reg r = 0) ∧ (t.core c).v = {} ∧ (∀ i < n.size, (t.core (c + i)).strand = some c) ∧
      (∃ x, t.strand? c = some x ∧ x.part = n.part ∧ x.node = (d, k) ∧ x.size = n.size ∧ x.region = none) ∧
      (t.die d).lastPlace = some s.now

/-- Order points, the order of placement and the start of a strand. Completes: taskOrderPoint, taskPlacement. -/
def Obligations.TasksAreScheduled : Prop :=
  Claims.OrderPoint ∧ Claims.PlacementOrder ∧ Claims.StrandsStart

/-- A strand that has ended completes once its stores, and those that it has read, are performed: its span and its node are released, and
DONE of its queue has risen by one, performed at its home (R18, R128, R286, R292). Of a strand whose node a drain has
discarded, only the span is released (R301). -/
def Sys2Proof.Claims.TasksComplete : Prop :=
  ∀ (s s1 : State) (h : Nat) (x : Strand) (n : Node), s.strand? h = some x → x.ended = true →
    strandPending s h x = false → (s.die x.node.1).nodes.find? x.node.2 = some n →
    (n.part ≠ x.part ∨ n.st ≠ .placed → exec (.taskCompletion h) s = .next (releaseSpan s h x)) ∧
    (n.part = x.part → n.st = .placed → (n.queue = none → s1 = s) →
    (∀ q, n.queue = some q → let va := (s.queue (4 * n.part + q)).header + 72
      ∃ tg rd, s.deviceXlate n.part true va = .ok tg ∧ s.deviceXlate n.part false va = .ok rd ∧ s.hostKeeps (rd.pa / 64) = false ∧
        s.writable (tg.pa / 64) = true ∧ s1 = homeWrite s none none n.part tg.attr tg.pa (bvBytes 8 (BitVec.ofNat 64 (s.mem.readLe rd.pa 8) + 1))) →
    ∃ t, exec (.taskCompletion h) s = .next t ∧ t.mem = s1.mem ∧ t.strand? h = none ∧
      (t.die x.node.1).nodes.find? x.node.2 = none ∧ ∀ i < x.size, (t.core (h + i)).strand = none)

/-- The launch unit takes the image at CONS of an enabled queue, when none that it has taken waits for its order point: a
good image gets a node, and CONS goes on at the order point (log entry 55); for a bad one CONS rises by one and an error
record of kind 16 is written (R288, R289). -/
def Sys2Proof.Claims.LaunchUnitTakesImages : Prop :=
  ∀ (s : State) (p q : Nat), q < 4 → (s.part p).launchMode = 0 → (s.queue (4 * p + q)).qctl.getLsbD 63 = true →
    s.placing p = true → rateOk (s.queue (4 * p + q)).lastLaunch s.now 16 = true → s.ownsRing p = true →
    let k := s.queue (4 * p + q)
    let cons := deviceGet s p (k.header + 64)
    let va := (k.qarea &&& 0x00FF_FFFF_FFFF_FF80#64) + BitVec.ofNat 64 (128 * (cons.toNat % 2 ^ bits k.qctl 0 5))
    let i := Image.ofWords (deviceWords s p va 16)
    let d := bits k.qctl 56 3
    let noted (s : State) : State := s.modQueue (4 * p + q) fun k => { k with lastLaunch := some s.now }
    launchBusy s p (launchKey d q) = false →
    deviceReady s p k.header = true → deviceReady s p (k.header + 64) = true →
    (∀ j < 16, deviceReady s p (va + BitVec.ofNat 64 (8 * j)) = true) →
    deviceGet s p k.header ≠ cons →
    ∀ tg, s.deviceXlate p true (k.header + 64) = .ok tg →
      (imageOk s p i = true → nodeRoom s d i.ranges = true →
        linksFree s (some d) (predsOf s p (some i.queueNo) i.ranges i.preds) = true →
        exec (.launchPickup p q) s = .next (allocNode (noted s) d p (some i.queueNo) i i.origin (launchKey d q)).2) ∧
      (imageOk s p i = false → s.writable (tg.pa / 64) = true →
        let s2 := noted (homeWrite s none none p tg.attr tg.pa (bvBytes 8 (cons + 1)))
        exec (.launchPickup p q) s = .next (s2.logErr (some p) d
          (errRec (errWord0 16 p d 0 0x1F 0x3FF 0) (BitVec.ofNat 64 s2.time) va (BitVec.ofNat 64 q) i.origin 0 0)))

/-- The completion of tasks, and the launch unit. Completes: taskCompletion, launchPickup. -/
def Obligations.TasksCompleteAndLaunch : Prop :=
  Claims.TasksComplete ∧ Claims.LaunchUnitTakesImages

/-- RTCOPY and RTGATH of an image that passes its checks: a copy is in flight with what the image says, Xd
receives its handle, and no byte has moved yet; a chunk predicate starts at zero (R134, R256, R257). -/
def Sys2Proof.Claims.CopiesAreIssued : Prop :=
  ∀ p ∈ copyForms, ∀ (s : State) (xd xa : Reg) (i : CopyImage), Plain s → CopyOk s p.2 xa i →
    ∃ t c, exec (p.1 xd xa) s = .next t ∧
      WroteReg (startCopy s i (if p.2 then some (gatherIndex s true i) else none) (copySides s p.2 i)) t xd
        (s.here.copyNo.setWidth 64) (s.me.pc + 4) ∧
      t.mem = s.mem ∧ t.here.sp = s.here.sp ∧ t.here.copies = s.here.copies ++ [c] ∧ c.handle = s.here.copyNo ∧ c.landed = [] ∧
      c.src = i.src ∧ c.dst = i.dst ∧ c.dims = i.dims ∧ c.esize = i.esize ∧ c.chunks = chunkCount i.esize i.dims ∧
      (i.pred = 0 → t.vc = s.vc) ∧ (i.pred ≠ 0 → vget t.vc.p 1 i.pred.toNat = 0)

/-- RTWAIT takes the trap of a copy of the core with the handle that has aborted, before it looks at its operand;
otherwise it goes on when no copy has the handle, and stalls while one has. So it does for the copies that a
strand issued on another core before it was pre-empted (R258, R259, R315, R327; which copies those are, by the strand's park
numbers, is the model's: log entry 42). -/
def Sys2Proof.Claims.CopiesAreAwaited : Prop :=
  ∀ (s : State) (xa : Reg), Plain s →
    let h : BitVec 32 := (X s xa).setWidth 32
    let old := s.parks s.cur.unit s.cur.ctx
    let before := (s.streamCopies s.cur.unit s.cur.ctx).any fun c => old.contains c.2.ctx && c.2.handle == h
    (∀ a, s.here.aborted.find? (fun a => a.1 == h) = some a →
      exec (.rtwait xa) s = .next (traps s { cause := 0x0D, faddr := a.2.2, clears := .copy s.cur.unit h })) ∧
    (s.here.aborted.find? (fun a => a.1 == h) = none →
      (∀ a, old ≠ [] → (s.streamAborted s.cur.unit s.cur.ctx).find? (fun a => a.2.1 == h) = some a →
        exec (.rtwait xa) s = .next (traps s { cause := 0x0D, faddr := a.2.2, clears := .copy a.1 h })) ∧
      (old = [] ∨ (s.streamAborted s.cur.unit s.cur.ctx).find? (fun a => a.2.1 == h) = none →
        (bits (X s xa) 32 32 ≠ 0 → exec (.rtwait xa) s = .next (traps s trapOperand)) ∧
        (bits (X s xa) 32 32 = 0 →
          ((s.here.copies.any fun c => c.handle == h) = true ∨ before = true → exec (.rtwait xa) s = .next (stalls s .transfer)) ∧
          ((s.here.copies.any fun c => c.handle == h) = false → before = false → exec (.rtwait xa) s = .next (goOn s)))))

/-- RTCOPY, RTGATH and RTWAIT. Completes: rtcopy, rtgath, rtwait. -/
def Obligations.CopiesAreIssuedAndAwaited : Prop :=
  Claims.CopiesAreIssued ∧ Claims.CopiesAreAwaited

/-- A chunk of one element whose turn it is lands, when nothing earlier of its context still touches its bytes: from
memory its bytes are those that the context sees, from a scratchpad those of the source core, and they go into the
scratchpad of the destination core or to their place in memory. Only the destination's bytes change (R108, R111, R112,
R134, R135, R257). -/
def Sys2Proof.Claims.ChunksLand : Prop :=
  ∀ (s : State) (u k : Nat) (c : Copy) (sa da : Word), (s.core u).copies = [c] → k < c.chunks → c.landed = [] → c.before = [] →
    copyReady s u c = true → chunkTurn c k = true → together c k = [k] → c.elems k = [(sa, da)] → s.speculative u c.ctx = false →
    let free (from_ dest : Place) : Prop := earlierCopy s u c [⟨from_, dest, sa, da⟩] = false ∧
      earlierBlock s u c [⟨from_, dest, sa, da⟩] = false ∧ destsReady s u c [⟨from_, dest, sa, da⟩] = true
    let pad : Place := .pad c.dcore da.toNat
    let run := exec (.chunkLanding (.retriever u c.handle) k) s
    let landed (t : State) : Prop := (t.core u).copies.map (·.landed) = [[k]]
    (∀ (tg : Target) (a : Nat), c.srck = 0 → c.dstk ≠ 0 → copyXlate s u c false sa = .ok tg → free (.mem tg) pad →
      loadWaits (copySees s u c) u c.ctx tg.pa c.esize = false → insideOver s u c.ctx (issuedBefore c.seq) tg c.esize = false →
      CleanAt (copySees s u c) u c.ctx tg.pa c.esize →
      (tg.attr.cached = true → remoteHome u (tg.pa / 64) = true → linePending s (tg.pa / 64) = false ∧ s.lineWaited (tg.pa / 64) = false) →
      ∃ t, run = .next t ∧ t.mem = s.mem ∧ landed t ∧ (t.core c.dcore).sp.read a =
        if da.toNat ≤ a ∧ a < da.toNat + c.esize then viewByte (copySees s u c) u c.ctx (tg.pa + (a - da.toNat)) else (s.core c.dcore).sp.read a) ∧
    (∀ a : Nat, c.srck ≠ 0 → c.dstk ≠ 0 → free (.pad c.score sa.toNat) pad → s.speculative c.score 0 = false →
      ∃ t, run = .next t ∧ t.mem = s.mem ∧ landed t ∧ (t.core c.dcore).sp.read a =
        if da.toNat ≤ a ∧ a < da.toNat + c.esize then (s.core c.score).sp.read (sa.toNat + (a - da.toNat)) else (s.core c.dcore).sp.read a) ∧
    ∀ (tg : Target) (a : Nat), c.srck ≠ 0 → c.dstk = 0 → copyXlate s u c true da = .ok tg → free (.pad c.score sa.toNat) (.mem tg) →
      s.speculative c.score 0 = false → s.speculative u 0 = false →
      (tg.attr ≠ .errorTolerant ∨ ∀ x ∈ sectorsOf tg.pa c.esize, x ∉ s.fab.poison) →
      ∃ t, run = .next t ∧ landed t ∧ t.mem.read a =
        if tg.pa ≤ a ∧ a < tg.pa + c.esize then (s.core c.score).sp.read (sa.toNat + (a - tg.pa)) else s.mem.read a

/-- A copy all of whose chunks have landed completes: its handle is no longer in flight (R259). A chunk whose
address does not translate pauses the copy, and a record of the fault waits for its partition's duty (R258). -/
def Sys2Proof.Claims.CopiesEnd : Prop :=
  ∀ (s : State) (u : Nat) (c : Copy), (s.core u).copies.find? (fun x => x.handle == c.handle) = some c →
    (c.landed.length = c.chunks → exec (.copyCompletion u c.handle) s =
      .next (s.modCore u fun k => { k with copies := k.copies.filter fun x => x.handle != c.handle })) ∧
    ∀ (chunk : Nat) (st : BitVec 16) (va : Word), c.landed.contains chunk = false → copyReady s u c = true →
      s.speculative u c.ctx = false → chunkFault s u c chunk = some (st, va) →
      ∃ t, exec (.retrieverPageFault u c.handle chunk) s = .next t ∧ t.mem = s.mem ∧
        t.pkg.pfaults.find? s.pkg.nextFault = some ⟨c.part, va, st, .copy u c.handle, BitVec.ofNat 2 (s.part c.part).pfaultMode⟩ ∧
        (t.core u).copies = (s.core u).copies.map fun y => if y.handle = c.handle then { y with paused := some s.pkg.nextFault } else y

/-- Chunks of a copy land in their bytes, and the copy completes or pauses. Completes: chunkLanding, copyCompletion,
retrieverPageFault. -/
def Obligations.CopiesMoveChunks : Prop :=
  Claims.ChunksLand ∧ Claims.CopiesEnd

/-- Remote operations on this package's own memory: RLOAD gives the value at its home, zero-extended; the
RAMO family reads and writes there; RSTORE completes when it is on its way to the home (R114, R142, R260). -/
def Sys2Proof.Claims.RemoteOperationsHere : Prop :=
  ∀ (s : State) (xd xa xb : Reg) (pod : BitVec 4), Plain s →
    let p := s.issuePart s.cur.unit s.cur.ctx
    (∀ tg, s.fab.poison.contains (tg.pa / 16) = false → s.hostKeeps (tg.pa / 64) = false → NoReply s →
      (∀ sz : BitVec 2, PairOk s xa (2 ^ sz.toNat) pod → PairHere s xa (2 ^ sz.toNat) false tg →
        exec (.rload xd xa sz) s = .next (goOn (setX s xd (zext (8 * 2 ^ sz.toNat) (s.mem.readLe tg.pa (2 ^ sz.toNat)))))) ∧
      (PairOk s xa 8 pod → PairHere s xa 8 true tg → s.deviceXlate p false (X s xa) = .ok tg → s.writable (tg.pa / 64) = true →
        let put (w : Word) : State := homeWrite s none none p tg.attr tg.pa (bvBytes 8 w)
        (∀ f ∈ ramoForms, exec (f.1 xd xa xb) s =
          .next (goOn (setX (put (f.2.2 (homeDouble s tg) (X s xb))) xd (homeDouble s tg)))) ∧
        exec (.ramocas xd xa xb) s =
          .next (goOn (setX (if homeDouble s tg = X s xd then put (X s xb) else s) xd (homeDouble s tg))))) ∧
    ∀ sz : BitVec 2, PairOk s xa (2 ^ sz.toNat) pod → (X s (pairReg xa)).toNat = s.pkg.id →
      exec (.rstore xd xa sz) s = .next (goOn (sendInside s pod (X s xa) (.store sz (X s xd))))

/-- Remote operations on another package: the request takes the route's station; RLOAD and the RAMO family
wait for the reply and then give its value, RSTORE completes at once. Without a route or a POD the loads
trap, and RSTORE leaves an error pending (R260, R315, R365). -/
def Sys2Proof.Claims.RemoteOperationsElsewhere : Prop :=
  ∀ (s : State) (xd xa xb : Reg) (pod : BitVec 4) (k : Nat), Plain s →
    let pkg := (X s (pairReg xa)).toNat
    let ops (sz : BitVec 2) : List (Instr × Nat × RemoteOp) :=
      (.rload xd xa sz, 2 ^ sz.toNat, .load sz) :: (.ramocas xd xa xb, 8, .amo 2 (X s xd) (X s xb)) ::
        ramoForms.map fun f => (f.1 xd xa xb, 8, .amo f.2.1 (X s xd) (X s xb))
    (∀ sz, ∀ o ∈ ops sz, PairBits s xa o.2.1 →
      (∀ v, s.me.reply = some (v, true) →
        exec o.1 s = .next (goOn (setX (s.modMe fun x => { x with reply := none }) xd (zext (8 * o.2.1) v.toNat)))) ∧
      (∀ v, s.me.reply = some (v, false) → exec o.1 s = .next (traps s { cause := 0x0E, clears := .reply })) ∧
      (NoReply s → podOf s s.cur.unit s.cur.ctx = none → exec o.1 s = .next (traps s trapNoRoute)) ∧
      (NoReply s → podOf s s.cur.unit s.cur.ctx = some pod → pkg ≠ s.pkg.id →
        (s.pkg.route pkg (X s xa) = some k → exec o.1 s = .next (stalls (sendRemote s pkg k pod (X s xa) o.2.2 true) .remote)) ∧
        (s.pkg.route pkg (X s xa) = none → exec o.1 s = .next (traps s trapNoRoute)))) ∧
    (∀ sz : BitVec 2, PairBits s xa (2 ^ sz.toNat) →
      (podOf s s.cur.unit s.cur.ctx = none → exec (.rstore xd xa sz) s = .next (goOn (setRemErr s))) ∧
      (podOf s s.cur.unit s.cur.ctx = some pod → pkg ≠ s.pkg.id →
        (s.pkg.route pkg (X s xa) = some k →
          exec (.rstore xd xa sz) s = .next (goOn (sendRemote s pkg k pod (X s xa) (.store sz (X s xd)) false))) ∧
        (s.pkg.route pkg (X s xa) = none → exec (.rstore xd xa sz) s = .next (goOn (setRemErr s)))))

/-- RLOAD, RSTORE and the RAMO family here and on another package. Completes: rload, rstore, ramoadd, ramoswp,
ramocas, ramomin, ramomax, ramominn, ramomaxn, ramoand, ramoor, ramoxor. -/
def Obligations.RemoteOperations : Prop :=
  Claims.RemoteOperationsHere ∧ Claims.RemoteOperationsElsewhere

/-- RCOPY of a descriptor that passes its checks is in flight, with no chunk landed; without a POD, or a route for its
first request, it leaves an error pending. Once every chunk has landed, and everything that the flag write releases is
performed, its flag is written, if it names one, and the copy has completed (R127, R143, R260, R261, R365, R366). -/
def Sys2Proof.Claims.RemoteCopies : Prop :=
  (∀ (s s1 : State) (xa : Reg) (l : List Word), Plain s → Described s (X s xa) 8 l s1 →
    let w (i : Nat) : Word := l.getD i 0
    (∀ t, rcopyTrap l (X s1 xa) = some t → exec (.rcopy xa) s = .next (traps s t)) ∧
    (rcopyTrap l (X s1 xa) = none → (s1.me.rcopies.filter fun r => !r.orphan).length < 8 →
      (podOf s1 s1.cur.unit s1.cur.ctx = none → exec (.rcopy xa) s = .next (finish s (.done (setRemErr s1)))) ∧
      ∀ pod, podOf s1 s1.cur.unit s1.cur.ctx = some pod →
        let first : Option Word := if w 2 ≠ 0 then some (w 1) else if w 4 ≠ 0 then some (w 4) else none
        ((w 3).toNat ≠ s1.pkg.id → (∃ va, first = some va ∧ s1.pkg.route (w 3).toNat va = none) →
          exec (.rcopy xa) s = .next (finish s (.done (setRemErr s1)))) ∧
        ((w 3).toNat = s1.pkg.id ∨ (∀ va, first = some va → (s1.pkg.route (w 3).toNat va).isSome = true) →
          exec (.rcopy xa) s = .next (finish s (.done (startRcopy s1 l pod)))))) ∧
  (∀ (s : State) (l : List Word) (pod : BitVec 4), s.cur.ctx < 8 →
    ∃ r, (startRcopy s l pod).me.rcopies = s.me.rcopies ++ [r] ∧ (startRcopy s l pod).mem = s.mem ∧ r.id = s.me.ropNo ∧ r.landed = [] ∧
      r.src = (l.getD 0 0).toNat ∧ r.dst = l.getD 1 0 ∧ r.len = (l.getD 2 0).toNat ∧ r.pkg = (l.getD 3 0).toNat ∧
      r.flagVa = l.getD 4 0 ∧ r.flagVal = l.getD 5 0 ∧ r.pod = pod ∧ r.orphan = false) ∧
  ∀ (s : State) (u c id : Nat) (r : RCopy), (s.ctx u c).rcopies.find? (fun r => r.id == id) = some r →
    r.chunks ≤ r.landed.length → faultOpen s (.rcopy u c id) = false → flagReady s u c r = true →
    (r.flagVa = 0 → exec (.rcopyFlagWrite u c id) s = .next (dropRcopy s u c id)) ∧
    (r.flagVa ≠ 0 → r.pkg ≠ s.pkg.id → (s.pkg.route r.pkg r.flagVa).isSome = true → exec (.rcopyFlagWrite u c id) s =
      .next (dropRcopy (s.modPkg fun p => { p with wire := (r.pkg, r.pod, r.flagVa, .flag r.flagVal) :: p.wire }) u c id)) ∧
    ∀ tg, r.flagVa ≠ 0 → r.pkg = s.pkg.id → r.flagVa.toNat % 8 = 0 → s.deviceXlate (s.issuePart u c) true r.flagVa = .ok tg →
      s.writable (tg.pa / 64) = true → exec (.rcopyFlagWrite u c id) s =
        .next (dropRcopy (homeWrite s none none (s.issuePart u c) tg.attr tg.pa (bvBytes 8 r.flagVal)) u c id)

/-- A chunk of an RCOPY whose source is clean and may be read: its bytes are those that the context sees, and it counts
as landed. To another package it leaves as one request; in this package its bytes are written at their homes, once
every home takes them (R134, R143, R261). -/
def Sys2Proof.Claims.RemoteChunksLand : Prop :=
  ∀ (s : State) (u c id k : Nat) (r : RCopy) (l : List Target), (s.ctx u c).rcopies.find? (fun r => r.id == id) = some r →
    k < r.chunks → r.landed.contains k = false → faultOpen s (.rcopy u c id) = false →
    rcopySources s u c (r.src + 4096 * k) (r.chunkLen k / 8) = .ok l → rcopyReady s u c r l = true → rcopyBehind s u c r k = false →
    (∀ t ∈ l, CleanAt (seesFrom s u c r.leg) u c t.pa 8) →
    let bytes := l.flatMap fun t => view (seesFrom s u c r.leg) u c t.pa 8
    let va := r.dst + BitVec.ofNat 64 (4096 * k)
    let s1 := s.fillPage u c (BitVec.ofNat 64 (r.src + 4096 * k))
    let run := exec (.chunkLanding (.rcopy u c id) k) s
    let landed (t : State) : Prop := ((t.ctx u c).rcopies.find? fun r => r.id == id).map (·.landed) = some (insertNat k r.landed)
    (r.pkg ≠ s.pkg.id → (s.pkg.route r.pkg va).isSome = true →
      ∃ t, run = .next t ∧ t.mem = s.mem ∧ landed t ∧ t.pkg.wire = (r.pkg, r.pod, va, .bulk bytes []) :: s.pkg.wire) ∧
    ∀ places, r.pkg = s.pkg.id → pieceTargets s1 (s.issuePart u c) true (pieces va bytes) = .ok places →
      (∀ x ∈ places, s.writable (x.1.pa / 64) = true) →
      ∃ t, run = .next t ∧ landed t ∧
        t.mem = (places.foldl (fun s x => homeWrite s none none (s1.issuePart u c) x.1.attr x.1.pa x.2) s1).mem

/-- What other packages send: a reply reaches the context that waits for it, an error is pending in the one
that stored, and a request is served by the partition that is paired with its POD. A request of this package is its
own RSTORE, performed at the home slice (R142, R260, R365). -/
def Sys2Proof.Claims.RemoteAnswers : Prop :=
  (∀ (s : State) (u c id : Nat) (v : Word) (ok : Bool) (r : ROp), c < 8 → (s.ctx u c).rops.find? (fun r => r.id == id) = some r →
    ∃ t, exec (.remoteReply u c id v ok) s = .next t ∧ t.mem = s.mem ∧
      (t.ctx u c).rops = (s.ctx u c).rops.filter (fun y => y.id != id) ∧
      (r.store = false → (t.ctx u c).reply = some (v, ok) ∧ (t.ctx u c).remErr = (s.ctx u c).remErr) ∧
      (r.store = true → (t.ctx u c).reply = (s.ctx u c).reply ∧ (t.ctx u c).remErr = ((s.ctx u c).remErr || !ok))) ∧
  (∀ (s : State) (u c id : Nat) (r : ROp), c < 8 → (s.ctx u c).rops.find? (fun r => r.id == id && r.store) = some r →
    (s.ctx u c).rcopies = [] →
    ∃ t, exec (.remoteError u c id) s = .next t ∧ (t.ctx u c).remErr = true ∧ (t.ctx u c).rops = (s.ctx u c).rops.filter (fun y => y.id != id)) ∧
  (∀ (s : State) (src : Nat) (pod : BitVec 4) (va : Word) (op : RemoteOp), src ≠ s.pkg.id → faultOpen s (.remote src) = false →
    s.pkg.faulted = false →
    (pairedPart s pod = none → exec (.remoteRequest src pod va op) s = .next (reply s src false 0)) ∧
    ∀ p v n s1, pairedPart s pod = some p → serve s (.remote src) p va op = .ok v n s1 →
      exec (.remoteRequest src pod va op) s = .next (reply s1 src true v)) ∧
  (∀ (s : State) (w : Waiter) (p : Nat) (va v : Word) (tg : Target), va.toNat % 8 = 0 →
    (s.deviceXlate p false va = .ok tg → s.hostKeeps (tg.pa / 64) = false → s.fab.poison.contains (tg.pa / 16) = false →
      serve s w p va (.load 3) = .ok (homeDouble s tg) 0 s) ∧
    (s.deviceXlate p true va = .ok tg → s.writable (tg.pa / 64) = true →
      serve s w p va (.store 3 v) = .ok 0 0 (homeWrite s none none p tg.attr tg.pa (bvBytes 8 v)))) ∧
  ∀ (s : State) (x : Sent) (pod : BitVec 4) (tg : Target) (v : Word), insideFor s x.va (.store 3 v) = some x → s.pkg.faulted = false →
    faultOpen s (.inside x.unit x.ctx x.id) = false → x.va.toNat % 8 = 0 →
    s.deviceXlate (s.issuePart x.unit x.ctx) true x.va = .ok tg → s.writable (tg.pa / 64) = true →
    ∃ t, exec (.remoteRequest s.pkg.id pod x.va (.store 3 v)) s = .next t ∧
      t.mem = (homeWrite s none none (s.issuePart x.unit x.ctx) tg.attr tg.pa (bvBytes 8 v)).mem ∧
      t.pkg.inside = s.pkg.inside.filter (· != x) ∧ (x.ctx < 8 → (t.ctx x.unit x.ctx).rops = (s.ctx x.unit x.ctx).rops.filter fun y => y.id != x.id)

/-- RCOPY, the landing of its chunks, and what other packages send. Completes: rcopy, rcopyFlagWrite, chunkLanding,
remoteRequest, remoteReply, remoteError. -/
def Obligations.RemoteCopiesAndAnswers : Prop :=
  Claims.RemoteCopies ∧ Claims.RemoteChunksLand ∧ Claims.RemoteAnswers

/-- COLL of a descriptor and a group that pass their checks joins the group's next instance and gives Xd its
handle, with the list of members that it has read. COLLWAIT goes on when nothing in the context's stream has the handle
(log entry 89), stalls while it is in flight, and takes the trap of an instance whose members disagreed, or that an error
between packages has ended (R262, R263, R335, R365; log entry 87). -/
def Sys2Proof.Claims.CollectivesAreJoined : Prop :=
  (∀ (s s1 s3 : State) (xd xa : Reg) (scope : BitVec 3) (l : List Word) (ids : List Nat) (data : List Byte), Plain s →
    orderedAt s scope = true → Described s (X s xa) 8 l s1 → CollOk s1 scope (CollDesc.ofWords l) ids data s3 →
    let d := CollDesc.ofWords l
    let pkg := (grpctlOf s1 (s1.issuePart s1.cur.unit s1.cur.ctx) d.group).getLsbD 62
    exec (.coll xd xa scope) s = .next (finish s (joinColl s3 xd scope d pkg ids (if pkg then s3.pkg.id else s3.cur.unit) data)) ∧
    ∃ t k, exec (.coll xd xa scope) s = .next t ∧ t.me.pc = s.me.pc + 4 ∧ t.me.stall = none ∧ t.mem = s3.mem ∧ RegsAfter s t xd k.handle ∧
      t.me.colls = s3.me.colls ++ [k] ∧ k.entry = d.group ∧ k.scope = scope ∧ k.data = data ∧ k.members = ids ∧ k.done = false) ∧
  (∀ (s : State) (xd : Reg) (scope : BitVec 3) (d : CollDesc) (pkg : Bool) (ids : List Nat) (me : Nat) (data : List Byte), s.cur.ctx < 8 →
    ∃ t k, joinColl s xd scope d pkg ids me data = .done t ∧ t.me.colls = s.me.colls ++ [k] ∧ t.mem = s.mem ∧
      (xd ≠ 0 → X t xd = k.handle) ∧ k.entry = d.group ∧ k.scope = scope ∧ k.dst = d.dst ∧ k.data = data ∧ k.done = false ∧
      k.members = ids ∧ k.mismatch = false ∧ k.failed = false ∧ k.pkg = pkg) ∧
  ∀ (s : State) (xa : Reg) (scope : BitVec 3), Plain s →
    ((streamColls s).find? (fun k => k.handle == X s xa) = none → exec (.collwait xa scope) s = .next (goOn s)) ∧
    ∀ k, (streamColls s).find? (fun k => k.handle == X s xa) = some k →
      (k.mismatch = true → exec (.collwait xa scope) s = .next (traps s { cause := 0x0F, clears := .coll k.handle })) ∧
      (k.mismatch = false → k.failed = true → exec (.collwait xa scope) s = .next (traps s (trapColl k))) ∧
      (k.mismatch = false → k.failed = false → k.scope ≠ scope → exec (.collwait xa scope) s = .next (traps s trapOperand)) ∧
      (k.mismatch = false → k.failed = false → k.scope = scope → exec (.collwait xa scope) s = .next (stalls s .transfer))

/-- An instance completes when every member of each member's own list has joined (`parts` are what they bring). An
error between packages ends it at its members here, and so do members that disagree. Otherwise every member takes
the result of its own list, when every line of it may be written; their handles are gone, and the root of a group of
packages sends the result on. A barrier writes nothing (R262, R263, R335, R365, R368; what is read at issue and at
completion is the model's: log entries 29 and 87). -/
def Sys2Proof.Claims.CollectivesComplete : Prop :=
  ∀ (s : State) (p e inst : Nat) (others : List (Nat × Option (Word × List Byte))) (first : Nat × Nat × Coll) (rest : List (Nat × Nat × Coll))
    (parts : Nat × Nat × Coll → List (Option (Word × List Byte))), joinedColls s p e inst = first :: rest →
    let here := first :: rest
    (∀ x ∈ here, PartsAre x.2.2 here others (parts x)) →
    let run := exec (.collectiveComplete p e inst others) s
    ((∃ x ∈ here, none ∈ parts x) → run = .next (endColls s here fun k => { k with done := true, failed := true })) ∧
    ∀ brought : Nat × Nat × Coll → List (Word × List Byte), (∀ x ∈ here, parts x = (brought x).map some) →
      let gives (x : Nat × Nat × Coll) : List Byte := collResult x.2.2 ((brought x).map (·.2))
      let ended (t : State) : State := here.foldl (fun s x => sendResults s x.2.2 (gives x)) (dropColls t here)
      ((∃ x ∈ here, ∃ y ∈ brought x, y.1 ≠ first.2.2.word) →
        run = .next (endColls s here fun k => { k with done := true, mismatch := true })) ∧
      ((∀ x ∈ here, ∀ y ∈ brought x, y.1 = first.2.2.word) →
        ((∀ x ∈ here, x.2.2.kind = 0) → run = .next (ended s)) ∧
        ((∀ x ∈ here, lengthsOk x.2.2 ((brought x).map (·.2)) = true) →
          ∀ t, putResults s (here.map fun x => (x, brought x)) = .ok t → run = .next (ended t)))

/-- A result of `n` elements at a member's destination: element by element at its home, or, while a line of one is
held back, nothing (R112, R262). -/
def Sys2Proof.Claims.ResultsArePut : Prop :=
  ∀ (s : State) (u c n : Nat) (k : Coll) (result : List Byte) (tg : Nat → Target),
    let w := tyBytes (k.ty.setWidth 5)
    0 < w → result.length = n * w →
    (∀ i < n, s.translate u (s.issuePart u c) (s.privileged u c) .engine true (k.dst + BitVec.ofNat 64 (w * i)) = .ok (tg i)) →
    ((∀ i < n, s.writable ((tg i).pa / 64) = true) → putResult s u c k result =
      .ok ((List.range n).foldl (fun s i => homeWrite s none none (s.issuePart u c) (tg i).attr (tg i).pa ((result.drop (w * i)).take w)) s)) ∧
    ((∃ i < n, s.writable ((tg i).pa / 64) = false) → putResult s u c k result = .error ((List.range n).map fun i => (tg i).pa / 64))

/-- One step of a reduction on two encodings: integers add and wrap, and compare as their type is signed; f32 and f64
add exactly and round once to nearest, with no flush, and their minimum and maximum are those of VFMIN and VFMAX; AND, OR
and XOR are bitwise (R262). -/
def Sys2Proof.Claims.ReductionSteps : Prop :=
  ∀ (ty : BitVec 5) (a b : Nat),
    (ty.toNat < 8 → a < 2 ^ tyBits ty → b < 2 ^ tyBits ty →
      let x := BitVec.ofNat (tyBits ty) a
      let y := BitVec.ofNat (tyBits ty) b
      let less (p q : BitVec (tyBits ty)) : Bool := if isSigned ty then p.slt q else p.ult q
      reduceStep 0 ty a b = (x + y).toNat ∧ reduceStep 1 ty a b = (if less y x then y else x).toNat ∧
        reduceStep 2 ty a b = (if less x y then y else x).toNat) ∧
    (ty = 10 ∨ ty = 11 →
      reduceStep 0 ty a b = ((fmtOf ty).finish 0 false (.exact (fAdd 0 (elemValue ty a) (elemValue ty b)).1)).1 ∧
        reduceStep 1 ty a b = (minMaxElems false false ty a b).1 ∧ reduceStep 2 ty a b = (minMaxElems false true ty a b).1) ∧
    reduceStep 3 ty a b = (a &&& b) ∧ reduceStep 4 ty a b = (a ||| b) ∧ reduceStep 5 ty a b = (a ^^^ b)

/-- The result of a collective: of a broadcast the root's bytes, of a gathering every member's in member
order, of a reduction the fold of each element over the members in ascending order (R262, R263). -/
def Sys2Proof.Claims.CollectiveResults : Prop :=
  ∀ (k : Coll) (first : List Byte) (rest : List (List Byte)),
    let all := first :: rest
    let ty : BitVec 5 := k.ty.setWidth 5
    let w := tyBytes ty
    (k.kind = 0 → collResult k all = []) ∧ (k.kind = 1 → collResult k all = all.getD k.root.toNat []) ∧
    (k.kind = 3 → collResult k all = all.flatten) ∧
    (k.kind = 2 → ty.toNat < 8 ∨ ty = 10 ∨ ty = 11 → (collResult k all).length = k.count.toNat * w ∧
      ∀ i < k.count.toNat, bytesElem w i (collResult k all) =
        rest.foldl (fun a bs => reduceStep k.rop.toNat ty a (bytesElem w i bs)) (bytesElem w i first) % 2 ^ (8 * w))

/-- COLL and COLLWAIT, the end of an instance, and the result of a collective: its data is read when COLL issues and
written when the instance completes (the model's reading: log entry 29). Completes: coll, collwait,
collectiveComplete. -/
def Obligations.Collectives : Prop :=
  Claims.CollectivesAreJoined ∧ Claims.CollectivesComplete ∧ Claims.ResultsArePut ∧ Claims.ReductionSteps ∧
  Claims.CollectiveResults

/-- GETS and SETS: an unassigned number, a register of another context, a read-only register and, in a region, a leg
register are illegal; a reserved value is an illegal operand; otherwise the register is read or written, MSHAPE,
FLAGS, VFSTAT and VCM once earlier blocks have ended (R39, R80 to R83, R190). CORE of a management core is a
free value, a V register is illegal in context 0 of a management core too, and the legs of a FORKI region share the
SUBCNT of their strand (the model's choices, log entries 2, 70 and 69). -/
def Sys2Proof.Claims.UserRegisters : Prop :=
  ∀ (s : State) (x : Reg) (num : BitVec 12),
    let n := num.toNat
    let region := s.cur.ctx = 0 ∧ s.here.leg.isSome = true
    (regIllegal s n = true → exec (.gets x num) s = .next (traps s trapIllegal)) ∧
    (regIllegal s n = true ∨ isReadOnlyReg n = true ∨ (isLegReg n = true ∧ region) → exec (.sets x num) s = .next (traps s trapIllegal)) ∧
    (regIllegal s n = false → Ready s [] (some x) → Unheld s → (waitsBlocks n = true → s.blocksDone s.cur.unit s.cur.ctx = true) →
      (n ≠ 0xB ∨ isMgmt s.cur.unit = false → ∃ t, exec (.gets x num) s = .next t ∧ WroteReg s t x (readUser s n) (s.me.pc + 4)) ∧
      (n = 0xB → ∃ t v, exec (.gets x num) s = .next t ∧ RegsAfter s t x v ∧ v.toNat < 1024)) ∧
    (regIllegal s n = false → isReadOnlyReg n = false → ¬(isLegReg n = true ∧ region) →
      (userOk n (X s x) = false → Plain s → exec (.sets x num) s = .next (traps s trapOperand)) ∧
      (userOk n (X s x) = true → Ready s [x] none → Unheld s → (waitsBlocks n = true → s.blocksDone s.cur.unit s.cur.ctx = true) →
        ∃ t, exec (.sets x num) s = .next t ∧ WentOn (writeUser s n (X s x)) t (s.me.pc + 4)))

/-- A register of R80 that has been written reads as the value written, and a write of one leaves every other as it
was (R81). -/
def Sys2Proof.Claims.UserRegistersHoldTheirValues : Prop :=
  ∀ (s : State) (n : Nat) (v : Word), s.cur.ctx < 8 → isUserReg n = true → isReadOnlyReg n = false → userOk n v = true →
    (∀ h, s.here.strand = some h → (s.strand? h).isSome = true) → readsAs s (writeUser s n v) n v

/-- GETS and SETS of every user register (the choices of log entries 2, 69 and 70). Completes: gets, sets. -/
def Obligations.UserRegisterAccess : Prop :=
  Claims.UserRegisters ∧ Claims.UserRegistersHoldTheirValues

/-- LOCQ reports this core and, of a core of the same partition, its slot and the hops to it on the same ring; any
other operand is illegal (R191). Completes: locq. -/
def Obligations.CoresAreLocated : Prop :=
  ∀ (s : State) (xd xa : Reg),
    let v := (X s xa).toNat
    let u := s.cur.unit
    (¬(v < 1024 ∧ s.samePart u v = true) → Plain s → exec (.locq xd xa) s = .next (traps s trapOperand)) ∧
    (v < 1024 → s.samePart u v = true → Ready s [xa] (some xd) →
      ∃ t w, exec (.locq xd xa) s = .next t ∧ WroteReg s t xd w (s.me.pc + 4) ∧
        bits w 0 5 = s.slotOf u % 32 ∧ bits w 5 3 = ringOf u % 8 ∧ bits w 8 3 = dieOf u % 8 ∧ bits w 16 10 = u % 1024 ∧
        bits w 32 5 = s.slotOf v % 32 ∧ bits w 40 8 = (if ringOf u = ringOf v then (s.slotOf v + 18 - s.slotOf u) % 18 else 255) ∧
        bits w 11 5 = 0 ∧ bits w 26 6 = 0 ∧ bits w 37 3 = 0 ∧ bits w 48 16 = 0) ∧
    decodeCtl 0xE8A60000#32 = .ok (.locq 5 6)

/-- Privileged instructions raise the privilege trap in user code, and those of the management cores also on a compute
core (R329, R330). -/
def Sys2Proof.Claims.PrivilegeTraps : Prop :=
  ∀ (s : State) (xd xa xb : Reg), Plain s →
    (s.privileged s.cur.unit s.cur.ctx = false → ∀ p ∈ privilegedForms, exec (p xd xa xb) s = .next (traps s trapPrivilege)) ∧
    (isMgmt s.cur.unit = false → ∀ p ∈ mgmtForms, exec (p xd xa xb) s = .next (traps s trapPrivilege))

/-- GETP and SETP: what a selector names, who may name it, and which values a register takes; SETP waits for its
context's earlier stores. A GETP in a control cycle in which the register is written reads the value from before
(R329, R331 to R333). -/
def Sys2Proof.Claims.PrivilegedRegisters : Prop :=
  ∀ (s : State) (xd xa xb : Reg), Privileged s →
    (selected (X s xa) = none → exec (.getp xd xa) s = .next (traps s trapOperand) ∧ exec (.setp xa xb) s = .next (traps s trapOperand)) ∧
    ∀ r, selected (X s xa) = some r →
      (¬MayName s r false → exec (.getp xd xa) s = .next (traps s trapPrivilege)) ∧
      (¬MayName s r true → exec (.setp xa xb) s = .next (traps s trapPrivilege)) ∧
      (zeroBits (X s xa) 28 36 = true → zeroBits (X s xa) 12 4 = true →
        (MayName s r false → exec (.getp xd xa) s = .next (goOn (setX s xd (getPriv s r)))) ∧
        (MayName s r true →
          (privOk s r (X s xb) = false → exec (.setp xa xb) s = .next (traps s trapOperand)) ∧
          (privOk s r (X s xb) = true → orderedAt s 3 = true →
            exec (.setp xa xb) s = .next (goOn (setPriv s r (X s xb) (spawnKey s.cur.unit s.cur.ctx)))))) ∧
      (setNote s r = none → getPriv s r = readPriv s r ∧
        ∀ key, (∀ q, readPriv (setPriv s r (X s xb) key) q = readPriv (writePriv s r (X s xb)) q) ∧
          getPriv (setPriv s r (X s xb) key) r = readPriv s r)

/-- A privileged register that has been written reads as the value written, and every other as before. RINGOWN and ASTAG
are also written by events of their own, under the same checks (R287, R303, R333). -/
def Sys2Proof.Claims.PrivilegedRegistersHoldTheirValues : Prop :=
  (∀ (s : State) (r : PReg) (v : Word), privOk s r v = true →
    readPriv (writePriv s r v) r = v ∧ ∀ q, q ≠ r → readPriv (writePriv s r v) q = readPriv s q) ∧
  ∀ (s : State) (k : Nat) (v : Word),
    (k < 64 → exec (.ringownWrite k v) s = .next (if privOk s (.ringown k) v then writePriv s (.ringown k) v else s)) ∧
    (k < 16 → exec (.astagWrite k v) s = .next (if privOk s (.astag k) v then writePriv s (.astag k) v else s))

/-- The privilege traps, and GETP and SETP of every privileged register. Completes: getp, setp, ringownWrite,
astagWrite. -/
def Obligations.PrivilegedRegisterAccess : Prop :=
  Claims.PrivilegeTraps ∧ Claims.PrivilegedRegisters ∧ Claims.PrivilegedRegistersHoldTheirValues

/-- TLBINV and TLBINVA: a speculative leg that has stored through a removed entry is squashed; once no other access
through one is on its way, no TLB of the package holds an entry of that tag for the page, or of that tag at all, and every
other entry stays. A pending store, and the line of a leg, count by the tag and the address that they were translated from (log entry 25)
(R312). -/
def Sys2Proof.Claims.TranslationsAreRemoved : Prop :=
  ∀ (s : State) (xa xb : Reg), Privileged s →
    let tag : BitVec 12 := (X s xa).setWidth 12
    let hit (va : Option Word) (e : TlbEntry) : Bool := e.tag == tag && va.all fun a => e.vpage == a.toNat / 2 ^ e.size
    ∀ p ∈ [((.tlbinv xa xb : Instr), some (X s xb)), (.tlbinva xa, none)],
      let r := squashOld s tag p.2
      (oldAccess s tag p.2 = false → r = s) ∧
      (zeroBits (X s xa) 12 52 = false → exec p.1 s = .next (traps s trapOperand)) ∧
      (zeroBits (X s xa) 12 52 = true → orderedAt s 3 = true →
        (oldAccess r tag p.2 = true → exec p.1 s = .next (stalls r .order)) ∧
        (oldAccess r tag p.2 = false → exec p.1 s = .next (goOn (dropTlb r (hit p.2)))) ∧
        (∀ u, ((dropTlb r (hit p.2)).core u).tlb = (r.core u).tlb.filter fun e => !hit p.2 e) ∧
        ∀ d, ((dropTlb r (hit p.2)).die d).tlb = (r.die d).tlb.filter fun e => !hit p.2 e)

/-- ELRD reads a doubleword of the oldest record of the log of the core's die, or partition, and 0 from an empty log;
`.pop` removes the record. HCALL queues a message and gives its number, and stalls while 16 are queued. WFE
takes the pending events of the die, and stalls while there are none (R332, R338, R370). -/
def Sys2Proof.Claims.LogsMessagesAndEvents : Prop :=
  ∀ (s : State) (xd xa xb : Reg), Privileged s →
    (X s xa < 8 → ∀ l, l = (if isMgmt s.cur.unit then (s.die (dieOf s.cur.unit)).log else (s.part ((s.partOf s.cur.unit).getD 0)).log) →
      let v : Word := match l.recs with | [] => 0 | r :: _ => vget r 0 (X s xa).toNat
      exec (.elrd xd xa) s = .next (goOn (setX s xd v)) ∧
      ∃ s1, exec (.elrdPop xd xa) s = .next (goOn (setX s1 xd v)) ∧ s1.mem = s.mem ∧ s1.cores = s.cores ∧ s1.cur = s.cur ∧
        (if isMgmt s.cur.unit then (s1.die (dieOf s.cur.unit)).log else (s1.part ((s.partOf s.cur.unit).getD 0)).log) =
          { l with recs := l.recs.tail }) ∧
    (8 ≤ (X s xa).toNat → exec (.elrd xd xa) s = .next (traps s trapOperand) ∧ exec (.elrdPop xd xa) s = .next (traps s trapOperand)) ∧
    (s.pkg.outq.length < 16 → exec (.hcall xd xa xb) s = .next (goOn (setX (s.pushOut (X s xa) (X s xb)) xd s.pkg.outSeq))) ∧
    (16 ≤ s.pkg.outq.length → exec (.hcall xd xa xb) s = .next (stalls s .mailbox)) ∧
    (isMgmt s.cur.unit = true →
      let e := (s.die (dieOf s.cur.unit)).events
      (e = 0 → exec (.wfe xd) s = .next (stalls s .event)) ∧
      (e ≠ 0 → exec (.wfe xd) s = .next (goOn (setX (s.modDie (dieOf s.cur.unit) fun x => { x with events := 0 }) xd (e.setWidth 64)))))

/-- TLBINV and TLBINVA; ELRD, HCALL and WFE. Completes: tlbinv, tlbinva, elrd, elrdPop, hcall, wfe. -/
def Obligations.TranslationsLogsAndMessages : Prop :=
  Claims.TranslationsAreRemoved ∧ Claims.LogsMessagesAndEvents

/-- CTXSAVE of a strand that can leave now: its kennel is written, its cores are free, its node stays, and Xd receives
the handle of its task, or 0 when no strand stands on the span. Until then the context stalls and the strand
stops. A kennel that does not translate, or whose page is not cacheable, traps (R64, R315, R324, R330, R332). In whose
space a kennel is translated, and how the strand comes to rest before it is saved, are the model's readings (log entries
30, 42 and 43). -/
def Sys2Proof.Claims.StrandsAreSaved : Prop :=
  ∀ (s : State) (xd xa xb : Reg) (first size : Nat), OnMgmt s → spanOf (X s xb) = some (first, size) →
    let base := (X s xa).toNat
    (base % 2 ^ 20 ≠ 0 → exec (.ctxsave xd xa xb) s = .next (traps s { cause := 0x05, faddr := X s xa })) ∧
    (base % 2 ^ 20 = 0 →
      ((∀ x, s.strand? first = some x → x.size ≠ size) → exec (.ctxsave xd xa xb) s = .next (goOn (setX s xd 0))) ∧
      ∀ x, s.strand? first = some x → x.size = size →
        (∀ t, kennelFault s x.part .store true base x.kennels = some t → exec (.ctxsave xd xa xb) s = .next (traps s t)) ∧
        (kennelFault s x.part .store true base x.kennels = none →
          let by_ := (X s xa, s.cur.unit, s.cur.ctx)
          let s0 := beginSave s first x by_
          (x.saving ≠ none → x.saving ≠ some by_ → exec (.ctxsave xd xa xb) s = .next (stalls s .system)) ∧
          (x.saving = none ∨ x.saving = some by_ →
            (∀ s1, trySave s0 first x base = .error s1 → exec (.ctxsave xd xa xb) s = .next (finish s (.stall .system s1))) ∧
            (SaveReady s0 first x base → ∃ t, exec (.ctxsave xd xa xb) s = .next t ∧
              t.mem = ((kennelTargets s0 x.part (strandPieces s0 first first base x)).foldl
                (fun s y => homeWrite s none none x.part y.1.attr y.1.pa y.2) s0).mem ∧
              RegsAfter s t xd (strandHandle s x) ∧ t.me.pc = s.me.pc + 4 ∧ t.strand? first = none ∧
              (∀ i < size, (t.core (first + i)).strand = none ∧ (t.ctx (first + i) 0).resident = false) ∧
              ((s0.die (dieOf first)).vaultQ = [] →
                ∀ d k, ((t.die d).nodes.find? k).map Node.bare = ((s0.die d).nodes.find? k).map Node.bare)))))

/-- What a save writes lies in its kennel: the X registers first, then the user registers, and the pc at 0x180 (R325). -/
def Sys2Proof.Claims.KennelsHoldTheContext : Prop :=
  ∀ (s : State) (u next base : Nat), (s.ctx u 0).nest.length ≤ 4 → (s.core u).seq.reply.length ≤ 16 →
    (s.core u).seq.fq.length ≤ 16 → (s.core u).v.merge.length ≤ 4096 → (∀ r, (s.core u).seq.red = some r → r.vals.length ≤ 20) →
    let l := kennelPieces s u next base
    (∀ x ∈ l, base ≤ x.1 ∧ x.1 + x.2.length ≤ base + 2 ^ 20) ∧
      (base, wordsBytes ((List.range 32).map (s.ctx u 0).reg)) ∈ l ∧
      ∃ rest, (base + 0x180, bvBytes 8 (s.ctx u 0).pc ++ rest) ∈ l

/-- CTXLD of a strand outside a region: its context 0 stands on the span with the pc and the X registers of the kennel,
and the span is its own (R65, R327). Only a strand whose node is PLACED and on no span can be restored, in the space of
its own partition; a leg of a FORK region waits for the power of the leg cache (the model's readings: log entries 30, 44
and 57). -/
def Sys2Proof.Claims.StrandsAreRestored : Prop :=
  ∀ (s : State) (xd xa xb : Reg) (first size p d node : Nat) (n : Node), OnMgmt s → spanOf (X s xb) = some (first, size) →
    s.partOf first = some p → preemptedNode s p (X s xd) = some (d, node, n) → n.size = size → spanFree s first size = true →
    (X s xa).toNat % 2 ^ 20 = 0 →
    let k : Kennel := ⟨s, p, (X s xa).toNat⟩
    kennelFault s p .load false k.base 1 = none → kennelFault s p .load false k.base (k.count size) = none →
    orderedAt s 3 = true → kennelKept s p k.base (k.count size) = false → s.placing p = true → kennelBad s p k.base (k.count size) = none →
    (k.forked = true → s.cacheOff first = false) →
    ∃ t, exec (.ctxld xd xa xb) s = .next t ∧ t = goOn (restoreStrand s p k.base first d node n) ∧ t.mem = s.mem ∧
      (∀ i < size, (t.core (first + i)).strand = some first) ∧
      (∃ y, t.strand? first = some y ∧ y.part = p ∧ y.node = (d, node) ∧ y.size = size ∧ y.ended = false) ∧
      (k.flag 16 = false → (t.ctx first 0).resident = true ∧ (t.ctx first 0).pc = k.w 0x180 ∧
        ∀ r, 1 ≤ r → r < 32 → (t.ctx first 0).reg r = k.w (8 * r))

/-- CTXSAVE, what lies in a kennel, and CTXLD (with the readings of log entries 30, 42, 43 and 44). Completes:
ctxsave, ctxld. Completes: ctxsave, ctxld. -/
def Obligations.Preemption : Prop :=
  Claims.StrandsAreSaved ∧ Claims.KennelsHoldTheContext ∧ Claims.StrandsAreRestored

/-- VNOP does nothing, VSTOP ends the block and frees its entry, and the loop counters count as R199 says;
VREGION skips when no element of the shape is governed (R198 to R200). -/
def Sys2Proof.Claims.BlockControl : Prop :=
  ∀ (s : State) (f : BlockFields),
    exec (.vnop f) s = .next (wordOn s) ∧
    exec (.vstop f) s = .next (s.modHere fun c =>
      { c with seq := { c.seq with fq := c.seq.fq.tail, active := false, fin := c.seq.fin + 1 } }) ∧
    exec (.vloopSet f) s = .next (wordOn (setLoop s f.vd.toNat (xOperand s f))) ∧
    (let l := vget s.here.seq.loops 0 f.vd.toNat
     let target := s.here.seq.pc + 8 * f.off.signExtend 64
     (1 < l.toNat → exec (.vloop f) s = .next (setWordPc (setLoop s f.vd.toNat (l - 1)) target)) ∧
     (l.toNat ≤ 1 → exec (.vloop f) s = .next (wordOn (setLoop s f.vd.toNat 0))) ∧
     ((∃ j < predCount s, govOn s.vc f j = true) → exec (.vregion f) s = .next (wordOn s)) ∧
     ((∀ j < predCount s, govOn s.vc f j = false) → exec (.vregion f) s = .next (setWordPc s target)))

/-- VREPLY appends an element to the reply queue, extended by its type, and waits while the queue is full; an
index beyond the operand gives 0 (R28, R201). -/
def Sys2Proof.Claims.Replies : Prop :=
  ∀ (s : State) (f : BlockFields), shapeTrap (blockShape s f) [f.ty] = false →
    let k := if f.func.getLsbD 0 then (xOperand s f).toNat else 0
    let x := laneOf s f f.ty f.va k
    (16 ≤ s.here.seq.reply.length → exec (.vreply f) s = .next s) ∧
    (s.here.seq.reply.length < 16 → elemBad (s.vc.poi f.va) (blockShape s f) f.ty k = false →
      exec (.vreply f) s = .next (wordOn (s.modHere fun c => { c with seq := { c.seq with
        reply := c.seq.reply ++ [if isSigned f.ty then sext (tyBits f.ty) x else BitVec.ofNat 64 x] } })) ∧
      (laneCount s f ≤ k → x = 0))

/-- VNOP, VSTOP, the vector loops, VREGION and VREPLY. Completes: vstop, vnop, vloopSet, vloop, vregion, vreply. -/
def Obligations.BlockControlAndReplies : Prop :=
  Claims.BlockControl ∧ Claims.Replies

/-- The integer instructions of R202 and R203 on vectors: each active element receives the function of its sources,
wrapped or saturated to the element; no flag is raised. Completes: vadd, vsub, vmul, vmulh, vdiv, vmin, vmax, vand,
vor, vxor, vshl, vshr, vsar, vabsd, vadds, vsubs. -/
def Obligations.IntegerLanes : Prop :=
  ∀ p ∈ intLanes, ∀ (s : State) (f : BlockFields), isInt f.ty = true → WordReady s f (f.ty :: (binSrcs f).map (·.2)) (binSrcs f) →
    ∃ t, exec (p.1 f) s = .next t ∧ WroteVec s t f (fun j =>
      (p.2 (tyBits f.ty) (isSigned f.ty) (BitVec.ofNat _ (laneOf s f f.ty f.va j)) (BitVec.ofNat _ (secondOf s f j))).toNat) (fun _ => 0)

/-- VMADD adds the product to the destination's own element, modulo 2^w (R204). Completes: vmadd. -/
def Obligations.MultiplyAdd : Prop :=
  ∀ (s : State) (f : BlockFields), isInt f.ty = true → WordReady s f (f.ty :: f.ty :: (binSrcs f).map (·.2)) ((f.vd, f.ty) :: binSrcs f) →
    ∃ t, exec (.vmadd f) s = .next t ∧ WroteVec s t f (fun j =>
      (laneOf s f f.ty f.vd j + laneOf s f f.ty f.va j * secondOf s f j) % 2 ^ tyBits f.ty) (fun _ => 0)

/-- VADDC and VSUBB: the sum and the difference of two elements with a carry from P[vc], and the carry out in
the predicate that FUNC[4:0] names (R205). -/
def Sys2Proof.Claims.CarriesThroughPredicates : Prop :=
  ∀ (s : State) (f : BlockFields), isInt f.ty = true → WordReady s f [f.ty] [(f.va, f.ty), (f.vb, f.ty)] →
    let m := 2 ^ tyBits f.ty
    let a := laneOf s f f.ty f.va
    let b := laneOf s f f.ty f.vb
    let c (j : Nat) : Nat := if (s.vc.pred f.vc).getLsbD j then 1 else 0
    let po : BitVec 5 := f.func.extractLsb' 0 5
    (∃ t, exec (.vaddc f) s = .next t ∧ LanesAre s t f (fun j => (a j + b j + c j) % m) ∧ WordKept s t ∧
      BitsAre s t po (laneCount s f) f.zm (laneOn s f) (fun j => decide (m ≤ a j + b j + c j)) ∧
      (∀ r, r ≠ f.vd → t.vc.reg r = s.vc.reg r) ∧ ∀ r, r ≠ po → t.vc.pred r = s.vc.pred r) ∧
    ∃ t, exec (.vsubb f) s = .next t ∧ LanesAre s t f (fun j => (m + m + a j - b j - c j) % m) ∧ WordKept s t ∧
      BitsAre s t po (laneCount s f) f.zm (laneOn s f) (fun j => decide (a j < b j + c j)) ∧
      (∀ r, r ≠ f.vd → t.vc.reg r = s.vc.reg r) ∧ ∀ r, r ≠ po → t.vc.pred r = s.vc.pred r

/-- VCMP writes a predicate: on integers the relation of FUNC[3:1] between the two numbers, on floating-point
elements that of R93, under which a NaN is unordered (R93, R206). -/
def Sys2Proof.Claims.Comparisons : Prop :=
  (∀ (s : State) (f : BlockFields), WordReady s f [f.ty] (binSrcs f) →
    ∃ t, exec (.vcmp f) s = .next t ∧ WrotePred s t f.vd (laneCount s f) f.zm (laneOn s f)
      (fun j => (compareElems s f (laneOf s f f.ty f.va j) (secondOf s f j)).1)
      (laneFlags s f fun j => (compareElems s f (laneOf s f f.ty f.va j) (secondOf s f j)).2)) ∧
  (∀ (s : State) (f : BlockFields) (a b : Nat), isInt f.ty = true → bits f.func 1 3 < 6 →
    let x := intElem f.ty a
    let y := intElem f.ty b
    ((compareElems s f a b).1 = true ↔ [x = y, x ≠ y, x < y, x ≤ y, y < x, y ≤ x].getD (bits f.func 1 3) False) ∧ (compareElems s f a b).2 = 0) ∧
  ∀ (s : State) (f : BlockFields) (a b : Nat), isFloat f.ty = true →
    ((inputOf s f a).1.isNan || (inputOf s f b).1.isNan) = true → (compareElems s f a b).1 = (bits f.func 1 3 == 1)

/-- VSEL takes each element from the register that P[vc] selects, also one of a poisoned group, as a move does (DEDUCED: log
entry 37); VBCAST writes the scalar, VIOTA the scalar
plus the element's index (R207). -/
def Sys2Proof.Claims.SelectsAndBroadcasts : Prop :=
  ∀ (s : State) (f : BlockFields), isMx f.ty = false →
    (WordReady s f [f.ty] [] → ∃ t, exec (.vsel f) s = .next t ∧
      WroteVec s t f (fun j => laneOf s f f.ty (if (s.vc.pred f.vc).getLsbD j then f.va else f.vb) j) (fun _ => 0)) ∧
    (WordReady s f [f.ty] [] → ∃ t, exec (.vbcast f) s = .next t ∧
      WroteVec s t f (fun _ => (xOperand s f).toNat % 2 ^ tyBits f.ty) (fun _ => 0)) ∧
    (WordReady s f [f.ty] [] → ∃ t, exec (.viota f) s = .next t ∧
      WroteVec s t f (fun j => ((xOperand s f).toNat + j) % 2 ^ tyBits f.ty) (fun _ => 0))

/-- VADDC, VSUBB, VCMP, VSEL, VBCAST and VIOTA. Completes: vaddc, vsubb, vcmp, vsel, vbcast, viota. -/
def Obligations.LaneChoices : Prop :=
  Claims.CarriesThroughPredicates ∧ Claims.Comparisons ∧ Claims.SelectsAndBroadcasts

/-- The floating-point instructions that round: the exact result of each active element is rounded once, and
the flags of all of them are raised (R90 to R92, R208, R209). The exact results of VEXP2 and VLOG2 stand for values
computed to more than 250 bits (log entry 32). -/
def Sys2Proof.Claims.FloatLanes : Prop :=
  ∀ (s : State) (f : BlockFields), isFloat f.ty = true →
    let a (j : Nat) := inputOf s f (laneOf s f f.ty f.va j)
    let b (j : Nat) := inputOf s f (secondOf s f j)
    let d (j : Nat) := inputOf s f (laneOf s f f.ty f.vd j)
    (∀ p ∈ fpLanes, WordReady s f (f.ty :: (binSrcs f).map (·.2)) (binSrcs f) →
      let out (j : Nat) := outputOf s f ((a j).2 ||| (b j).2) (p.2 (roundMode s f) (a j).1 (b j).1)
      ∃ t, exec (p.1 f) s = .next t ∧ WroteVec s t f (fun j => (out j).1) (fun j => (out j).2)) ∧
    (∀ p ∈ fpOnes, WordReady s f [f.ty, f.ty] [(f.va, f.ty)] →
      let out (j : Nat) := outputOf s f (a j).2 (p.2 (a j).1)
      ∃ t, exec (p.1 f) s = .next t ∧ WroteVec s t f (fun j => (out j).1) (fun j => (out j).2)) ∧
    (WordReady s f (f.ty :: f.ty :: (binSrcs f).map (·.2)) ((f.vd, f.ty) :: binSrcs f) →
      ∀ p ∈ [((.vfma f : Instr), false), (.vfnma f, true)],
        let out (j : Nat) := outputOf s f ((a j).2 ||| (b j).2 ||| (d j).2)
          (exactRes (fFma (roundMode s f) (if p.2 then (a j).1.negate else (a j).1) (b j).1 (d j).1))
        ∃ t, exec p.1 s = .next t ∧ WroteVec s t f (fun j => (out j).1) (fun j => (out j).2))

/-- VFMIN and VFMAX give one of their inputs or the default NaN, VFSGN changes a sign bit alone, VFCLASS gives
a mask with one bit (R93, R208, R210). -/
def Sys2Proof.Claims.FloatChoices : Prop :=
  (∀ (s : State) (f : BlockFields), isFloat f.ty = true → WordReady s f (f.ty :: (binSrcs f).map (·.2)) (binSrcs f) →
    (∀ p ∈ [((.vfmin f : Instr), false), (.vfmax f, true)], ∃ t, exec p.1 s = .next t ∧
      WroteVec s t f (fun j => (minMaxElems (ftzOn s) p.2 f.ty (laneOf s f f.ty f.va j) (secondOf s f j)).1)
        (fun j => (minMaxElems (ftzOn s) p.2 f.ty (laneOf s f f.ty f.va j) (secondOf s f j)).2)) ∧
    ∃ t, exec (.vfsgn f) s = .next t ∧ WroteVec s t f (fun j =>
      let w := tyBits f.ty
      let a := laneOf s f f.ty f.va j
      let sa := a.testBit (w - 1)
      let sb := (secondOf s f j).testBit (w - 1)
      a % 2 ^ (w - 1) + if (if bits f.func 1 2 = 0 then sb else if bits f.func 1 2 = 1 then !sb else sa ^^ sb) then 2 ^ (w - 1) else 0) (fun _ => 0)) ∧
  (∀ (s : State) (f : BlockFields), isFloat f.ty = true → WordReady s f [f.ty, f.ty] [(f.va, f.ty)] →
    ∃ t, exec (.vfclass f) s = .next t ∧ WroteVec s t f (fun j => classMask f.ty (laneOf s f f.ty f.va j)) (fun _ => 0)) ∧
  ∀ (z max : Bool) (ty : BitVec 5) (a b : Nat), isFloat ty = true → z = false →
    (minMaxElems z max ty a b).1 = a ∨ (minMaxElems z max ty a b).1 = b ∨ (minMaxElems z max ty a b).1 = (fmtOf ty).nan

/-- Which input VFMIN and VFMAX give, after the flush of R91: of one NaN the other operand, of two the default NaN, of two
numbers the lesser or the greater, and of two zeros -0 as the lesser; NV for a signaling NaN (R91, R93, R208). -/
def Sys2Proof.Claims.LesserAndGreater : Prop :=
  ∀ (z max : Bool) (ty : BitVec 5) (a b : Nat), isFloat ty = true →
    let x := (flushIn z ty a).1
    let y := (flushIn z ty b).1
    let v := elemValue ty x
    let w := elemValue ty y
    let r := (minMaxElems z max ty a b).1
    (v.isNan = true → w.isNan = true → r = (fmtOf ty).nan) ∧ (v.isNan = true → w.isNan = false → r = y) ∧
    (v.isNan = false → w.isNan = true → r = x) ∧
    (v.isNan = false → w.isNan = false →
      (max = false → (r = x ∧ Below v w) ∨ (r = y ∧ Below w v)) ∧ (max = true → (r = x ∧ Below w v) ∨ (r = y ∧ Below v w)) ∧
      (v.isZero = true → w.isZero = true → (elemValue ty r).neg = if max then v.neg && w.neg else v.neg || w.neg)) ∧
    (minMaxElems z max ty a b).2 = (flushIn z ty a).2 ||| (flushIn z ty b).2 ||| if v.isSnan || w.isSnan then fNV else 0

/-- The class of an encoding, by its sign bit and its magnitude code: the one bit that VFCLASS sets (R86, R210). -/
def Sys2Proof.Claims.ClassesOfNumbers : Prop :=
  ∀ (ty : BitVec 5) (x : Nat), isFloat ty = true →
    let F := fmtOf ty
    let code := x % 2 ^ (F.eb + F.mb)
    let pick (neg pos : Nat) : Nat := if x.testBit (F.eb + F.mb) then 2 ^ neg else 2 ^ pos
    (F.infCode < code → classMask ty x = if code.testBit (F.mb - 1) then 2 ^ 9 else 2 ^ 8) ∧
    (code = F.infCode → classMask ty x = pick 0 7) ∧ (2 ^ F.mb ≤ code → code < F.infCode → classMask ty x = pick 1 6) ∧
    (0 < code → code < 2 ^ F.mb → classMask ty x = pick 2 5) ∧ (code = 0 → classMask ty x = pick 3 4)

/-- The floating-point vector instructions round once and raise every flag; for VEXP2 and VLOG2, whose results are
irrational but for the cases that the spec names, what is rounded is a value computed to more than 250 bits (DEDUCED:
log entry 32). Completes: vfadd, vfsub, vfmul, vfma, vfnma, vfdiv, vfsqrt, vexp2, vlog2, vrcp, vfmin, vfmax, vfsgn,
vfclass. -/
def Obligations.FloatingPointLanes : Prop :=
  Claims.FloatLanes ∧ Claims.FloatChoices ∧ Claims.LesserAndGreater ∧ Claims.ClassesOfNumbers

/-- Sums and products of finite numbers are exact before their one rounding: in units of any common power of
two, the result is the sum, or the product (R90). -/
def Sys2Proof.Claims.ExactArithmetic : Prop :=
  ∀ (m : RMode) (n1 n2 : Bool) (m1 m2 : Nat) (e1 e2 q : Int), q ≤ e1 → q ≤ e2 →
    (∃ n k e, fAdd m (.fin n1 m1 e1) (.fin n2 m2 e2) = (.fin n k e, 0) ∧ (k ≠ 0 → q ≤ e) ∧
      (q ≤ e → signedAt q n k e = signedAt q n1 m1 e1 + signedAt q n2 m2 e2)) ∧
    ∃ n k e, fMul (.fin n1 m1 e1) (.fin n2 m2 e2) = (.fin n k e, 0) ∧
      signedAt (q + q) n k e = signedAt q n1 m1 e1 * signedAt q n2 m2 e2

/-- A fused product and sum of finite numbers is exact before its one rounding; 0 x infinity is invalid whatever is added,
and so is the sum of unlike infinities (R90, R92, R93). -/
def Sys2Proof.Claims.FusedProducts : Prop :=
  (∀ (m : RMode) (n1 n2 n3 : Bool) (m1 m2 m3 : Nat) (e1 e2 e3 q : Int), q ≤ e1 → q ≤ e2 → q + q ≤ e3 →
    ∃ n k e, fFma m (.fin n1 m1 e1) (.fin n2 m2 e2) (.fin n3 m3 e3) = (.fin n k e, 0) ∧ (k ≠ 0 → q + q ≤ e) ∧
      (q + q ≤ e → signedAt (q + q) n k e = signedAt q n1 m1 e1 * signedAt q n2 m2 e2 + signedAt (q + q) n3 m3 e3)) ∧
  ∀ (m : RMode) (n k : Bool) (e : Int) (c : FVal),
    fFma m (.fin n 0 e) (.inf k) c = (.nan false, fNV) ∧ fFma m (.inf k) (.fin n 0 e) c = (.nan false, fNV) ∧
    fAdd m (.inf k) (.inf (!k)) = (.nan false, fNV) ∧ fAdd m (.inf k) (.inf k) = (.inf k, 0) ∧
    (∀ sg, fFma m (.nan sg) (.fin n 0 e) c = (.nan false, if sg || c.isSnan then fNV else 0))

/-- A quotient: exact, or its integer part in units of a power of two, to at least 128 bits, with something left. A zero
divisor gives an infinity and DZ; 0/0 and infinity/infinity are invalid (R92, R93, R208). -/
def Sys2Proof.Claims.Quotients : Prop :=
  (∀ (n k : Bool) (m1 m2 : Nat) (e1 e2 : Int), m1 ≠ 0 → m2 ≠ 0 →
    ∃ (r : FRes) (m : Nat) (e : Int), fDiv (.fin n m1 e1) (.fin k m2 e2) = (r, 0) ∧ e ≤ e1 - e2 ∧
      let x := m1 * 2 ^ (e1 - e2 - e).toNat
      (r = .exact (.fin (n != k) m e) ∧ m * m2 = x) ∨ (r = .more (n != k) m e ∧ 2 ^ 128 ≤ m ∧ m * m2 < x ∧ x < (m + 1) * m2)) ∧
  ∀ (n k : Bool) (m : Nat) (e1 e2 : Int) (b : FVal) (sg : Bool),
    (m ≠ 0 → fDiv (.fin n m e1) (.fin k 0 e2) = (.exact (.inf (n != k)), fDZ) ∧
      ∃ e, fDiv (.fin n 0 e1) (.fin k m e2) = (.exact (.fin (n != k) 0 e), 0)) ∧
    fDiv (.fin n 0 e1) (.fin k 0 e2) = (.exact (.nan false), fNV) ∧ fDiv (.inf n) (.inf k) = (.exact (.nan false), fNV) ∧
    fDiv (.inf n) (.fin k m e2) = (.exact (.inf (n != k)), 0) ∧ (∃ e, fDiv (.fin n m e1) (.inf k) = (.exact (.fin (n != k) 0 e), 0)) ∧
    fDiv (.nan sg) b = (.exact (.nan false), if sg || b.isSnan then fNV else 0) ∧
    fDiv b (.nan sg) = (.exact (.nan false), if b.isSnan || sg then fNV else 0)

/-- A square root: exact, or its integer part in units of a power of two, to at least 128 bits, with something left; and
the special operands of the single-operand functions (R92, R209). -/
def Sys2Proof.Claims.RootsAndSpecialOperands : Prop :=
  (∀ (m : Nat) (e : Int), m ≠ 0 → ∃ (r : FRes) (k : Nat) (g : Int), fSqrt (.fin false m e) = (r, 0) ∧ 2 * g ≤ e ∧
    let x := m * 2 ^ (e - 2 * g).toNat
    (r = .exact (.fin false k g) ∧ k * k = x) ∨ (r = .more false k g ∧ 2 ^ 128 ≤ k ∧ k * k < x ∧ x < (k + 1) * (k + 1))) ∧
  (∀ (n sg : Bool) (m : Nat) (e : Int),
    (∃ g, fSqrt (.fin n 0 e) = (.exact (.fin n 0 g), 0)) ∧ (m ≠ 0 → fSqrt (.fin true m e) = (.exact (.nan false), fNV)) ∧
    fSqrt (.inf n) = (if n then (.exact (.nan false), fNV) else (.exact (.inf false), 0)) ∧
    fLog2 (.fin n 0 e) = (.exact (.inf true), fDZ) ∧ (m ≠ 0 → fLog2 (.fin true m e) = (.exact (.nan false), fNV)) ∧
    fLog2 (.inf n) = (if n then (.exact (.nan false), fNV) else (.exact (.inf false), 0)) ∧
    fExp2 (.fin n 0 e) = (.exact (.fin false 1 0), 0) ∧ (∃ g, fExp2 (.inf true) = (.exact (.fin false 0 g), 0)) ∧
    fExp2 (.inf false) = (.exact (.inf false), 0) ∧
    ∀ g ∈ [fSqrt, fLog2, fExp2], g (.nan sg) = (.exact (.nan false), if sg then fNV else 0)) ∧
  -- VEXP2 of an integer and VLOG2 of a power of two
  (∀ (n : Bool) (m : Nat) (e q w : Int), m ≠ 0 → q ≤ e → q ≤ 0 → signedAt q n m e = w * 2 ^ (-q).toNat → -2 ^ 14 < w → w < 2 ^ 14 →
    fExp2 (.fin n m e) = (.exact (.fin false 1 w), 0)) ∧
  ∀ (l : Nat) (e : Int), ∃ n k g, fLog2 (.fin false (2 ^ l) e) = (.exact (.fin n k g), 0) ∧ 0 ≤ g ∧ signedAt 0 n k g = e + l

/-- What is left below the last bit of a quotient or a root counts as one more bit below it: a result of at least two more
bits than the format keeps is rounded as though a one stood there, and a value at or above its unit is not cut (R90). -/
def Sys2Proof.Claims.RestsAreRounded : Prop :=
  (∀ (mode : RMode) (neg : Bool) (m sh : Nat) (e : Int), 0 < sh →
    cut mode neg m e true (e + sh) = cut mode neg (2 * m + 1) (e - 1) false (e + sh)) ∧
  (∀ (mode : RMode) (neg : Bool) (m : Nat) (e q : Int), q ≤ e → cut mode neg m e false q = (m * 2 ^ (e - q).toNat, false)) ∧
  ∀ (F : Fmt) (mode : RMode) (ftz neg : Bool) (m : Nat) (e : Int), 2 ^ (F.mb + 1) ≤ m →
    F.finish mode ftz (.more neg m e) = F.finish mode ftz (.exact (.fin neg (2 * m + 1) (e - 1)))

/-- Rounding a magnitude to a multiple of 2^q in the modes of R90: toward zero, up and down it is the multiple on
that side; to nearest no multiple is nearer, and a tie goes to the even multiple, or away from zero. -/
def Sys2Proof.Claims.RoundingModes : Prop :=
  ∀ (neg : Bool) (m sh : Nat) (e : Int), 0 < sh →
    let x := m
    let u := 2 ^ sh
    let r (mode : RMode) : Nat := (cut mode neg m e false (e + sh)).1
    let inexact := (cut 0 neg m e false (e + sh)).2
    (inexact = true ↔ x % u ≠ 0) ∧
    r 1 = x / u ∧ r 2 = (if neg then x / u else (x + u - 1) / u) ∧ r 3 = (if neg then (x + u - 1) / u else x / u) ∧
    (2 * x ≤ 2 * (r 0 * u) + u ∧ 2 * (r 0 * u) ≤ 2 * x + u) ∧ (2 * (x % u) = u → r 0 % 2 = 0) ∧
    (2 * x ≤ 2 * (r 4 * u) + u ∧ 2 * (r 4 * u) ≤ 2 * x + u) ∧ (2 * (x % u) = u → r 4 = x / u + 1)

/-- An IEEE number written in its own format is itself, in every mode, and raises no flag (R86, R90). -/
def Sys2Proof.Claims.NumbersWriteBack : Prop :=
  ∀ F ∈ [fmtF64, fmtF32, fmtF16, fmtBf16], ∀ (mode : RMode) (x : Nat), x < 2 ^ F.width → (F.value x).isNan = false →
    F.write mode false (F.value x) = (x, 0)

/-- A k-group of finite factors is summed exactly before it is rounded, and a group whose sum is zero leaves its
element as it is (R96, R97). -/
def Sys2Proof.Claims.GroupsAreExact : Prop :=
  (∀ (q : Int) (l : List ((Bool × Nat × Int) × (Bool × Nat × Int))), q ≤ 0 → (∀ x ∈ l, q ≤ x.1.2.2 ∧ q ≤ x.2.2.2) →
    let p := groupSum (l.map fun x => (.fin x.1.1 x.1.2.1 x.1.2.2, .fin x.2.1 x.2.2.1 x.2.2.2))
    signedAt (q + q) p.neg p.m p.e = productSum q l ∧ (p.m ≠ 0 → q + q ≤ p.e) ∧
      p.snan = false ∧ p.qnan = false ∧ p.zinf = false ∧ p.pinf = false ∧ p.ninf = false) ∧
  ∀ (acct : BitVec 5) (c : Nat) (shift : Int), closeGroup acct c {} shift false = (c, 0)

/-- Exact sums, products, fused products, quotients, roots and k-groups, the special operands, the rounding modes, and
numbers written in their own format. -/
def Obligations.NumberRules : Prop :=
  Claims.ExactArithmetic ∧ Claims.FusedProducts ∧ Claims.Quotients ∧ Claims.RootsAndSpecialOperands ∧ Claims.RestsAreRounded ∧
  Claims.RoundingModes ∧ Claims.NumbersWriteBack ∧ Claims.GroupsAreExact

/-- VCVT converts each active element; VDEQ gives an MX element the value of its block's scale (R89, R94, R211,
R213). -/
def Sys2Proof.Claims.Conversions : Prop :=
  ∀ (s : State) (f : BlockFields),
    (isMx f.ty = false → WordReady s f [f.ty, f.ty2] [(f.va, f.ty2)] →
      let out (j : Nat) := convertElem (roundMode s f) (ftzOn s) (f.func.getLsbD 5) (f.func.getLsbD 8) f.ty f.ty2 (laneOf s f f.ty2 f.va j)
      ∃ t, exec (.vcvt f) s = .next t ∧ WroteVec s t f (fun j => (out j).1) (fun j => (out j).2)) ∧
    (isFloat f.ty = true → WordReady s f [f.ty, f.ty2] [(f.va, f.ty2)] → mixedBlock s.vc f f.ty (laneCount s f) = false →
      let out (j : Nat) := (fmtOf f.ty).write (roundMode s f) (ftzOn s) (mxValue f.ty2 (laneOf s f f.ty2 f.va j)
        (s.vc.scale (isFp4 f.ty2) f.va ((blockShape s f).block (j / 32)).1 ((blockShape s f).block (j / 32)).2))
      ∃ t, exec (.vdeq f) s = .next t ∧ WroteVec s t f (fun j => (out j).1) (fun j => (out j).2))

/-- What VCVT makes of one element, in mode `m`, with FTZ `z`. Integers of another width: the low bits, which extend a
narrower source; with ISAT the nearest bound of a narrower type, and 0 for a negative value into an unsigned type as wide
or wider. An integer into F, and F or Q into F, is rounded once. F or Q into an integer is rounded in the mode: a
NaN gives 0 and a value out of range the bound, both with NV and without NX. Into Q a value of the format is
itself, and one of at least twice the largest, or an infinity, saturates as SAT says (R85, R90, R93, R94, R211). -/
def Sys2Proof.Claims.ConversionsOfElements : Prop :=
  ∀ (m : RMode) (z isat sat : Bool) (dty sty : BitVec 5) (x : Nat),
    let r := convertElem m z isat sat dty sty x
    let i := intElem sty x
    let v := inValue z sty x
    let w := tyBits dty
    let lo : Int := if isSigned dty then -2 ^ (w - 1) else 0
    let hi : Int := if isSigned dty then 2 ^ (w - 1) - 1 else 2 ^ w - 1
    let enc (i : Int) : Nat := (BitVec.ofInt w i).toNat
    (isInt sty = true → isInt dty = true → r.2 = 0 ∧ (isat = false → r.1 = enc i) ∧
      (isat = true → w < tyBits sty → r.1 = enc (max lo (min hi i))) ∧
      (isat = true → tyBits sty ≤ w → r.1 = if isSigned dty = false ∧ i < 0 then 0 else enc i)) ∧
    (isInt sty = true → isFloat dty = true → r = (fmtOf dty).finish m z (.exact (.fin (decide (i < 0)) i.natAbs 0))) ∧
    (isFloat sty = true ∨ isQ sty = true → isFloat dty = true →
      let y := (fmtOf dty).finish m z (.exact v.1)
      r = (y.1, v.2 ||| (if v.1.isSnan then fNV else 0) ||| y.2)) ∧
    (isFloat sty = true ∨ isQ sty = true → isInt dty = true →
      (∀ sg, v.1 = .nan sg → r = (0, v.2 ||| fNV)) ∧ (∀ n, v.1 = .inf n → r = (enc (if n then lo else hi), v.2 ||| fNV)) ∧
      ∀ n k e, v.1 = .fin n k e →
        let c := cut m n k e false 0
        let j : Int := if n then -c.1 else c.1
        r = if j < lo then (enc lo, v.2 ||| fNV) else if hi < j then (enc hi, v.2 ||| fNV) else (enc j, v.2 ||| if c.2 then fNX else 0)) ∧
    (isFloat sty = true ∨ isQ sty = true → isQ dty = true →
      let F := fmtOf dty
      let big (n : Bool) : Nat × Flags := if sat then (0x7F, v.2 ||| (fMXSAT ||| fNV)) else (F.pack n F.maxCode, v.2 ||| (fMXSAT ||| fNX))
      (∀ sg, v.1 = .nan sg → r = (0x7F, v.2 ||| if sg then fNV else 0)) ∧ (∀ n, v.1 = .inf n → r = big n) ∧
      (∀ y < 256, (∃ n k e, F.value y = .fin n k e ∧ v.1 = .fin n k e) → r = (y, v.2)) ∧
      ∀ n k e top g q, v.1 = .fin n k e → F.value F.maxCode = .fin false top g → q ≤ e → q ≤ g →
        2 * signedAt q false top g ≤ signedAt q false k e → r = big n)

/-- VQUANT makes each active block of 32 values one scale byte and 32 elements, in one turn of the sequencer; a block with a NaN or an
infinity has scale 0xFF and zero elements, and the scale of another brings its largest value into the
range of the element type (R95, R212). -/
def Sys2Proof.Claims.Quantisation : Prop :=
  (∀ (s : State) (f : BlockFields), isMx f.ty = true → WordReady s f [f.ty, f.ty2] [(f.va, f.ty2)] → WholeWord s →
    vget s.vc.prog 128 f.vd.toNat = 128 → mixedBlock s.vc f f.ty (laneCount s f) = false →
    let q (k : Nat) := quantBlock (roundMode s f) (f.func.getLsbD 8) f.ty ((List.range 32).map fun i => (inValue (ftzOn s) f.ty2 (laneOf s f f.ty2 f.va (32 * k + i))).1)
    ∃ t, exec (.vquant f) s = .next t ∧ LanesAre s t f (fun j => (q (j / 32)).2.1.getD (j % 32) 0) ∧ WordKept s t ∧
      ∀ k < laneCount s f / 32, laneOn s f (32 * k) = true →
        t.vc.scale (isFp4 f.ty) f.vd ((blockShape s f).block k).1 ((blockShape s f).block k).2 = (q k).1 % 256) ∧
  (∀ (m : RMode) (sat : Bool) (ty : BitVec 5) (xs : List FVal), (xs.any fun x => !x.isFin) = true →
    quantBlock m sat ty xs = (0xFF, xs.map fun _ => 0, fNV)) ∧
  ∀ (m : RMode) (sat : Bool) (ty : BitVec 5) (xs : List FVal), (xs.any fun x => !x.isFin) = false →
    (∀ e ∈ xs.filterMap topExp, -127 + emaxOf ty ≤ e ∧ e ≤ 127 + emaxOf ty) → xs.filterMap topExp ≠ [] →
      ∃ e ∈ xs.filterMap topExp, (∀ g ∈ xs.filterMap topExp, g ≤ e) ∧ ((quantBlock m sat ty xs).1 : Int) = e - emaxOf ty + 127

/-- VCVT, VDEQ and VQUANT. Completes: vcvt, vdeq, vquant. -/
def Obligations.ConversionsAndQuantisation : Prop :=
  Claims.Conversions ∧ Claims.ConversionsOfElements ∧ Claims.Quantisation

/-- The predicate instructions: the bit functions, PBRKB, PBRKA and PSHL; PANY, PCNT and PFIRST, which write the first
eight bytes of a vector register (R214). Completes: pand, por, pxor, pnot, pmov, pany, pcnt, pfirst, pbrkb, pbrka,
pshl. -/
def Obligations.PredicateInstructions : Prop :=
  (∀ p ∈ predLanes, ∀ (s : State) (f : BlockFields), ∃ t, exec (p.1 f) s = .next t ∧
    WrotePred s t f.vd (predCount s) f.zm (govOn s.vc f) (p.2 f s.vc (predCount s)) 0) ∧
  ∀ (s : State) (f : BlockFields),
    let hits := (List.range (predCount s)).filter fun j => govOn s.vc f j && (s.vc.pred f.va).getLsbD j
    ∀ p ∈ [((.pany f : Instr), if hits = [] then 0 else 1), (.pcnt f, hits.length), (.pfirst f, hits.headD (2 ^ 64 - 1))],
      ∃ t, exec p.1 s = .next t ∧ ((t.vc.reg f.vd).extractLsb' 0 64).toNat = p.2 % 2 ^ 64 ∧
        (∀ b, 64 ≤ b → (t.vc.reg f.vd).getLsbD b = (s.vc.reg f.vd).getLsbD b) ∧ VecKept s.vc t.vc f.vd ∧ WordKept s t

/-- The moves within a core, on types without scales and on MX types alike: an active element comes from the
unit that the instruction names, beyond the operand's elements from a zero (R207, R215 to R218). -/
def Sys2Proof.Claims.MovesOfElements : Prop :=
  ∀ p ∈ moveLanes, ∀ (s : State) (f : BlockFields), MoveReady s f → p.2.1 s f →
    ∃ t, exec (p.1 f) s = .next t ∧ WordKept s t ∧ (∀ r, r ≠ f.vd → t.vc.reg r = s.vc.reg r) ∧
      LanesAre s t f (movedLane (s.vc.source f.va f.ty) (blockShape s f) f.ty (p.2.2 s f)) ∧ (isMx f.ty = false → VecKept s.vc t.vc f.vd)

/-- VMOV of an MX type moves the scale byte of every active block with its elements (R78, R207). -/
def Sys2Proof.Claims.ScalesMoveWithBlocks : Prop :=
  ∀ (s : State) (f : BlockFields), isMx f.ty = true → shapeTrap (blockShape s f) [f.ty] = false → (blockShape s f).rows ≤ 16 →
    mixedBlock s.vc f f.ty (laneCount s f) = false →
    ∃ t, exec (.vmov f) s = .next t ∧ ∀ k < laneCount s f / 32,
      let p := (blockShape s f).block k
      t.vc.scale (isFp4 f.ty) f.vd p.1 p.2 =
        if laneOn s f (32 * k) then s.vc.scale (isFp4 f.ty) f.va p.1 p.2 else if f.zm then 0 else s.vc.scale (isFp4 f.ty) f.vd p.1 p.2

/-- VCOMPR packs the active elements to the front in their order; VEXPND spreads the first elements over the
active positions. Element positions that receive none become zero under zm, and otherwise keep their bits (R219). -/
def Sys2Proof.Claims.CompressAndExpand : Prop :=
  ∀ (s : State) (f : BlockFields), isMx f.ty = false → shapeTrap (blockShape s f) [f.ty] = false → (blockShape s f).rows ≤ 16 →
    let act := (List.range (laneCount s f)).filter (laneOn s f)
    (∃ t, exec (.vcompr f) s = .next t ∧ WordKept s t ∧ VecKept s.vc t.vc f.vd ∧ ∀ j < laneCount s f,
      elem (t.vc.reg f.vd) (blockShape s f) f.ty j =
        match act[j]? with
        | some i => laneOf s f f.ty f.va i
        | none => if f.zm then 0 else laneOf s f f.ty f.vd j) ∧
    ∃ t, exec (.vexpnd f) s = .next t ∧ WordKept s t ∧ VecKept s.vc t.vc f.vd ∧ ∀ j < laneCount s f,
      elem (t.vc.reg f.vd) (blockShape s f) f.ty j =
        if laneOn s f j then laneOf s f f.ty f.va ((List.range j).filter (laneOn s f)).length
        else if f.zm then 0 else laneOf s f f.ty f.vd j

/-- The moves within a core, of elements and of scale bytes, and VCOMPR and VEXPND. Completes: vmov, vperm, vslide,
vxpose, vextr, vcompr, vexpnd. -/
def Obligations.MovesOfElementsAndScales : Prop :=
  Claims.MovesOfElements ∧ Claims.ScalesMoveWithBlocks ∧ Claims.CompressAndExpand

/-- XSEND fills the neighbour's empty buffer with the operand, every other position zero; XRECV empties the core's own
full buffer into Vd. Each waits until it can, and in a leg of a FORK region both are illegal (R197, R220). Completes:
xsend, xrecv. Completes: xsend, xrecv. -/
def Obligations.Exchanges : Prop :=
  ∀ (s : State) (f : BlockFields),
    let fwd := !f.func.getLsbD 0
    let nb := neighbour s fwd
    (exchangeIllegal s = true → exec (.xsend f) s = .next (wordFault s trapIllegal) ∧ exec (.xrecv f) s = .next (wordFault s trapIllegal)) ∧
    (exchangeIllegal s = false → shapeTrap (blockShape s f) [f.ty] = false →
      ((s.core nb).xbuf fwd ≠ none ∨ s.vaulting nb = true → exec (.xsend f) s = .next s) ∧
      ((s.core nb).xbuf fwd = none → s.vaulting nb = false →
        exec (.xsend f) s = .next (wordOn (s.modCore nb fun c => c.setXbuf fwd (some (sendImage s.vc f.va f.ty (blockShape s f))))))) ∧
    (exchangeIllegal s = false → shapeTrap (blockShape s f) [f.ty] = false → (isMx f.ty && mixedBlock s.vc f f.ty (laneCount s f)) = false →
      (s.here.xbuf fwd = none → exec (.xrecv f) s = .next s) ∧
      ∀ b, s.here.xbuf fwd = some b → (blockShape s f).rows ≤ 16 →
        ∃ t, exec (.xrecv f) s = .next t ∧ t.mem = s.mem ∧ t.here.xbuf fwd = none ∧ (∀ r, r ≠ f.vd → t.vc.reg r = s.vc.reg r) ∧
          LanesAre s t f (fun j => elem b.image (blockShape s f) f.ty j))

/-- Reductions of integers, in one turn of the sequencer: the sum modulo 2^w, the least, the greatest, AND and OR of
v0 and the active elements stand in element 0 of Vd, and nothing else of it changes (R101, R102, R221). -/
def Sys2Proof.Claims.IntegerReductions : Prop :=
  ∀ (s : State) (f : BlockFields), isInt f.ty = true → WordReady s f [f.ty] [(f.va, f.ty)] → WholeWord s → 0 < laneCount s f →
    elemBad (s.vc.poi f.vb) (blockShape s f) f.ty 0 = false →
    let v0 := laneOf s f f.ty f.vb 0
    let xs := ((List.range (laneCount s f)).filter (laneOn s f)).map (laneOf s f f.ty f.va)
    let wrote (t : State) : Prop := WordKept s t ∧ VecKept s.vc t.vc f.vd ∧ t.vc.flags = s.vc.flags ∧
      ∀ j, 1 ≤ j → j < laneCount s f → elem (t.vc.reg f.vd) (blockShape s f) f.ty j = laneOf s f f.ty f.vd j
    let r (t : State) : Nat := elem (t.vc.reg f.vd) (blockShape s f) f.ty 0
    (∀ i ∈ [Instr.vredsum f, .vredosum f], ∃ t, exec i s = .next t ∧ wrote t ∧ r t = (v0 + xs.sum) % 2 ^ tyBits f.ty) ∧
    (∃ t, exec (.vredmin f) s = .next t ∧ wrote t ∧ r t ∈ v0 :: xs ∧ ∀ x ∈ v0 :: xs, intElem f.ty (r t) ≤ intElem f.ty x) ∧
    (∃ t, exec (.vredmax f) s = .next t ∧ wrote t ∧ r t ∈ v0 :: xs ∧ ∀ x ∈ v0 :: xs, intElem f.ty x ≤ intElem f.ty (r t)) ∧
    (∃ t, exec (.vredand f) s = .next t ∧ wrote t ∧ r t = xs.foldl (· &&& ·) v0) ∧
    ∃ t, exec (.vredor f) s = .next t ∧ wrote t ∧ r t = xs.foldl (· ||| ·) v0

/-- The reductions of floating-point elements: VREDOSUM adds in element order, VREDSUM in the pairwise tree of R101 and
then to the first element of Vb, VREDMIN and VREDMAX choose as VFMIN and VFMAX do; every flag is raised (R100 to
R102, R221). With no active element the sums give v0 as it stands (R100, R101); that VREDMIN and VREDMAX do so too, and
raise nothing, is the model's choice (log entry 63). -/
def Sys2Proof.Claims.FloatReductions : Prop :=
  ∀ (s : State) (f : BlockFields), isFloat f.ty = true → WordReady s f [f.ty] [(f.va, f.ty)] → WholeWord s → 0 < laneCount s f →
    elemBad (s.vc.poi f.vb) (blockShape s f) f.ty 0 = false →
    let add := addElems (roundMode s f) (ftzOn s) f.ty
    let v0 := laneOf s f f.ty f.vb 0
    let leaf (j : Nat) : Option Nat := if laneOn s f j then some (laneOf s f f.ty f.va j) else none
    let xs := ((List.range (laneCount s f)).filter (laneOn s f)).map (laneOf s f f.ty f.va)
    let fold (op : Nat → Nat → Nat × Flags) : Nat × Flags :=
      xs.foldl (fun a x => ((op a.1 x).1, a.2 ||| (op a.1 x).2)) (v0, 0)
    let gives (t : State) (r : Nat × Flags) : Prop := WordKept s t ∧ VecKept s.vc t.vc f.vd ∧ t.vc.flags = s.vc.flags ||| r.2 ∧
      elem (t.vc.reg f.vd) (blockShape s f) f.ty 0 = r.1 % 2 ^ tyBits f.ty ∧
      ∀ j, 1 ≤ j → j < laneCount s f → elem (t.vc.reg f.vd) (blockShape s f) f.ty j = laneOf s f f.ty f.vd j
    (∃ t, exec (.vredosum f) s = .next t ∧ gives t (fold add)) ∧
    (∃ t, exec (.vredmin f) s = .next t ∧ gives t (fold (minMaxElems (ftzOn s) false f.ty))) ∧
    (∃ t, exec (.vredmax f) s = .next t ∧ gives t (fold (minMaxElems (ftzOn s) true f.ty))) ∧
    ∃ t, exec (.vredsum f) s = .next t ∧ gives t
      (match sumTree add 14 ((List.range (laneCount s f)).map leaf) with
        | (none, _) => (v0, 0)
        | (some x, fl) => ((add v0 x).1, fl ||| (add v0 x).2))

/-- A reduction that is stopped after some elements comes, over the turns, to what it comes to in one: an ordered one
keeps the sum so far, VREDSUM the subtrees that are complete (R100, R101, R103). -/
def Sys2Proof.Claims.ReductionsRestart : Prop :=
  (∀ (step : Nat → Nat → Nat × Flags) (v0 : Nat) (xs : List (Option Nat)) (k : Nat), k < xs.length →
    ∃ r, (foldRun step v0 xs none k).1 = .inr r ∧ r.next = k ∧
      (foldRun step v0 xs (some r) xs.length).1 = (foldRun step v0 xs none xs.length).1 ∧
      (foldRun step v0 xs none xs.length).2 = (foldRun step v0 xs none k).2 ||| (foldRun step v0 xs (some r) xs.length).2) ∧
  ∀ (add : Nat → Nat → Nat × Flags) (v0 : Nat) (xs : List (Option Nat)) (k : Nat), k < xs.length →
    ∃ r, (treeRun add v0 xs none k).1 = .inr r ∧ r.next = k ∧
      (treeRun add v0 xs (some r) xs.length).1 = (treeRun add v0 xs none xs.length).1

/-- The reductions of integers and of floating-point elements, and what stopping one leaves. Completes: vredsum,
vredosum, vredmin, vredmax, vredand, vredor. -/
def Obligations.Reductions : Prop :=
  Claims.IntegerReductions ∧ Claims.FloatReductions ∧ Claims.ReductionsRestart

/-- VLD of elements and of packed MX blocks from memory, and of scale bytes: each active element of Vd is what
the context sees at its address (R69, R78, R195, R222, R223). -/
def Sys2Proof.Claims.VectorLoads : Prop :=
  ∀ (s : State) (f : BlockFields) (tg : Nat → Target), Direct s → LoadChecks s f (f.func.getLsbD 6) →
    (isMx f.ty = false → isScl f = false → let a := elemAccess s f
      a.mapped s a.count false tg → a.clean s a.count tg → a.goes s a.count (laneGroup s f) tg →
      ∃ t, exec (.vld f) s = .next t ∧ LoadKept s t f.vd ∧ LanesAre s t f (a.seen s tg)) ∧
    (isMx f.ty = true → let a := blockAccess s f
      a.mapped s a.count false tg → a.clean s a.count tg → a.goes s a.count (mxGroup s f) tg →
      ∃ t, exec (.vld f) s = .next t ∧ LoadKept s t f.vd ∧
        LanesAre s t f (fun j => bits (bytesBV 256 (view s s.cur.unit 0 (tg (j / 32)).pa a.size)) (tyWidth f.ty * (j % 32)) (tyWidth f.ty))) ∧
    (isScl f = true → let a := scaleAccess s f
      a.mapped s a.count false tg → a.clean s a.count tg → a.goes s a.count (fun _ => 0) tg →
      ∃ t, exec (.vldScl f) s = .next t ∧ LoadKept s t f.vd ∧ t.vc.reg f.vd = s.vc.reg f.vd ∧ ∀ k < a.count,
        t.vc.scale (sclFp4 f) f.vd ((blockShape s f).block k).1 ((blockShape s f).block k).2 = a.seen s tg k)

/-- VLDFF loads as VLD does and clears FFV; when an element after the first active one does not translate,
the elements below it are loaded, the others stay, and VFSTAT names it (R81, R225). -/
def Sys2Proof.Claims.FirstFaultLoads : Prop :=
  ∀ (s : State) (f : BlockFields) (tg : Nat → Target), Direct s → isMx f.ty = false → isScl f = false → memTrap s f false = none →
    (blockShape s f).rows ≤ 16 → s.vc.vcm = 0 → let a := elemAccess s f
    (∀ j < a.count, a.on j = true → ∀ t, s.xlate s.cur.unit 0 .load false (a.va j) = .ok t → t.attr ≠ .device) →
    (a.mapped s a.count false tg → a.clean s a.count tg → a.goes s a.count (laneGroup s f) tg →
      ∃ t, exec (.vldff f) s = .next t ∧ LoadKept s t f.vd ∧ LanesAre s t f (a.seen s tg) ∧ t.vc.vfstat.getLsbD 63 = false ∧ bits t.vc.vfstat 32 14 = 0) ∧
    ∀ k i st, k < a.count → i < k → a.on i = true → a.on k = true → s.xlate s.cur.unit 0 .load false (a.va k) = .error st →
      xLater st = false → a.mapped s k false tg → a.clean s k tg → a.goes s k (laneGroup s f) tg →
      ∃ t, exec (.vldff f) s = .next t ∧ LoadKept s t f.vd ∧ t.vc.vfstat.getLsbD 63 = true ∧ bits t.vc.vfstat 32 14 = k % 2 ^ 14 ∧
        (∀ j < k, elem (t.vc.reg f.vd) (blockShape s f) f.ty j =
          if a.on j then a.seen s tg j else if f.zm then 0 else laneOf s f f.ty f.vd j) ∧
        ∀ j, k ≤ j → j < a.count → elem (t.vc.reg f.vd) (blockShape s f) f.ty j = laneOf s f f.ty f.vd j

/-- VLD, VLD.scl and VLDFF. Completes: vld, vldScl, vldff. -/
def Obligations.VectorMemoryLoads : Prop :=
  Claims.VectorLoads ∧ Claims.FirstFaultLoads

/-- VST of elements, of packed MX blocks and of scale bytes: one pending store for each active one, in ascending
order, on the path of its lane group; memory at its home changes when they are performed (R112, R125, R222, R223). -/
def Sys2Proof.Claims.VectorStores : Prop :=
  ∀ (s : State) (f : BlockFields) (tg : Nat → Target), Direct s → StoreChecks s f →
    (isMx f.ty = false → isScl f = false → let a := elemAccess s f
      a.mapped s a.count true tg → a.free s tg →
      ∃ t, exec (.vst f) s = .next t ∧ StoreKept s t (a.stores s (laneGroup s f) 0 none tg (elemBytes s f))) ∧
    (isMx f.ty = true → let a := blockAccess s f
      a.mapped s a.count true tg → a.free s tg →
      ∃ t, exec (.vst f) s = .next t ∧ StoreKept s t (a.stores s (mxGroup s f) 0 none tg (blockData s f))) ∧
    (isScl f = true → let a := scaleAccess s f
      a.mapped s a.count true tg → a.free s tg →
      ∃ t, exec (.vstScl f) s = .next t ∧ StoreKept s t (a.stores s (fun _ => 0) 0 none tg (scaleData s f)))

/-- An add of a VSCADD that nothing orders behind another is applied at its home: the sum of integers wraps,
and no other byte of memory changes (R115, R139). -/
def Sys2Proof.Claims.ScatterAddsApply : Prop :=
  ∀ (s : State) (idx : Nat) (p : PStore) (ty : BitVec 5), s.fab.pend[idx]? = some p → p.add = some ty → pendReady s idx p = true →
    isInt ty = true → p.bytes.length = tyBytes ty → s.fab.poison = [] →
    ∃ t, exec (.scatterAddApply idx) s = .next t ∧ t.fab.pend = listDel s.fab.pend idx ∧
      t.mem.readLe p.pa (tyBytes ty) = (s.mem.readLe p.pa (tyBytes ty) + bytesNat p.bytes) % 2 ^ tyBits ty ∧
      ∀ a, ¬(p.pa ≤ a ∧ a < p.pa + tyBytes ty) → t.mem.read a = s.mem.read a

/-- LSYNC orders the context's later vector accesses after its earlier ones; with a scope it also waits until
those are performed there (R126, R229). -/
def Sys2Proof.Claims.LaneSynchronisation : Prop :=
  ∀ (s : State) (f : BlockFields), s.cur.ctx = 0 →
    exec (.lsync f) s = .next (wordOn (s.modMe fun x => { x with epoch := x.epoch + 1 })) ∧
    (Direct s → lanesDone s (bits f.func 0 3) = true →
      exec (.lsyncScoped f) s = .next (wordOn (s.modMe fun x => { x with epoch := x.epoch + 1 }))) ∧
    (Direct s → lanesDone s (bits f.func 0 3) = false →
      exec (.lsyncScoped f) s = .next s)

/-- VST and VST.scl, the adds of VSCADD at their home, and LSYNC. Completes: vst, vstScl, scatterAddApply, lsync,
lsyncScoped. -/
def Obligations.VectorMemoryStores : Prop :=
  Claims.VectorStores ∧ Claims.ScatterAddsApply ∧ Claims.LaneSynchronisation

/-- VLDS and VSTS of elements, of packed MX blocks and of scale bytes: the same of the core's scratchpad, whose bytes
change at once and in ascending order (R107, R125, R223, R226). -/
def Sys2Proof.Claims.VectorScratchpad : Prop :=
  ∀ (s : State) (f : BlockFields), Direct s →
    (LoadChecks s f (f.func.getLsbD 6) → f.func.getLsbD 5 = false → s.here.spPoison = [] →
      (isMx f.ty = false → isScl f = false → (elemAccess s f).inPad s → ∃ t, exec (.vlds f) s = .next t ∧ LoadKept s t f.vd ∧
        LanesAre s t f ((elemAccess s f).inSp s)) ∧
      (isMx f.ty = true → (blockAccess s f).inPad s → ∃ t, exec (.vlds f) s = .next t ∧ LoadKept s t f.vd ∧
        LanesAre s t f fun j => bits (bytesBV 256 (s.here.sp.readN ((blockAccess s f).va (j / 32)).toNat (blockAccess s f).size))
          (tyWidth f.ty * (j % 32)) (tyWidth f.ty)) ∧
      (isScl f = true → (scaleAccess s f).inPad s → ∃ t, exec (.vldsScl f) s = .next t ∧ LoadKept s t f.vd ∧
        ∀ k < (scaleAccess s f).count, t.vc.scale (sclFp4 f) f.vd ((blockShape s f).block k).1 ((blockShape s f).block k).2 = (scaleAccess s f).inSp s k)) ∧
    (StoreChecks s f →
      let wrote (t : State) (a : Access) (data : Nat → List Byte) : Prop := StoreKept s t [] ∧
        t.here.sp = ((List.range a.count).filter a.on).foldl (fun m j => m.writeN (a.va j).toNat (data j)) s.here.sp
      (isMx f.ty = false → isScl f = false → (elemAccess s f).inPad s → ∃ t, exec (.vsts f) s = .next t ∧ wrote t (elemAccess s f) (elemBytes s f)) ∧
      (isMx f.ty = true → (blockAccess s f).inPad s → ∃ t, exec (.vsts f) s = .next t ∧ wrote t (blockAccess s f) (blockData s f)) ∧
      (isScl f = true → (scaleAccess s f).inPad s → ∃ t, exec (.vstsScl f) s = .next t ∧ wrote t (scaleAccess s f) (scaleData s f)))

/-- VLDX, VSTX and VSCADD: element j at B plus its shifted index; VSCADD sends an add instead of a store, each of
one instruction under its own number. Nothing of it was done before, and VCM is clear at the end (R115, R139, R193,
R224, R228). -/
def Sys2Proof.Claims.IndexedAccesses : Prop :=
  ∀ (s : State) (f : BlockFields) (tg : Nat → Target), Direct s → isMx f.ty = false → isScl f = false → s.vc.vcm = 0 → s.here.seq.idx = none →
    shapeTrap (blockShape s f) [f.ty, indexType f] = false → (blockShape s f).rows ≤ 16 → (xOperand s f).toNat % tyBytes f.ty = 0 →
    s.vc.poi f.vb = 0 → let a := indexAccess s f
    (∀ j < a.count, a.on j = true → (a.va j).toNat % a.size = 0 ∧ (tg j).attr ≠ .device) →
    (a.mapped s a.count false tg → a.clean s a.count tg → a.goes s a.count (laneGroup s f) tg →
      ∃ t, exec (.vldx f) s = .next t ∧ LoadKept s t f.vd ∧ LanesAre s t f (a.seen s tg) ∧ t.vc.vcm = 0) ∧
    (a.mapped s a.count true tg → s.vc.poi f.va = 0 →
      (a.free s tg → ∃ t, exec (.vstx f) s = .next t ∧ StoreKept s t (a.stores s (laneGroup s f) 0 none tg (elemBytes s f))) ∧
      (a.addFree s tg → ∃ t, exec (.vscadd f) s = .next t ∧ StoreKept s t (a.stores s (laneGroup s f) (s.fab.useSeq + 1) (some f.ty) tg (elemBytes s f))))

/-- VLDSEG and VSTSEG of segments within a line: element j of the i-th register is the i-th element of segment j
(R138, R227). -/
def Sys2Proof.Claims.Segments : Prop :=
  ∀ (s : State) (f : BlockFields) (tg : Nat → Target), Direct s → isMx f.ty = false → segTrap s f = none → (blockShape s f).rows ≤ 16 →
    s.here.seq.stop = none → let a := segAccess s f
    (∀ j < a.count, a.on j = true → (tg j).attr ≠ .device) →
    (vget s.vc.prog 128 f.vd.toNat = 128 → a.mapped s a.count false tg → a.clean s a.count tg → a.goes s a.count (laneGroup s f) tg →
      ∃ t, exec (.vldseg f) s = .next t ∧ t.mem = s.mem ∧ t.here.seq.pc = s.here.seq.pc + 8 ∧
        (∀ r, (∀ i < segFields f, r ≠ regPlus f.vd i) → t.vc.reg r = s.vc.reg r) ∧
        ∀ i < segFields f, ∀ j < a.count, elem (t.vc.reg (regPlus f.vd i)) (blockShape s f) f.ty j =
          if a.on j then bytesNat (view s s.cur.unit 0 ((tg j).pa + i * tyBytes f.ty) (tyBytes f.ty))
          else if f.zm then 0 else laneOf s f f.ty (regPlus f.vd i) j) ∧
    (s.here.seq.resume = 0 → (∀ i < segFields f, s.vc.poi (regPlus f.va i) = 0) → a.mapped s a.count true tg → a.free s tg →
      ∃ t, exec (.vstseg f) s = .next t ∧ StoreKept s t (a.stores s (laneGroup s f) 0 none tg fun j =>
        (List.range (segFields f)).flatMap fun i => bvBytes (tyBytes f.ty) (BitVec.ofNat 64 (laneOf s f f.ty (regPlus f.va i) j))))

/-- VLDS and VSTS, VLDX, VSTX and VSCADD, VLDSEG and VSTSEG. Completes: vlds, vldsScl, vsts, vstsScl, vldx, vstx,
vscadd, vldseg, vstseg. -/
def Obligations.VectorScratchpadIndexedAndSegments : Prop :=
  Claims.VectorScratchpad ∧ Claims.IndexedAccesses ∧ Claims.Segments

/-- MSHAPE writes a valid value, and another is illegal (R81, R232). MTLD takes a tile from two vector registers,
with their scale bytes for an MX type (R79, R233). -/
def Sys2Proof.Claims.MatrixShapeAndTiles : Prop :=
  ∀ (s : State) (f : BlockFields),
    (mshapeOk (xOperand s f) = true → exec (.mshape f) s = .next (wordOn (s.setVc { s.vc with mshape := xOperand s f }))) ∧
    (mshapeOk (xOperand s f) = false → exec (.mshape f) s = .next (wordFault s trapOperand)) ∧
    (f.vd.toNat < 8 → s.vc.poi f.va = 0 → s.vc.poi (regPlus f.va 1) = 0 → ∃ t, exec (.mtld f) s = .next t ∧ WordKept s t ∧
      TileKept s.vc t.vc f.vd.toNat ∧ t.vc.tile f.vd.toNat = s.vc.reg (regPlus f.va 1) ++ s.vc.reg f.va ∧
      (isMx f.ty = false → vget t.vc.tsc 0 f.vd.toNat = vget s.vc.tsc 0 f.vd.toNat) ∧
      (isMx f.ty = true → ∀ i < 32, ∀ b < (if isFp4 f.ty then 32 else 16),
        t.vc.tileScale f.vd.toNat i b = s.vc.scale (isFp4 f.ty) (regPlus f.va (i / 16)) (i % 16) b))

/-- MTLDM loads the rows of a tile, or of its scale area, from memory or the scratchpad (R231, R234). -/
def Sys2Proof.Claims.TileLoads : Prop :=
  ∀ (s : State) (f : BlockFields) (tg : Nat → Target), Direct s → f.vd.toNat < 8 →
    (f.func.getLsbD 0 = false → (∀ k, (tg k).attr ≠ .device) →
      (tileMisaligned s f false = false → let a := tileAccess s f
        a.mapped s 256 false tg → a.clean s 256 tg → a.goes s 256 (· % 8) tg →
        ∃ t, exec (.mtldm f) s = .next t ∧ t.mem = s.mem ∧ t.here.seq.pc = s.here.seq.pc + 8 ∧ TileKept s.vc t.vc f.vd.toNat ∧
          ∀ k < 256, tilePart t.vc f.vd.toNat k = bytesBV 512 (view s s.cur.unit 0 (tg k).pa 64)) ∧
      (tileMisaligned s f true = false → let a := tileScaleAccess s f
        a.mapped s 32 false tg → a.clean s 32 tg → a.goes s 32 (fun _ => 0) tg →
        ∃ t, exec (.mtldmScl f) s = .next t ∧ t.mem = s.mem ∧ TileKept s.vc t.vc f.vd.toNat ∧
          ∀ k < 32, tileScaleRow t.vc f.vd.toNat k = bytesBV 256 (view s s.cur.unit 0 (tg k).pa 32))) ∧
    (f.func.getLsbD 0 = true → s.here.spPoison = [] →
      (tileMisaligned s f false = false → (tileAccess s f).inPad s → ∃ t, exec (.mtldm f) s = .next t ∧ TileKept s.vc t.vc f.vd.toNat ∧ WordKept s t ∧
        ∀ k < 256, tilePart t.vc f.vd.toNat k = bytesBV 512 (s.here.sp.readN ((tileAccess s f).va k).toNat 64)) ∧
      (tileMisaligned s f true = false → (tileScaleAccess s f).inPad s → ∃ t, exec (.mtldmScl f) s = .next t ∧ TileKept s.vc t.vc f.vd.toNat ∧
        WordKept s t ∧ ∀ k < 32, tileScaleRow t.vc f.vd.toNat k = bytesBV 256 (s.here.sp.readN ((tileScaleAccess s f).va k).toNat 32)))

/-- MTST stores them, in ascending order (R231, R234). -/
def Sys2Proof.Claims.TileStores : Prop :=
  ∀ (s : State) (f : BlockFields) (tg : Nat → Target), Direct s →
    let part (k : Nat) : List Byte := bvBytes 64 (tilePart s.vc f.vd.toNat k)
    let row (k : Nat) : List Byte := bvBytes 32 (tileScaleRow s.vc f.vd.toNat k)
    (f.func.getLsbD 0 = false → (∀ k, (tg k).attr ≠ .device) →
      (tileMisaligned s f false = false → (tileAccess s f).mapped s 256 true tg → (tileAccess s f).free s tg →
        ∃ t, exec (.mtst f) s = .next t ∧ StoreKept s t ((tileAccess s f).stores s (· % 8) 0 none tg part)) ∧
      (tileMisaligned s f true = false → (tileScaleAccess s f).mapped s 32 true tg → (tileScaleAccess s f).free s tg →
        ∃ t, exec (.mtstScl f) s = .next t ∧ StoreKept s t ((tileScaleAccess s f).stores s (fun _ => 0) 0 none tg row))) ∧
    (f.func.getLsbD 0 = true →
      (tileMisaligned s f false = false → (tileAccess s f).inPad s → ∃ t, exec (.mtst f) s = .next t ∧ StoreKept s t [] ∧
        t.here.sp = (List.range 256).foldl (fun m k => m.writeN ((tileAccess s f).va k).toNat (part k)) s.here.sp) ∧
      (tileMisaligned s f true = false → (tileScaleAccess s f).inPad s → ∃ t, exec (.mtstScl f) s = .next t ∧ StoreKept s t [] ∧
        t.here.sp = (List.range 32).foldl (fun m k => m.writeN ((tileScaleAccess s f).va k).toNat (row k)) s.here.sp))

/-- MSHAPE, MTLD, MTLDM and MTST. Completes: mshape, mtld, mtldm, mtldmScl, mtst, mtstScl. -/
def Obligations.Tiles : Prop :=
  Claims.MatrixShapeAndTiles ∧ Claims.TileLoads ∧ Claims.TileStores

/-- MACCZ clears an accumulator and its k position; MACCRD and MACCWR move rows between an accumulator and a
vector register (R235, R236). -/
def Sys2Proof.Claims.Accumulators : Prop :=
  ∀ (s : State) (f : BlockFields),
    let q := bits f.func 5 4 + 1
    let m0 := bits f.func 0 5
    let h := rowShape s s.block.vcols.toNat
    (f.vd.toNat < 2 → ∃ t, exec (.maccz f) s = .next t ∧ WordKept s t ∧ AccKept s.vc t.vc f.vd.toNat ∧ vget t.vc.acc 0 f.vd.toNat = 0 ∧
      vget t.vc.kpos 0 f.vd.toNat = 0 ∧ vget t.vc.opn true f.vd.toNat = false) ∧
    (accMoveTrap s f f.va.toNat = false → h.rows ≤ 16 → ∃ t, exec (.maccrd f) s = .next t ∧ WordKept s t ∧ VecKept s.vc t.vc f.vd ∧
      ∀ r < h.rows, ∀ j < h.cols, rowElem t.vc f.vd f.ty r j =
        if f.slice.toNat ≤ r ∧ r < f.slice.toNat + q ∧ j < 32 then s.vc.accElem f.va.toNat f.ty (m0 + (r - f.slice.toNat)) j
        else rowElem s.vc f.vd f.ty r j) ∧
    (f.vd.toNat < 2 → accMoveTrap s f f.vd.toNat = false → h.rows ≤ 16 → s.vc.poi f.va = 0 → ∃ t, exec (.maccwr f) s = .next t ∧ WordKept s t ∧
      AccKept s.vc t.vc f.vd.toNat ∧ vget t.vc.kpos 1 f.vd.toNat = 0 ∧
      ∀ r < 32, ∀ j < 32, t.vc.accElem f.vd.toNat f.ty r j =
        if m0 ≤ r ∧ r < m0 + q then (if j < h.cols then rowElem s.vc f.va f.ty (f.slice.toNat + (r - m0)) j else 0)
        else s.vc.accElem f.vd.toNat f.ty r j)

/-- MMA.ip and MMA.rw, in one turn of the sequencer: each element of the destination rows is updated by its k-groups one after another; every
other row of Vd stays (R97, R238, R239, R241). -/
def Sys2Proof.Claims.RowDataflows : Prop :=
  ∀ (s : State) (f : BlockFields), mmaTrap s f (mmaQ f) = false → mmaClean s f → WholeWord s →
    vget s.vc.prog 128 f.vd.toNat = 128 → s.block.vrows.toNat ≤ 16 →
    mshapeN s.vc * tyBits (acctOf s.vc) ≤ 4096 →
    let wrote (t : State) (cell : Nat → Nat → Nat → Nat × Flags) : Prop := WordKept s t ∧ VecKept s.vc t.vc f.vd ∧
      ∀ r < 16, ∀ j < mshapeN s.vc, rowElem t.vc f.vd (acctOf s.vc) r j =
        if mmaRow f ≤ r ∧ r < mmaRow f + mmaQ f then (cell r j (rowElem s.vc f.vd (acctOf s.vc) r j)).1 % 2 ^ tyBits (acctOf s.vc)
        else rowElem s.vc f.vd (acctOf s.vc) r j
    (mshapeK s.vc * tyBits f.ty ≤ 4096 → ∃ t, exec (.mmaIp f) s = .next t ∧ wrote t (ipCell s f)) ∧
    (rwTrap s f (mmaQ f) = false → ∃ t, exec (.mmaRw f) s = .next t ∧ wrote t (rwCell s f))

/-- MMA.op of one row: the k position moves on by the panel's depth up to K, and only the elements of M x N
of the accumulator may change. A step that closes a group leaves no partial outside M x N either (R235, R240). -/
def Sys2Proof.Claims.OuterProduct : Prop :=
  ∀ (s : State) (f : BlockFields), f.vd.toNat < 2 → mmaQ f = 1 → mmaTrap s f 1 = false → mmaClean s f → WholeWord s →
    let k0 := (vget s.vc.kpos 0 f.vd.toNat).toNat
    let k1 := min (k0 + panelDepth f.ty) (mshapeK s.vc)
    (mshapeK s.vc ≤ k0 → exec (.mmaOp f) s = .next (wordFault s trapOperand)) ∧
    (k0 < mshapeK s.vc → mshapeK s.vc ≤ 1024 → mshapeM s.vc ≤ 32 → mshapeN s.vc ≤ 32 → ∃ t, exec (.mmaOp f) s = .next t ∧ WordKept s t ∧ AccKept s.vc t.vc f.vd.toNat ∧
      (vget t.vc.kpos 0 f.vd.toNat).toNat = k1 ∧
      (vget t.vc.opn false f.vd.toNat = true ↔ k1 % groupLen f.ty ≠ 0 ∧ k1 < mshapeK s.vc) ∧
      (∀ m n, m < 32 → n < 32 → ¬(m < mshapeM s.vc ∧ n < mshapeN s.vc) →
        t.vc.accElem f.vd.toNat 11 m n = s.vc.accElem f.vd.toNat 11 m n ∧
          (stepCloses (groupLen f.ty) k0 k1 (mshapeK s.vc) = true → (vget t.vc.part [] f.vd.toNat).get {} (32 * m + n) = {})) ∧
      ∀ m n, m < mshapeM s.vc → n < mshapeN s.vc → t.vc.accElem f.vd.toNat (acctOf s.vc) m n =
        (stepElem (acctOf s.vc) (isMx f.ty) (groupLen f.ty) k0 k1 (mshapeK s.vc)
          (fun x => elemValue f.ty (rowElem s.vc f.va f.ty (mmaRow f) (m * panelDepth f.ty + x)))
          (fun x => elemValue f.ty (rowElem s.vc f.vb f.ty (mmaRow f) (x * 32 + n)))
          (fun i => (bits (vget s.vc.sc 0 f.vc.toNat) (8 * (m * 32 + i)) 8, bits (vget s.vc.sc 0 f.vc.toNat) (8 * (1024 + n * 32 + i)) 8))
          (s.vc.accElem f.vd.toNat (acctOf s.vc) m n) ((vget s.vc.part [] f.vd.toNat).get {} (32 * m + n))).1 % 2 ^ tyBits (acctOf s.vc))

/-- MMA.rw.sp keeps the merge buffer's columns ascending and leaves the value of a column that no product
reaches; MMRD reads entries from an offset, 0xFFFF and 0 beyond the end, and may clear the buffer (R242, R243). -/
def Sys2Proof.Claims.MergeBuffer : Prop :=
  ∀ (s : State) (f : BlockFields), s.vc.merge.Pairwise (fun a b => a.1.toNat < b.1.toNat) →
    (rwTrap s f 1 = false → mmaClean s f →
      (s.vc.merge.length + (spProducts s f).length ≤ 4096) → ∃ t, exec (.mmaRwSp f) s = .next t ∧ WordKept s t ∧
        { t.vc with merge := s.vc.merge, flags := s.vc.flags } = s.vc ∧
        t.vc.merge.Pairwise (fun a b => a.1.toNat < b.1.toNat) ∧
        (∀ c, (t.vc.merge.any fun x => x.1 == c) = ((s.vc.merge.any fun x => x.1 == c) || (spProducts s f).any fun y => y.2.1 == c)) ∧
        ∀ c, ((spProducts s f).any fun y => y.2.1 == c) = false → mergeGet t.vc.merge c = mergeGet s.vc.merge c) ∧
    (f.ty = acctOf s.vc → shapeTrap (blockShape s f) [f.ty, tyN16] = false → (blockShape s f).rows ≤ 16 → regPlus f.vd 1 ≠ f.vd →
      let p := (xOperand s f).toNat
      ∃ t, exec (.mmrd f) s = .next t ∧ WordKept s t ∧ t.vc.merge = (if f.func.getLsbD 0 then [] else s.vc.merge) ∧
        (∀ r, r ≠ f.vd → r ≠ regPlus f.vd 1 → t.vc.reg r = s.vc.reg r) ∧
        ∀ j < laneCount s f, elem (t.vc.reg f.vd) (blockShape s f) tyN16 j = ((s.vc.merge[p + j]?).map fun x => x.1.toNat).getD 0xFFFF ∧
          elem (t.vc.reg (regPlus f.vd 1)) (blockShape s f) f.ty j = (((s.vc.merge[p + j]?).map fun x => x.2.toNat).getD 0) % 2 ^ tyBits f.ty)

/-- The accumulators, the dataflows of MMA, and the merge buffer. Completes: maccz, maccrd, maccwr, mmaIp, mmaRw,
mmaOp, mmaRwSp, mmrd. -/
def Obligations.MatrixProducts : Prop :=
  Claims.Accumulators ∧ Claims.RowDataflows ∧ Claims.OuterProduct ∧ Claims.MergeBuffer

/-- VMERGE of two streams whose indices rise strictly: the output rises strictly and holds every index of either,
with the sum where both name it, stream A's value first; padding follows. Where the merged entries are too
many, and at a decreasing index when RMODE.SORTVT asks for it, the word traps (R246). -/
def Sys2Proof.Claims.SparseMerge : Prop :=
  ∀ (s : State) (f : BlockFields), isInt f.ty = true ∨ isFloat f.ty = true →
    let it := sparseType f
    let a := streamOf s f f.va (regPlus f.va 1)
    let b := streamOf s f f.vb (regPlus f.vb 1)
    SparseReady s f [(f.va, it), (regPlus f.va 1, f.ty), (f.vb, it), (regPlus f.vb 1, f.ty)] (fun _ => true) →
    (∀ out : List (Nat × Nat), Rising a → Rising b → Rising out →
      (∀ x v, (x, v) ∈ out ↔ ((x, v) ∈ a ∧ ∀ w, (x, w) ∉ b) ∨ ((x, v) ∈ b ∧ ∀ w, (x, w) ∉ a) ∨
        ∃ y z, (x, y) ∈ a ∧ (x, z) ∈ b ∧ v = (addElems (roundMode s f) (ftzOn s) f.ty y z).1) →
      (out.length ≤ laneCount s f → ∃ t, exec (.vmerge f) s = .next t ∧ PairKept s t f ∧ t.vc.vfstat.extractLsb' 0 16 = s.vc.vfstat.extractLsb' 0 16 ∧
        ∀ j < laneCount s f, laneAfter s t f it f.vd j = ((out[j]?).getD (padding it, 0)).1 ∧
          laneAfter s t f f.ty (regPlus f.vd 1) j = ((out[j]?).getD (padding it, 0)).2 % 2 ^ tyBits f.ty) ∧
      (laneCount s f < out.length → exec (.vmerge f) s = .next (wordFault s trapOperand))) ∧
    ∀ i j, sortTraps s = true → i < j → j < laneCount s f →
      let x := laneOf s f it f.va
      x i ≠ padding it → x j ≠ padding it → x j < x i →
      (∀ p q, p < q → q < j → x p ≠ padding it → x q ≠ padding it → x p ≤ x q) →
      exec (.vmerge f) s = .next (wordFault s { cause := 0x10, elem := BitVec.ofNat 16 (0x8000 + j) })

/-- VTOPK ranks the active entries of each row, the largest first and the lower column first among equals; VSORTK
sorts the active pairs of each row stably and puts the others behind them (R247, R248). -/
def Sys2Proof.Claims.SparseOrders : Prop :=
  ∀ (s : State) (f : BlockFields), isInt f.ty = true ∨ isFloat f.ty = true →
    let it := sparseType f
    let n := (blockShape s f).cols
    let key (i c : Nat) : Nat := laneOf s f f.ty f.va (i * n + c)
    let on (i c : Nat) : Bool := laneOn s f (i * n + c)
    (SparseReady s f [(f.va, f.ty)] (laneOn s f) →
      let w := min (xOperand s f).toNat n
      ∃ t, exec (.vtopk f) s = .next t ∧ PairKept s t f ∧ ∀ i < (blockShape s f).rows,
        (∃ r : List Nat, r.Perm ((List.range n).filter (on i)) ∧
          r.Pairwise (fun a b => keyLt f.ty (key i b) (key i a) = true ∨ (keyLt f.ty (key i a) (key i b) = false ∧ a < b)) ∧
          ∀ k < w, laneAfter s t f it f.vd (i * n + k) = ((r[k]?).getD (padding it)) % 2 ^ tyBits it ∧
            laneAfter s t f f.ty (regPlus f.vd 1) (i * n + k) = (((r[k]?).map (key i)).getD (topkPad f.ty)) % 2 ^ tyBits f.ty) ∧
        ∀ k, w ≤ k → k < n → laneAfter s t f it f.vd (i * n + k) = laneOf s f it f.vd (i * n + k) ∧
          laneAfter s t f f.ty (regPlus f.vd 1) (i * n + k) = laneOf s f f.ty (regPlus f.vd 1) (i * n + k)) ∧
    (SparseReady s f [(f.va, f.ty), (f.vb, it)] (fun _ => true) →
      let lt (i a b : Nat) : Bool := sortLt (f.func.getLsbD 1) f.ty (key i a) (key i b)
      ∃ t, exec (.vsortk f) s = .next t ∧ PairKept s t f ∧ ∀ i < (blockShape s f).rows,
        ∃ r : List Nat, r.Perm (List.range n) ∧
          r.Pairwise (fun a b => (on i a = true ∧ on i b = false) ∨ (on i a = false ∧ on i b = false ∧ a < b) ∨
            (on i a = true ∧ on i b = true ∧ (lt i a b = true ∨ (lt i b a = false ∧ a < b)))) ∧
          ∀ k < n, ∀ c, r[k]? = some c → laneAfter s t f it f.vd (i * n + k) = laneOf s f it f.vb (i * n + c) ∧
            laneAfter s t f f.ty (regPlus f.vd 1) (i * n + k) = key i c)

/-- VCSRX: each column receives the value of the highest active entry of its row that names it, and zero where none
does; an index at or beyond VCOLS traps before any write (R249). That an index of an inactive entry is not checked is
the model's reading (log entry 75). -/
def Sys2Proof.Claims.SparseExpand : Prop :=
  ∀ (s : State) (f : BlockFields), isMx f.ty = false →
    let it := sparseType f
    let n := (blockShape s f).cols
    let x (j : Nat) : Nat := laneOf s f it f.vb j
    let used (j : Nat) : Prop := j < laneCount s f ∧ laneOn s f j = true ∧ x j ≠ padding it
    SparseReady s f [(f.vb, it)] (laneOn s f) →
      ((∃ j, used j ∧ n ≤ x j) → exec (.vcsrx f) s = .next (wordFault s trapOperand)) ∧
      ((∀ j, used j → x j < n) → ∃ t, exec (.vcsrx f) s = .next t ∧ WordKept s t ∧ (∀ r, r ≠ f.vd → t.vc.reg r = s.vc.reg r) ∧
        ∀ k < laneCount s f,
          (∀ j, used j → j / n = k / n → x j = k % n → (∀ i, used i → i / n = k / n → x i = k % n → i ≤ j) →
            laneAfter s t f f.ty f.vd k = laneOf s f f.ty f.va j) ∧
          ((∀ j, used j → j / n = k / n → x j ≠ k % n) → laneAfter s t f f.ty f.vd k = 0))

/-- VMERGE, VTOPK, VSORTK and VCSRX. Completes: vmerge, vtopk, vsortk, vcsrx. -/
def Obligations.SparseStreams : Prop :=
  Claims.SparseMerge ∧ Claims.SparseOrders ∧ Claims.SparseExpand

/-- The lease of a fill: none on the line's own die; the RDC's while it has not ended; otherwise a new one of the
partition's length, which the home slice keeps and the RDC holds; and none while a write of the line waits
(R111, R112). -/
def Sys2Proof.Claims.LeasesAreGranted : Prop :=
  ∀ (s : State) (u line part : Nat),
    let rdc := (s.die (dieOf u)).rdc
    let new := s.time + (s.part part).lease.toNat
    (remoteHome u line = false → leaseFor s u line part = some (none, s)) ∧
    (remoteHome u line = true →
      (∀ e, rdc.find? line = some e → s.time < e → leaseFor s u line part = some (some e, s)) ∧
      ((∀ e, rdc.find? line = some e → e ≤ s.time) →
        (linePending s line = true ∨ s.lineWaited line = true → leaseFor s u line part = none) ∧
        (linePending s line = false → s.lineWaited line = false → ∃ t, leaseFor s u line part = some (some new, t) ∧ t.mem = s.mem ∧ t.cores = s.cores ∧
          t.fab.leases.get 0 line = max new (s.fab.leases.get 0 line) ∧
          (s.fab.gated.contains (.rdc (dieOf u)) = false → s.fab.sweeping.contains (.rdc (dieOf u)) = false →
            (t.die (dieOf u)).rdc.find? line = some new))))

/-- CACHE_MISS_FILL and, where an older leg has the line dirty, FORWARDING_REQUEST: the miss is gone and its context no
longer waits for it. Where the leg cache is on, and its set has room or a clean line to replace, the line is there,
owned when ownership was asked for, and a fill of a line homed on another die takes a lease; sectors with an
uncorrectable error are poisoned. A forwarding request that no older leg can answer goes on to the L2 or the RDC, and a
vector header is answered. Ownership is given only once the host holds no copy, and a leg cache that is not admitted has its
request refused (R50, R106, R109 to R111, R340, R344, R363). -/
def Sys2Proof.Claims.MissesAreFilled : Prop :=
  ∀ (s : State) (u c : Nat) (bad : BitVec 4) (m : Miss), c < 8 →
    let k := s.core u
    let placed : Prop := (k.lines.any fun x => x.line == m.line) = true ∨ ∀ y, lruOf k.lines (lineSet m.line) = some y → y.st = .S
    let granted : Prop := m.own = true ∨ remoteHome u m.line = false ∨ (linePending s m.line = false ∧ s.lineWaited m.line = false)
    let filled (t : State) (leased : Bool) : Prop := t.mem = s.mem ∧ m ∉ t.fab.misses ∧
      ((s.ctx u c).stall = some (.miss m.line) → (t.ctx u c).stall = none) ∧
      (s.cacheOff u = false → ∃ x ∈ (t.core u).lines, x.line = m.line ∧ x.filled = true ∧ x.lease.isSome = leased ∧ (m.own = true → x.st ≠ .S))
    let spoiled (t : State) : Prop := ∀ i, i < 4 → bad.getLsbD i = true → 4 * m.line + i ∈ t.fab.poison
    (s.cacheBarred u = true → (s.fab.misses.find? fun m => m.unit == u && m.ctx == c && !m.forward) = some m →
      exec (.cacheMissFill u c bad) s = .next (endMiss s m)) ∧
    (s.cacheBarred u = false → (m.own = true → exposedUnits s k.strand m.line = []) → (s.cacheOff u = false → placed) →
    ((s.fab.misses.find? fun m => m.unit == u && m.ctx == c && !m.forward) = some m → s.hostKeeps m.line = false →
      (m.own = true → s.hostFree m.line = true) → granted → ∃ t, exec (.cacheMissFill u c bad) s = .next t ∧ filled t (!m.own && remoteHome u m.line) ∧ spoiled t) ∧
    ((s.fab.misses.find? fun m => m.unit == u && m.ctx == c && m.forward) = some m → forwardHeld s u = false →
      (olderDirty s u m.line = true → ∃ t, exec (.forwardingRequest u c) s = .next t ∧ filled t false) ∧
      (olderDirty s u m.line = false → exec (.forwardingRequest u c) s = .next (s.modFab fun f =>
        { f with misses := f.misses.map fun x => if x = m then { x with forward := false } else x }))) ∧
    ∀ h, (s.fab.misses.find? fun m => m.unit == u && m.ctx == 8 && !m.forward) = some h → h.own = false → s.hostKeeps h.line = false →
      ∃ t, exec (.cacheMissFill u 8 bad) s = .next t ∧ t.mem = s.mem ∧ h ∉ t.fab.misses ∧
        (∀ i, i < 4 → bad.getLsbD i = true → 4 * h.line + i ∈ t.fab.poison) ∧
        (t.core u).seq.answered = State.sliceKey u h.line :: k.seq.answered)

/-- HEADER_RETRY: the refused header is sent again once its time has come, when the slice has room; refused again, it
has a new hint of 1 to 255 control cycles. Context 8 is the vector sequencer, whose other refused headers wait for
their own times. A leg cache that is not admitted sends none (R109, R344). -/
def Sys2Proof.Claims.RefusedRequestsAreRetried : Prop :=
  ∀ (s : State) (u c ready : Nat) (hdr : Header) (own : Bool),
    let line := hdr.line
    let later (n : Nat) : Prop := s.now < n ∧ n ≤ s.now + 255
    (s.cacheBarred u = true → exec (.headerRetry u c) s = .next s) ∧
    (s.cacheBarred u = false →
    let sent (t : State) (c : Nat) (own : Bool) : Prop := t.mem = s.mem ∧ (t.fab.misses.any fun m => m.unit == u && m.ctx == c && m.line == line && m.own == own) = true
    (c < 8 → (s.ctx u c).stall = some (.refused hdr own ready) →
      (s.now < ready → exec (.headerRetry u c) s = .next s) ∧
      (ready ≤ s.now → s.missFull u line = false → ∃ t, exec (.headerRetry u c) s = .next t ∧ sent t c own ∧ (t.ctx u c).stall = some (.miss line)) ∧
      (ready ≤ s.now → s.missFull u line = true → (∀ m ∈ s.fab.misses, m.unit = u → m.ctx ≠ c) →
        ∃ t n, exec (.headerRetry u c) s = .next t ∧ later n ∧ (t.ctx u c).stall = some (.refused hdr own n) ∧ t.fab = s.fab)) ∧
    ((∀ x ∈ (s.core u).seq.refused, s.now < x.2) → exec (.headerRetry u 8) s = .next s) ∧
    ∀ a b, (s.core u).seq.refused = a ++ (hdr, ready) :: b → (∀ x ∈ a ++ b, s.now < x.2) → ready ≤ s.now →
      (s.missFull u line = false → ∃ t, exec (.headerRetry u 8) s = .next t ∧ sent t 8 false ∧ (t.core u).seq.refused = a ++ b) ∧
      (s.missFull u line = true → (∀ m ∈ s.fab.misses, m.unit = u → m.ctx ≠ 8) →
        ∃ t n, exec (.headerRetry u 8) s = .next t ∧ later n ∧ (t.core u).seq.refused = a ++ b ++ [(hdr, n)] ∧ t.fab = s.fab))

/-- COHERENCE_INVALIDATION and LEASE_EXPIRY take copies away; a speculative leg that has read the line is squashed, and
lines that a leg has written stay. A monitor held on a host line fires with its copy; lines filled under a lease go
at their own expiry, also where the RDC no longer holds the line (R52, R110, R111, R189). -/
def Sys2Proof.Claims.CopiesGo : Prop :=
  (∀ (s : State) (u line : Nat),
    let gone := s.modCore u fun c => { c with lines := c.lines.filter fun x => !(x.line == line && x.st != .L) }
    let exposed := (s.core u).lines.any fun x => x.line == line && x.st == .L && x.exposed != 0
    (isHost (64 * line) = false → exec (.coherenceInvalidation u line) s = .next (if exposed then squashAt gone u else gone)) ∧
    (exposed = false → ∃ t, exec (.coherenceInvalidation u line) s = .next t ∧ t.mem = s.mem ∧ t.fab = s.fab ∧
      (t.core u).lines = (gone.core u).lines ∧ (∀ v, v ≠ u → t.core v = s.core v) ∧
      ((∃ x ∈ (s.core u).lines, x.line = line ∧ x.st ≠ .L) → isHost (64 * line) = true →
        ∀ c < 8, ∀ m, (s.ctx u c).monitor = some m → m.host = true → m.line = line → (t.ctx u c).monitor = some { m with fired := true }))) ∧
  ∀ (s : State) (d line : Nat),
    ∃ t, exec (.leaseExpiry d line) s = .next t ∧ t.mem = s.mem ∧
      (∀ e, (s.die d).rdc.find? line = some e → (t.die d).rdc.find? line = if s.time < e then some e else none) ∧
      ∀ u, dieOf u = d → ∀ x ∈ (t.core u).lines, x.leaseOver line s.time = true → x.st = .L

/-- LEASE_WAIT_WRITE performs a pending store that nothing orders behind another, once every lease on its line has ended:
its bytes are at the home, every monitor on its line has fired, and no other leg cache keeps a clean copy; until
then nothing happens (R110, R112, R120, R189). -/
def Sys2Proof.Claims.StoresArePerformed : Prop :=
  ∀ (s : State) (k : Nat) (p : PStore), s.fab.pend[k]? = some p → p.add = none →
    (pendReady s k p = false → exec (.leaseWaitWrite k) s = .next s) ∧
    (pendReady s k p = true → (∀ line ∈ linesOf p.pa p.bytes.length, s.leaseOk line = true) ∧
      ∃ t, exec (.leaseWaitWrite k) s = .next t ∧ t.fab.pend = listDel s.fab.pend k ∧
        (p.et = false ∨ (∀ i ∈ sectorsOf p.pa p.bytes.length, i ∉ s.fab.poison) → ∀ a, t.mem.read a =
          if p.pa ≤ a ∧ a < p.pa + p.bytes.length then p.bytes.getD (a - p.pa) 0 else s.mem.read a) ∧
        (∀ line ∈ linesOf p.pa p.bytes.length, ∀ u, u ≠ p.unit → ∀ x ∈ (t.core u).lines, x.line = line → x.st = .L) ∧
        ∀ line ∈ linesOf p.pa p.bytes.length, ∀ u c m, c ≠ 0 → (s.ctx u c).monitor = some m → m.line = line →
          (t.ctx u c).monitor = some { m with fired := true })

/-- LINE_WRITEBACK: a dirty line whose stores are performed leaves its cache, or a write-back buffer of the L2; a leg may
still use the line, and it stays clean. A line that the runner has written is committed first. Where the line
had an uncorrectable error, every sector of its home is poisoned, and the partition of its last writer is charged:
with a deferred error, or, where the party that wrote it waits and forced the write-back, with an unrecoverable one
(log entry 58) (R49, R53, R106, R109, R343). -/
def Sys2Proof.Claims.DirtyLinesAreWrittenBack : Prop :=
  ∀ (s : State) (line : Nat) (bad forced : Bool),
    let spoiled (t : State) : Prop := ∀ i < 4, 4 * line + i ∈ t.fab.poison
    let charged (t : State) (p : Nat) (by_ : Bool) : Prop :=
      (bad = true → spoiled t) ∧
      (bad = true → forced = true → by_ = true → (s.part p).recov = .run → (t.part p).recov = .drain) ∧
      (bad = false ∨ forced = false ∨ by_ = false → ∀ p, (t.part p).recov = (s.part p).recov)
    let gone (u : Nat) (t : State) : Prop := ∀ y ∈ (t.core u).lines, y.line ≠ line
    (∀ u x, ((s.core u).lines.find? fun x => x.line == line && (x.st == .M || (x.st == .L && x.dirty != 0 && s.isRunner u 0))) = some x →
      (x.st = .M → linePending s line = false → ∃ t, exec (.lineWriteback (.leg u) line bad forced) s = .next t ∧ t.mem = s.mem ∧
        (if s.versioned u 0 = true then (t.core u).lines = (s.core u).lines.map fun y => if y.line = line then { y with st := .S } else y
          else gone u t) ∧ (bad = false → t.fab = s.fab) ∧ charged t x.writer.toNat (forcedBy s u x)) ∧
      (x.st = .L → lineReady s u line = false → exec (.lineWriteback (.leg u) line bad forced) s = .next (s.waitOn (.ctx u 0) [line])) ∧
      (x.st = .L → lineReady s u line = true → x.bad = 0 → (x.et = false ∨ ∀ i < 4, 4 * line + i ∉ s.fab.poison) →
        ∃ t, exec (.lineWriteback (.leg u) line bad forced) s = .next t ∧ gone u t ∧ charged t x.writer.toNat (forcedBy s u x) ∧
          ∀ a, t.mem.read a = if a / 64 = line ∧ x.mask.getLsbD (a % 64) = true then x.data.extractLsb' (8 * (a % 64)) 8 else s.mem.read a)) ∧
    (linePending s line = false → ∀ p, s.fab.wb.find? line = some p → ∃ t, exec (.lineWriteback .l2 line bad forced) s = .next t ∧ t.mem = s.mem ∧
      t.fab.wb.find? line = none ∧ t.fab.l2 = s.fab.l2 ∧ charged t p.toNat (forcedByPart s p.toNat)) ∧
    (linePending s line = false → ∀ p, s.fab.wb.find? line = none → s.fab.l2.find? line = some p →
      ∃ t, exec (.lineWriteback .l2 line bad forced) s = .next t ∧ t.mem = s.mem ∧
        t.fab.l2.find? line = none ∧ charged t p.toNat (forcedByPart s p.toNat))

/-- Power gating empties a cache; powered up it stays empty and out of service until its admission, which clears the
monitors of its core, makes a repaired slot a reserve, and writes a record of kind 15 (R110, R344). When a cache can be
gated is the model's reading (log entry 57). -/
def Sys2Proof.Claims.AgentsRejoin : Prop :=
  ∀ (s : State) (a : Agent),
    (s.fab.gated.contains a = false → s.fab.sweeping.contains a = false → canGate s a = true →
      ∃ t, exec (.powerGate a) s = .next t ∧ t.mem = s.mem ∧ t.fab.gated = a :: s.fab.gated ∧
        (∀ u, a = .legCache u → (t.core u).lines = [] ∧ (t.core u).tlb = []) ∧ ∀ d, a = .rdc d → (t.die d).rdc = []) ∧
    (s.fab.gated.contains a = true ∨ s.fab.sweeping.contains a = true ∨ canGate s a = false → exec (.powerGate a) s = .next s) ∧
    (s.fab.sweeping.contains a = false → agentOff s a = true →
      ∃ t, exec (.cachePowerUp a) s = .next t ∧ t.mem = s.mem ∧ t.fab.sweeping = a :: s.fab.sweeping ∧ a ∉ t.fab.gated ∧
        (∀ u, a = .legCache u → (t.core u).lines = []) ∧ ∀ d, a = .rdc d → (t.die d).rdc = []) ∧
    (s.fab.sweeping.contains a = true →
      ∃ t, exec (.rejoinAdmission a) s = .next t ∧ t.mem = s.mem ∧ a ∉ t.fab.sweeping ∧
        (∀ u, a = .legCache u → (t.core u).lines = [] ∧ ∀ c < 8, (t.ctx u c).monitor = none) ∧
        ∀ r k, a = .slot r k → k < 18 → remapState (t.ring r).remap k = 1)

/-- MONITOR_FIRE ends the wait of a MONWAIT whose monitor a write, a full table or an eviction has fired, and it reads its
location again; with a monitor that nothing has fired it goes on waiting (R189). -/
def Sys2Proof.Claims.MonitorsFire : Prop :=
  ∀ (s : State) (u c : Nat), c < 8 →
    ((s.ctx u c).monitor.any (·.fired) = false → exec (.monitorFire u c) s = .next s) ∧
    ((s.ctx u c).monitor.any (·.fired) = true → ∃ t, exec (.monitorFire u c) s = .next t ∧ t.mem = s.mem ∧
      (t.ctx u c).monitor = (s.ctx u c).monitor ∧ ((s.ctx u c).stall = some .monwait → (t.ctx u c).stall = none) ∧
      ∀ v, v ≠ u → t.core v = s.core v)

/-- TABLE_WALK of a page that the tables map: the TLB of the core, and that of its die, hold an entry of the
partition's tag that hits the address and has what the leaf allows; an entry of the die's TLB enters the core's
without a walk (R305 to R307). That a walk has an event of its own is the model's reading (log entry 59). -/
def Sys2Proof.Claims.WalksFillTheTlbs : Prop :=
  ∀ (s : State) (u c level : Nat) (va : Word),
    let p := s.issuePart u c
    let tag := (s.part p).tag
    let room (t : State) : Prop := t.mem = s.mem ∧ (t.core u).tlb.length ≤ max 64 (s.core u).tlb.length
    isMgmt u = false → s.vaulting u = false → va.toNat < 2 ^ 56 → ((s.core u).tlb.any (·.hit tag va.toNat)) = false →
    (∀ e, ((s.die (dieOf u)).tlb.find? (·.hit tag va.toNat)) = some e →
      ∃ t, exec (.tableWalk u c va level false) s = .next t ∧ room t ∧ e ∈ (t.core u).tlb ∧ t.die (dieOf u) = s.die (dieOf u)) ∧
    ∀ l, ((s.die (dieOf u)).tlb.find? (·.hit tag va.toNat)) = none → walk s p va.toNat = .ok l →
      ∃ t e, exec (.tableWalk u c va level false) s = .next t ∧ room t ∧ e ∈ (t.core u).tlb ∧ e ∈ (t.die (dieOf u)).tlb ∧
        e.tag = tag ∧ e.size = l.size ∧ e.vpage = va.toNat / 2 ^ l.size ∧ e.ppage = l.ppage ∧ e.attr = l.attr ∧
        e.priv = l.priv ∧ e.x = l.x ∧ e.w = l.w

/-- Leases, fills, stores, write-backs, monitors and page walks. Completes: forwardingRequest, cacheMissFill,
headerRetry, coherenceInvalidation, leaseExpiry, leaseWaitWrite, lineWriteback, powerGate, rejoinAdmission,
cachePowerUp, monitorFire, tableWalk. -/
def Obligations.FabricEvents : Prop :=
  Claims.LeasesAreGranted ∧ Claims.MissesAreFilled ∧ Claims.RefusedRequestsAreRetried ∧ Claims.CopiesGo ∧
  Claims.StoresArePerformed ∧ Claims.DirtyLinesAreWrittenBack ∧ Claims.AgentsRejoin ∧ Claims.MonitorsFire ∧
  Claims.WalksFillTheTlbs

/-- A squashed leg starts again at its first iteration: behind the FORK, its induction register at the leg's start,
none of its lines and copies left, and the scratchpad, its poison included, as before its stores; memory does not
change (R40, R43, R54, R58). -/
def Sys2Proof.Claims.SquashedLegsRestart : Prop :=
  ∀ (s : State) (u : Nat) (l : Leg) (r : Region) (consumed : Bool), (s.core u).leg = some l → s.regionOf u = some r →
    let t := squashOne s u consumed
    t.mem = s.mem ∧ (t.ctx u 0).pc = r.forkPc + 4 ∧ (t.ctx u 0).nest = [] ∧ (t.ctx u 0).trap = .none ∧
      (t.core u).sp = (applyUndo (s.core u) l.undo).sp ∧ (t.core u).spPoison = (applyUndo (s.core u) l.undo).spPoison ∧
      (∀ x ∈ (t.core u).copies, x.ctx = 0 → x.leg ≠ some l.k) ∧ (∀ x ∈ (t.core u).lines, x.st ≠ .L) ∧ (t.core u).seq.fq = [] ∧
      (∃ m, (t.core u).leg = some m ∧ m.k = l.k ∧ m.i = r.first l.k ∧ m.read = 0 ∧ m.written = 0 ∧ m.joined = false) ∧
      (∀ n, 1 ≤ n → n < 32 → (t.ctx u 0).reg n = if l.delivered.getLsbD n then vget l.start 0 n else (r.startReg l.k n).1) ∧
      ∀ c, c ≠ 0 → t.ctx u c = s.ctx u c

/-- LEG_START: of the cores of the span that are free, the one whose next leg is the oldest starts it, behind the FORK,
with the induction register and the carried registers of the leg's start; also while a pre-emption waits for a leg
that has not started, which is the model's reading (log entry 43), as is that a core whose leg cache is gated starts no
leg of a FORK region (log entry 57) (R14, R40, R43 to R45, R64). -/
def Sys2Proof.Claims.LegsStart : Prop :=
  ∀ (s : State) (h k i : Nat) (x : Strand) (r : Region), s.strand? h = some x → x.region = some r →
    strandRuns s x = true ∨ runnerDue s h x r = true →
    lowestLeg (legCandidates s h x r) = some (k, i) →
    (∀ y ∈ legCandidates s h x r, k ≤ y.1) ∧
    ∃ t, exec (.legStart h) s = .next t ∧ t.mem = s.mem ∧ (t.ctx (h + i) 0).resident = true ∧ (t.ctx (h + i) 0).pc = r.forkPc + 4 ∧
      (∃ l, (t.core (h + i)).leg = some l ∧ l.k = k ∧ l.i = k * r.legsz) ∧
      (∀ n, 1 ≤ n → n < 32 → (earlyValues r.early k).1.getLsbD n = false → (t.ctx (h + i) 0).reg n = (r.startReg k n).1) ∧
      (∀ n, 1 ≤ n → n < 32 → (earlyValues r.early k).1.getLsbD n = true → (t.ctx (h + i) 0).reg n = vget (earlyValues r.early k).2 0 n) ∧
      (∀ u, u ≠ h + i → t.core u = s.core u) ∧ ∃ y q, t.strand? h = some y ∧ y.region = some q ∧ q.next.get q.legs i = k + x.size

/-- BATON_DELIVERY: a register that the leg has not written takes the value, and a leg that has read another value is
squashed with every younger leg; a leg that has ended passes on a value that it did not write (the model's reading, log
entry 19) (R45). -/
def Sys2Proof.Claims.BatonsAreDelivered : Prop :=
  ∀ (s : State) (u h : Nat) (r : Region) (l : Leg) (n : Reg) (v : Word) (rest : List Parcel), s.vaulting u = false →
    (s.core u).leg = some l → l.inbox = .value n v :: rest → (s.core u).strand = some h → s.regionOf u = some r →
    let got := s.modCore u fun c => { c with leg := some ({ l with inbox := rest }.deliver n.toNat v).1 }
    let taken := if l.written.getLsbD n.toNat then got else got.modCtx u 0 fun x =>
      { x.setReg n.toNat v with stall := if x.stall = some (.carried n) then none else x.stall }
    (l.read.getLsbD n.toNat = true → v ≠ vget l.start 0 n.toNat → exec (.batonDelivery u) s = .next (squashFrom taken h l.k false)) ∧
    (l.read.getLsbD n.toNat = false ∨ v = vget l.start 0 n.toNat →
      exec (.batonDelivery u) s = .next (if l.joined = true ∧ l.written.getLsbD n.toNat = false ∧ l.k + 1 ≠ r.legs
        then sendParcel taken h (l.k + 1) (.value n v) else taken))

/-- STORE_BROADCAST: the leg is squashed, with every younger one, when a sector is exposed in its lines or watched
(R52, items 1 and 5). -/
def Sys2Proof.Claims.BroadcastsSquash : Prop :=
  ∀ (s : State) (u h : Nat) (l : Leg) (sectors : List Nat) (rest : List Parcel), s.vaulting u = false →
    (s.core u).leg = some l → l.inbox = .store sectors :: rest → (s.core u).strand = some h →
    let got := s.modCore u fun c => { c with leg := some { l with inbox := rest } }
    exec (.storeBroadcast u) s = .next (if storeHits got u { l with inbox := rest } sectors then squashFrom got h l.k false else got)

/-- COMMIT_BATON: once what older legs sent it has arrived, the leg whose turn it is becomes the runner; nothing of it is
exposed or watched any more (R49, R55). -/
def Sys2Proof.Claims.TheRunnerIsNext : Prop :=
  ∀ (s : State) (h u : Nat) (x : Strand) (r : Region) (l : Leg), s.strand? h = some x → x.region = some r → r.indep = false →
    r.arrived = false → ((s.legsOf h).find? fun y => y.1 == r.runner) = some (r.runner, u) → s.vaulting u = false →
    (s.core u).leg = some l → l.inbox = [] →
    ∃ t, exec (.commitBaton h) s = .next t ∧ t.mem = s.mem ∧ t.strand? h = some { x with region := some { r with arrived := true } } ∧
      (∀ y ∈ (t.core u).lines, y.exposed = 0) ∧ (t.core u).leg = some { l with watches := [] } ∧ ∀ v, v ≠ u → t.core v = s.core v

/-- BLOCK_START: the sequencer begins the oldest block of the fetch queue, with its loop counters at 0 (R25, R199). -/
def Sys2Proof.Claims.BlocksStart : Prop :=
  ∀ (s : State) (u : Nat) (e : Fetch) (rest : List Fetch), (s.core u).seq.fq = e :: rest → (s.core u).seq.active = false →
    (s.core u).seq.frozen = false → (s.core u).seq.fault = none → s.vaulting u = false →
    exec (.blockStart u) s = .next (s.modCore u fun c => { c with seq :=
      { c.seq with active := true, pc := e.addr, loops := Vector.replicate 4 0, resume := 0 } })

/-- BLOCK_FAULT_TAKE: the strand context takes a block fault that is ready; its handler runs, and the sequencer is frozen
until the handler returns (R155, R316). -/
def Sys2Proof.Claims.BlockFaultsAreTaken : Prop :=
  ∀ (s : State) (u : Nat) (t : TrapInfo) (tg : Target), TrapReady s u 0 tg → (s.core u).seq.fault = some t → (s.core u).seq.frozen = false →
    (s.ctx u 0).trap = .none → (s.ctx u 0).resident = true → (s.ctx u 0).stopped = false → s.vaulting u = false →
    s.speculative u 0 = false → s.versioned u 0 = false →
    ∃ r, exec (.blockFaultTake u) s = .next r ∧ (r.ctx u 0).trap = .handler ∧ (r.ctx u 0).priv = true ∧
      (r.ctx u 0).pc = (trapVec s u &&& 0x00FF_FFFF_FFFF_FFFC#64) ∧ (r.ctx u 0).reg 29 = t.faddr ∧
      (r.core u).seq.fault = none ∧ (r.core u).seq.frozen = true

/-- Legs start, receive, are squashed and become the runner; blocks start, and their faults are taken. Completes:
legStart, batonDelivery, storeBroadcast, commitBaton, blockStart, blockFaultTake. Completes: legStart, batonDelivery,
storeBroadcast, commitBaton, blockStart, blockFaultTake. -/
def Obligations.LegAndBlockEvents : Prop :=
  Claims.SquashedLegsRestart ∧ Claims.LegsStart ∧ Claims.BatonsAreDelivered ∧ Claims.BroadcastsSquash ∧
  Claims.TheRunnerIsNext ∧ Claims.BlocksStart ∧ Claims.BlockFaultsAreTaken

/-- QDRAIN and PARTRST: they name a partition that owns a ring; from RUN and WAIT they start DRAIN and stall; QDRAIN
goes on once DRAIN has ended, PARTRST once the partition is back in RUN (R300, R301, R330). -/
def Sys2Proof.Claims.DrainsAndResetsAreOrdered : Prop :=
  ∀ (s : State) (xa : Reg), OnMgmt s →
    let p := (X s xa).toNat
    (¬(p < 16 ∧ s.ownsRing p = true) → exec (.qdrain xa) s = .next (traps s trapOperand) ∧ exec (.partrst xa) s = .next (traps s trapOperand)) ∧
    (p < 16 → s.ownsRing p = true →
      ((s.part p).recov = .drained → exec (.qdrain xa) s = .next (goOn s) ∧ exec (.partrst xa) s = .next (goOn (resetPart s p))) ∧
      (s.me.stall = some .system → (s.part p).recov = .drain → exec (.qdrain xa) s = .next (stalls s .system) ∧ exec (.partrst xa) s = .next (stalls s .system)) ∧
      (s.me.stall ≠ some .system → (s.part p).recov = .run ∨ (∃ n, (s.part p).recov = .wait n) →
        exec (.qdrain xa) s = .next (stalls (s.setRecovery p .drain) .system) ∧
        exec (.partrst xa) s = .next (stalls ((s.setRecovery p .drain).modPart p fun x => { x with resetAsked := true }) .system)) ∧
      (s.me.stall = some .system → (s.part p).recov = .run → exec (.qdrain xa) s = .next (goOn s) ∧ exec (.partrst xa) s = .next (goOn s)))

/-- The reset of a partition: on its cores no context is resident, and queues, exchange buffers, task tables, shared
registers, scratchpads, locks, vector contexts and leg caches are as R301 says; its watchdogs are IDLE and it is
in RUN. Other cores, memory and the queues' registers stay (R84, R301). -/
def Sys2Proof.Claims.PartitionReset : Prop :=
  ∀ (s : State) (p : Nat), p < 16 →
    let t := resetPart s p
    t.mem = s.mem ∧ (t.part p).recov = .run ∧ (∀ h x, (h, x) ∈ t.strands → x.part ≠ p) ∧
      (∀ u, u ∉ s.coresOf p → t.core u = s.core u) ∧
      (∀ q < 4, (t.queue (4 * p + q)).wd = .idle ∧ (t.queue (4 * p + q)).qctl = (s.queue (4 * p + q)).qctl ∧
        (t.queue (4 * p + q)).wdlimit = (s.queue (4 * p + q)).wdlimit) ∧
      ∀ u ∈ s.coresOf p, (∀ c < 8, (t.ctx u c).resident = false ∧ (t.ctx u c).sendq = []) ∧ (t.core u).inq = [] ∧
        (∀ i < 8, vget (t.core u).xs 1 i = 0) ∧ (∀ i < 64, vget (t.core u).table 1 i = 0) ∧ (t.core u).sp = [] ∧
        (t.core u).lock = none ∧ (t.core u).v = {} ∧ (t.core u).seq = {} ∧ (t.core u).lines = [] ∧
        (t.core u).xfwd = none ∧ (t.core u).xbwd = none

/-- PARTITION_DRAIN, once the partition's transfers have ended: every node of it is discarded, its drain logs are
written, and the reset follows at once when DRAIN was entered in WDOG mode 00 or when it has been asked for. While a
lease holds a write of the log back, DRAIN goes on, and the write waits at its home (R112, R297, R300, R301). -/
def Sys2Proof.Claims.DrainEnds : Prop :=
  ∀ (s : State) (p : Nat), (s.part p).recov = .drain → drainReady s p = true →
    let logs := logQueues (discardNodes ((s.coresOf p).foldl stopCore s) p) p (partNodes s p)
    (∀ va, logs = .error va → exec (.partitionDrain p) s = .next (dutyWait s p va)) ∧
    ∀ s2, logs = .ok s2 → ∃ t, exec (.partitionDrain p) s = .next t ∧ t.mem = s2.mem ∧ (∀ d, ∀ x ∈ (t.die d).nodes, x.2.part ≠ p) ∧
      (t.part p).recov = if (s.part p).drainMode = 0 ∨ (s.part p).resetAsked = true then .run else .drained

/-- A watchdog that reaches its limit, and a handler that retires nothing for the limit of queue 0, expire the
watchdog; the partition leaves RUN for DRAIN in WDOG mode 00 and for WAIT otherwise; WAIT ends after 2^24 ticks
(R298 to R300). -/
def Sys2Proof.Claims.WatchdogsExpire : Prop :=
  (∀ (s : State) (p q : Nat), q ≤ 3 → (s.queue (4 * p + q)).wd = .armed →
    (s.queue (4 * p + q)).wdlimit.toNat ≤ s.time - (s.queue (4 * p + q)).wdBase → (s.part p).recov = .run →
    ∃ t, exec (.watchdogExpiry p q) s = .next t ∧ t.mem = s.mem ∧ (t.queue (4 * p + q)).wd = .expired ∧
      (t.part p).recov = if (s.part p).wdogMode = 0 then .drain else .wait s.time) ∧
  (∀ (s : State) (u c p : Nat), s.partOf u = some p → c ≠ 0 → (s.ctx u c).resident = true → (s.queue (4 * p)).wd ≠ .expired →
    (s.queue (4 * p)).wdlimit.toNat ≤ s.time - (s.ctx u c).lastRetire → (s.part p).recov = .run →
    ∃ t, exec (.handlerStallExpiry u c) s = .next t ∧ t.mem = s.mem ∧ (t.queue (4 * p)).wd = .expired ∧
      (t.part p).recov = if (s.part p).wdogMode = 0 then .drain else .wait s.time) ∧
  ∀ (s : State) (p n : Nat), (s.part p).recov = .wait n → n + 2 ^ 24 ≤ s.time →
    exec (.recoveryWaitTimeout p) s = .next (s.setRecovery p .drain)

/-- The commands 0xC005 and 0xC006 on a partition that owns a ring: DRAIN starts, and is answered when it ends; before
bring-up has ended every command but 0xC009 is Busy, and a command waits until the one before it has been answered
(R369, R372). -/
def Sys2Proof.Claims.DrainCommands : Prop :=
  ∀ (s : State) (p : Nat),
    (s.pkg.phase = 6 → s.pkg.command = true → exec (.drainPartition p) s = .next s ∧ exec (.resetPartition p) s = .next s) ∧
    (s.pkg.phase ≠ 6 → exec (.drainPartition p) s = .next (answer s 3 []) ∧ exec (.resetPartition p) s = .next (answer s 3 [])) ∧
    (s.pkg.phase = 6 → s.pkg.command = false → ¬(p < 16 ∧ s.ownsRing p = true) →
      exec (.drainPartition p) s = .next (answer s 2 []) ∧ exec (.resetPartition p) s = .next (answer s 2 [])) ∧
    (s.pkg.phase = 6 → s.pkg.command = false → p < 16 → s.ownsRing p = true →
      ((s.part p).recov = .drained → exec (.drainPartition p) s = .next (answer s 0 []) ∧
        ∃ t, exec (.resetPartition p) s = .next t ∧ (t.part p).recov = .run ∧ t.pkg.reply = some ⟨0, []⟩) ∧
      ((s.part p).recov = .run ∨ (∃ n, (s.part p).recov = .wait n) →
        (∃ t, exec (.drainPartition p) s = .next t ∧ (t.part p).recov = .drain ∧ (t.part p).tellDrain = true ∧ t.pkg = (hold s).pkg) ∧
        ∃ t, exec (.resetPartition p) s = .next t ∧ (t.part p).recov = .drain ∧ (t.part p).resetAsked = true ∧ t.pkg = (hold s).pkg))

/-- QDRAIN and PARTRST, drains, partition resets, watchdogs and their commands. Completes: qdrain, partrst,
partitionDrain, watchdogExpiry, handlerStallExpiry, recoveryWaitTimeout, drainPartition, resetPartition. -/
def Obligations.PartitionRecovery : Prop :=
  Claims.DrainsAndResetsAreOrdered ∧ Claims.PartitionReset ∧ Claims.DrainEnds ∧ Claims.WatchdogsExpire ∧
  Claims.DrainCommands

/-- The order of a vault, by CVAULT and by command 0xC004: 2 for a slot that is no reserve; a turn in the die's queue
while its engine is taken, others wait or the core's strand is being pre-empted; 1 and a record of kind 13 when
there is no reserve slot; otherwise the vault starts. CVAULT waits for the result, and the command is answered with
with it; until then no other command runs (R332, R347, R351, R369). -/
def Sys2Proof.Claims.VaultsAreOrdered : Prop :=
  (∀ (s : State) (xd xa xb : Reg), OnMgmt s →
    ¬((X s xa).toNat < 1024 ∧ ((X s xb).toNat < 18 ∨ (X s xb).toNat = 31)) → exec (.cvault xd xa xb) s = .next (traps s trapOperand)) ∧
  (∀ (s : State) (a b : Nat),
    (s.pkg.phase ≠ 6 → exec (.orderVault a b) s = .next (answer s 3 [])) ∧
    (s.pkg.phase = 6 → s.pkg.command = true → exec (.orderVault a b) s = .next s) ∧
    (s.pkg.phase = 6 → s.pkg.command = false → ¬(a < 1024 ∧ (b < 18 ∨ b = 31)) → exec (.orderVault a b) s = .next (answer s 2 []))) ∧
  ∀ (s : State) (xd xa xb : Reg) (a b : Nat), a < 1024 → b < 18 ∨ b = 31 →
    let m := (s.ring (ringOf a)).remap
    let named : Prop := b = 31 ∨ remapState m b = 1
    let turn (by_ : VaultBy) : State := s.modDie (dieOf a) fun x => { x with vaultQ := x.vaultQ ++ [⟨a, b, by_⟩] }
    let slot (k : Nat) : Nat := if b = 31 then k else b
    (OnMgmt s → X s xa = BitVec.ofNat 64 a → X s xb = BitVec.ofNat 64 b →
      let mine (x : Nat × Nat × Word) : Bool := x.1 == s.cur.unit && x.2.1 == s.cur.ctx
      let by_ := VaultBy.ctx s.cur.unit s.cur.ctx
      let asked : Prop := (∃ v, (s.ring (ringOf a)).vault = some v ∧ v.by_ = by_) ∨ ∃ q ∈ (s.die (dieOf a)).vaultQ, q.by_ = by_
      (∀ x, (s.ring (ringOf a)).vaultResults.find? mine = some x →
        ∃ t, exec (.cvault xd xa xb) s = .next t ∧ RegsAfter s t xd x.2.2 ∧ t.me.pc = s.me.pc + 4 ∧ t.mem = s.mem ∧ t.me.stall = none) ∧
      ((s.ring (ringOf a)).vaultResults.find? mine = none →
        (asked → exec (.cvault xd xa xb) s = .next (stalls s .system)) ∧
        (¬asked →
          (¬named → exec (.cvault xd xa xb) s = .next (goOn (setX s xd 2))) ∧
          (named → vaultWaits s a = true → exec (.cvault xd xa xb) s = .next (stalls (turn by_) .system)) ∧
          (named → vaultWaits s a = false → reserveSlot m [] = none → exec (.cvault xd xa xb) s = .next (goOn (setX (vaultRefused s a) xd 1))) ∧
          ∀ k, named → vaultWaits s a = false → reserveSlot m [] = some k →
            exec (.cvault xd xa xb) s = .next (stalls (beginVault s a (slot k) by_) .system)))) ∧
    (s.pkg.phase = 6 → s.pkg.command = false →
      (¬named → exec (.orderVault a b) s = .next (answer s 0 [2])) ∧
      (named → vaultWaits s a = true → exec (.orderVault a b) s = .next (hold (turn .mailbox))) ∧
      (named → vaultWaits s a = false → reserveSlot m [] = none → exec (.orderVault a b) s = .next (answer (vaultRefused s a) 0 [1])) ∧
      ∀ k, named → vaultWaits s a = false → reserveSlot m [] = some k →
        exec (.orderVault a b) s = .next (hold (beginVault s a (slot k) .mailbox)))

/-- The states of a vault: QUIESCE to DRAIN once the contexts have stopped and the runner's lines are committed; to COPY
once stores and earlier transfers have ended and dirty lines are written back; to FLIP with an empty leg cache and
TLB. The flip puts the core into the target slot, marks the old one faulty, hands over the messages that were held,
and gives the result to who ordered the vault. After a package fault nothing goes on (R345, R347, R348, R350, R376). -/
def Sys2Proof.Claims.VaultsRun : Prop :=
  ∀ (s : State) (ring : Nat) (v : Vault), (s.ring ring).vault = some v →
    (s.pkg.faulted = true → exec (.vaultDrain ring) s = .next s ∧ exec (.vaultCopy ring) s = .next s ∧
      exec (.vaultCopyFailure ring) s = .next s ∧ exec (.vaultFlip ring) s = .next s) ∧
    (s.pkg.faulted = false →
    (v.st = .quiesce → contextsStopped s v.core = true →
      ∀ s1, earlyCommit s v.core = some s1 → exec (.vaultDrain ring) s = .next (modVault s1 ring fun v => { v with st := .drain })) ∧
    (v.st = .quiesce → contextsStopped s v.core = false → exec (.vaultDrain ring) s = .next s) ∧
    (v.st = .drain → (s.fab.pend.any fun p => p.unit == v.core) = false →
      (s.cores.any fun x => x.2.copies.any fun p => p.preQ && p.touches v.core) = false → (∀ x ∈ (s.core v.core).lines, x.st ≠ .M) →
      ∃ t, exec (.vaultDrain ring) s = .next t ∧ t.mem = s.mem ∧ t.cores = s.cores ∧ (t.ring ring).vault = some { v with st := .copy }) ∧
    (v.st = .copy → ∃ t, exec (.vaultCopy ring) s = .next t ∧ t.mem = s.mem ∧ (t.ring ring).vault = some { v with st := .flip } ∧
      t.core v.core = { s.core v.core with lines := [], tlb := [] }) ∧
    (v.st = .copy → v.target < 18 →
      let m := putBits (s.ring ring).remap (80 + 2 * v.target) 2#2
      (∀ k, reserveSlot m v.failed = some k → ∃ t, exec (.vaultCopyFailure ring) s = .next t ∧ (t.ring ring).remap = m ∧
        (t.ring ring).vault = some { v with failed := v.target :: v.failed, target := k }) ∧
      (reserveSlot m v.failed = none → ringOf v.core = ring → (s.die (dieOf v.core)).vaultQ = [] →
        ∃ t, exec (.vaultCopyFailure ring) s = .next t ∧ (t.ring ring).remap = m ∧ (t.ring ring).vault = none ∧
          (t.core v.core).inq = (s.core v.core).inq ++ v.held)) ∧
    (v.st = .flip → ringOf v.core = ring → v.target < 18 → v.old < 18 → v.target ≠ v.old → (s.die (dieOf v.core)).vaultQ = [] →
      ∃ t, exec (.vaultFlip ring) s = .next t ∧ t.mem = s.mem ∧ t.slotOf v.core = v.target ∧ (t.ring ring).vault = none ∧
        remapState (t.ring ring).remap v.old = 2 ∧ remapState (t.ring ring).remap v.target = 0 ∧
        (∀ k < 18, k ≠ v.old → k ≠ v.target → remapState (t.ring ring).remap k = remapState (s.ring ring).remap k) ∧
        (v.by_ = .mailbox → t.pkg.reply = some ⟨0, [0]⟩) ∧ (∀ u c, v.by_ = .ctx u c → (u, c, 0) ∈ (t.ring ring).vaultResults) ∧
        (t.core v.core).inq = (s.core v.core).inq ++ v.held ∧ (t.die (dieOf v.core)).events.getLsbD 6 = true))

/-- CORRECTED_EVENT_WINDOW: the count of a core whose slot counts in an earlier window restarts, and no other state of the
package changes (R346). -/
def Sys2Proof.Claims.CorrectedEventWindows : Prop :=
  ∀ (s : State) (p : Nat), ∃ t, exec (.correctedEventWindow p) s = .next t ∧ { t with slots := s.slots } = s ∧
    ∀ u ∈ s.coresOf p, (t.pslot (s.slotKey u)).ceWin = s.ceWindow (some p) ∧
      (t.pslot (s.slotKey u)).ce = if (s.pslot (s.slotKey u)).ceWin = s.ceWindow (some p) then (s.pslot (s.slotKey u)).ce else 0

/-- CKSYNC, the timer and command 0xC008 start a pass: RUNNING is set, the rest of STATE stays, and the pass stands at its
first granule; a descriptor that fails the checks is an illegal operand, a record of kind 14, or Invalid Input; a
pass that runs ends first, and a write of STATE that a lease holds back waits at its home. That CKSYNC and the command
start a pass in every CKPT mode is the model's reading (log entry 61) (R112, R353, R369). -/
def Sys2Proof.Claims.PassesStart : Prop :=
  ∀ (s : State) (p : Nat), p < 16 → s.ownsRing p = true →
    let d := readDescriptor s p
    let number : BitVec 32 := (deviceGet s p (s.descVa p)).extractLsb' 32 32
    let begun (s1 : State) : State := s1.modPart p fun x =>
      { x with passAsked := false, pass := some { number := number, dest := d.dest, next := 0, copied := 0, ranges := d.ranges, desc := (s.descVa p).toNat, paused := false } }
    let put := devicePut s p (s.descVa p) (deviceGet s p (s.descVa p) ||| 1)
    let free : Prop := (s.part p).pass = none ∧ descriptorLater s p = false
    let held (s : State) : State := dutyWait s p (s.descVa p)
    let asked := hold (s.modPart p fun x => { x with passAsked := true })
    (∀ xa, Privileged s → X s xa = BitVec.ofNat 64 p → isMgmt s.cur.unit = true ∨ s.partOf s.cur.unit = some p → orderedAt s 3 = true →
      ((s.part p).pass.isSome = true → exec (.cksync xa) s = .next (stalls s .system)) ∧
      (free →
        (d.ok = false → exec (.cksync xa) s = .next (traps s trapOperand)) ∧
        (d.ok = true → put = none → exec (.cksync xa) s = .next (stalls (held s) .order)) ∧
        ∀ s1, d.ok = true → put = some s1 → exec (.cksync xa) s = .next (finish s (.done (begun s1))))) ∧
    ((s.part p).ckptMode = 0 → (s.part p).lastPass + (s.part p).ckint.toNat ≤ s.time → free →
      (d.ok = false → exec (.checkpointTimer p) s =
        .next ((passRecord s p (BitVec.allOnes 64) 0).modPart p fun x => { x with lastPass := s.time })) ∧
      (d.ok = true → put = none → exec (.checkpointTimer p) s = .next (held s)) ∧
      ∀ s1, d.ok = true → put = some s1 → exec (.checkpointTimer p) s = .next ((begun s1).modPart p fun x => { x with lastPass := s.time })) ∧
    (s.pkg.phase = 6 → s.pkg.command = true → exec (.requestCheckpointPass p) s = .next s) ∧
    (s.pkg.phase = 6 → s.pkg.command = false →
      ((s.part p).pass.isSome = true → exec (.requestCheckpointPass p) s = .next asked) ∧
      (free →
        (d.ok = false → exec (.requestCheckpointPass p) s = .next (answer (s.modPart p fun x => { x with passAsked := false }) 2 [])) ∧
        (d.ok = true → put = none → exec (.requestCheckpointPass p) s = .next (held asked)) ∧
        ∀ s1, d.ok = true → put = some s1 → exec (.requestCheckpointPass p) s = .next (answer (begun s1) 0 [])))

/-- The checks on a checkpoint descriptor (R353). -/
def Sys2Proof.Claims.DescriptorChecks : Prop :=
  ∀ d : Descriptor, d.ok = true ↔ (1 ≤ d.count ∧ d.count ≤ 16 ∧ d.dest % 4096 = 0 ∧
    ∀ r ∈ d.ranges, r.1 % 4096 = 0 ∧ r.2 % 4096 = 0 ∧ r.1 + r.2 ≤ 2 ^ 56 ∧
      ∀ a, ¬((d.dest ≤ a ∧ a < d.dest + d.total) ∧ r.1 ≤ a ∧ a < r.1 + r.2))

/-- A running pass copies the next granule when its write bit is set, and clears the bit; otherwise it goes on. A fault
pauses it. At the end COPIED and STATE are written, STATE last (R352, R353). -/
def Sys2Proof.Claims.PassesCopyWrittenGranules : Prop :=
  ∀ (s : State) (p : Nat) (ps : Pass), (s.part p).pass = some ps → ps.paused = false →
    (∀ g d src, ps.granule = some (g, d) → s.deviceXlate p false (BitVec.ofNat 64 g) = .ok src →
      (isDevMem src.pa = false ∨ s.fab.unwritten.contains (src.pa / 4096) = true →
        exec (.checkpointPass p) s = .next (s.modPart p fun x => { x with pass := some { ps with next := ps.next + 1 } })) ∧
      ∀ dst, isDevMem src.pa = true → s.fab.unwritten.contains (src.pa / 4096) = false → s.deviceXlate p true (BitVec.ofNat 64 d) = .ok dst →
        dst.attr ≠ .errorTolerant ∨ dst.pa % 16 = 0 → granuleReady s src.pa dst.pa = true →
        ∃ t, exec (.checkpointPass p) s = .next t ∧ (t.part p).pass = some { ps with next := ps.next + 1, copied := ps.copied + 1 } ∧
          (∀ a, t.mem.read a = if dst.pa ≤ a ∧ a < dst.pa + 4096 then s.mem.read (src.pa + (a - dst.pa)) else s.mem.read a) ∧
          ((∀ k ∈ linesOf dst.pa 4096, k / 64 ≠ src.pa / 4096) → src.pa / 4096 ∈ t.fab.unwritten)) ∧
    ((s.part p).pass = some ps → ∀ g d st, ps.granule = some (g, d) → s.deviceXlate p false (BitVec.ofNat 64 g) = .error st → xLater st = false →
      ∃ t, exec (.checkpointPass p) s = .next t ∧ t.mem = s.mem ∧ (t.part p).pass = some { ps with paused := true }) ∧
    (∀ s1 s2, ps.granule = none → devicePut s p (BitVec.ofNat 64 ps.desc + 24) (BitVec.ofNat 64 ps.copied) = some s1 →
      devicePut s1 p (BitVec.ofNat 64 ps.desc) ((ps.number + 1) ++ 0#30 ++ BitVec.ofBool (ps.copied = 0) ++ 0#1) = some s2 →
      ∃ t, exec (.checkpointPass p) s = .next t ∧ t.mem = s2.mem ∧ (t.part p).pass = none ∧ (t.die (t.partDie p)).events.getLsbD 5 = true)

/-- Vaults, corrected-event windows and checkpoint passes. Completes: cvault, orderVault, vaultDrain, vaultCopy,
vaultCopyFailure, vaultFlip, correctedEventWindow, cksync, requestCheckpointPass, checkpointTimer, checkpointPass. -/
def Obligations.VaultsAndCheckpoints : Prop :=
  Claims.VaultsAreOrdered ∧ Claims.VaultsRun ∧ Claims.CorrectedEventWindows ∧ Claims.PassesStart ∧
  Claims.DescriptorChecks ∧ Claims.PassesCopyWrittenGranules

/-- Host accesses of device memory, once bring-up is over and the link is up: a read changes nothing; a write is performed
when every lease on the line has ended and no AMO owns it, and the home grants no new lease until then; one that comes
while the home waits for its own snoop of the line goes before the write that the snoop is for; a line that
the host takes to modify leaves every leg cache, and its granule counts as written; and a line that it gives up is
written back (R112, R352, R363). That a host write leaves the L2's record of last writers is the model's reading (log
entry 46). -/
def Sys2Proof.Claims.HostAccesses : Prop :=
  ∀ s : State,
    (hostReady s = false → ∀ pa op, exec (.hostAccess pa op) s = .next s) ∧
    (∀ pa n, exec (.hostAccess pa (.read n)) s = .next s) ∧
    (hostReady s = true →
      (∀ pa data, hostInLine pa data.length = true →
        (s.leaseOk (pa / 64) = false ∨ s.unlocked (pa / 64) = false → exec (.hostAccess pa (.write data)) s =
          .next (s.waitOn (if snooping s (pa / 64) = true then .hostFirst else .host) [pa / 64])) ∧
        (s.leaseOk (pa / 64) = true → s.unlocked (pa / 64) = true → ∃ t, exec (.hostAccess pa (.write data)) s = .next t ∧
          t.fab.l2 = s.fab.l2 ∧ ∀ a, t.mem.read a = if pa ≤ a ∧ a < pa + data.length then data.getD (a - pa) 0 else s.mem.read a)) ∧
      (∀ pa, isDevMem pa = true → s.fab.hostLines.find? (pa / 64) = none → s.unlocked (pa / 64) = true →
        ∃ t, exec (.hostAccess pa (.acquire false)) s = .next t ∧ t.mem = s.mem ∧ t.fab = { s.fab with hostLines := s.fab.hostLines.set (pa / 64) false } ∧
          ∀ u < numUnits, ∀ x ∈ (t.core u).lines, x.line = pa / 64 → x.st ≠ .M) ∧
      (∀ pa, isDevMem pa = true → s.leaseOk (pa / 64) = true → s.unlocked (pa / 64) = true →
        ∃ t, exec (.hostAccess pa (.acquire true)) s = .next t ∧ t.mem = s.mem ∧ t.fab.hostLines.find? (pa / 64) = some true ∧
          pa / 4096 ∉ t.fab.unwritten ∧
          ∀ u, ∀ x ∈ (t.core u).lines, x.line = pa / 64 → x.st = .L) ∧
      ∀ line held, s.fab.hostLines.find? line = some held → (∀ p ∈ s.fab.pend, (linesOf p.pa p.bytes.length).contains line = false) →
        (∃ t, exec (.backInvalidation line none) s = .next t ∧ t.mem = s.mem ∧ t.fab.hostLines.find? line = none) ∧
        ∀ d, held = true → d.length = 64 → ∃ t, exec (.backInvalidation line (some d)) s = .next t ∧ t.fab.hostLines.find? line = none ∧
          ∀ a, t.mem.read a = if 64 * line ≤ a ∧ a < 64 * line + 64 then d.getD (a - 64 * line) 0 else s.mem.read a)

/-- HOST_SNOOP of a host-memory line: a read by the host leaves a clean copy; an invalidation takes the copy away. Either
fires the monitors that the core holds on the line when it loses the line or its ownership (R189, R364). -/
def Sys2Proof.Claims.HostSnoops : Prop :=
  ∀ (s : State) (u line : Nat), isHost (64 * line) = true →
    (∃ t, exec (.hostSnoop u line .share) s = .next t ∧ t.mem = s.mem ∧
      (∀ x ∈ (t.core u).lines, x.line = line → x.st ≠ .M) ∧ (t.core u).lines.map (·.line) = (s.core u).lines.map (·.line) ∧
      ((∃ x ∈ (s.core u).lines, x.line = line ∧ x.st = .M) → ∀ c m, (s.ctx u c).monitor = some m → m.host = true → m.line = line →
        (t.ctx u c).monitor = some { m with fired := true })) ∧
    ∃ t, exec (.hostSnoop u line .invalidate) s = .next t ∧ t.mem = s.mem ∧
      (∀ x ∈ (t.core u).lines, x.line = line → x.st = .L) ∧
      ∀ c m, c ≠ 0 → (s.ctx u c).monitor = some m → m.host = true → m.line = line → (t.ctx u c).monitor = some { m with fired := true }

/-- HOST_LINK_FAILURE ends every outstanding access to host memory: a read finds its lines poisoned, a store, or what a
copy writes to host memory, ends, and its partition takes the unrecoverable path; chunks of a copy that write elsewhere
go on. HOST_LINK_RESTORED tells the host. That
the lines read as poisoned until then is the model's reading (log entry 65) (R364). -/
def Sys2Proof.Claims.HostLinkFailures : Prop :=
  ∀ s : State,
    (s.pkg.hostLink = true → ∃ t, exec .hostLinkFailure s = .next t ∧ t.pkg.hostLink = false ∧ t.mem = s.mem ∧
      (∀ p, p ∈ t.fab.pend ↔ p ∈ s.fab.pend ∧ isHost p.pa = false) ∧
      (∀ x, x ∈ t.pkg.inside ↔ x ∈ s.pkg.inside ∧ insideHostLines s x = []) ∧
      (∀ x ∈ hostOutstanding s, ∀ i < 4, 4 * x.line + i ∈ t.fab.poison) ∧
      (∀ u, ∀ c ∈ (s.core u).copies, ∃ l, { c with landed := l } ∈ (t.core u).copies ∧
        ∀ k, k ∈ l ↔ k ∈ c.landed ∨ (k < c.chunks ∧ chunkHostLines s u c true k ≠ [])) ∧
      ∀ x ∈ hostOutstanding s, ∀ p, x.part = some p → (s.part p).recov = .run → (t.part p).recov = .drain) ∧
    (s.pkg.hostLink = false → ∃ t, exec .hostLinkRestored s = .next t ∧ t.pkg.hostLink = true ∧ t.mem = s.mem ∧ t.cores = s.cores ∧
      (∀ k, k ∈ t.fab.poison ↔ k ∈ s.fab.poison ∧ k ∉ s.pkg.hostLost) ∧
      vget t.pkg.msix 0 3 = vget s.pkg.msix 0 3 + if s.pkg.hostTell then 1 else 0)

/-- STATION_FAILURE: a request that can take another station does, and one that cannot fails: its store or copy leaves a
remote-access error pending, and a pod collective with a member that no route leads to any more ends in an error
(R260, R365, R366). -/
def Sys2Proof.Claims.StationsFail : Prop :=
  ∀ (s : State) (k : BitVec 4), k.toNat < 12 →
    let down (p : Pkg) : Pkg := { p with downSt := putBit p.downSt k.toNat true }
    ∃ t, exec (.stationFailure k) s = .next t ∧ t.mem = s.mem ∧ t.pkg.downSt.getLsbD k.toNat = true ∧
      (∀ y ∈ t.pkg.sent, ∃ x ∈ s.pkg.sent, (down s.pkg).carries x.station = some y.station ∧ y = { x with station := y.station }) ∧
      (∀ x ∈ s.pkg.sent, ∀ j, (down s.pkg).carries x.station = some j → { x with station := j } ∈ t.pkg.sent) ∧
      (∀ x ∈ s.pkg.sent, (down s.pkg).carries x.station = none → x.ctx < 8 →
        (∃ r, (s.ctx x.unit x.ctx).rops.find? (fun r => r.id == x.id) = some r ∧ r.store = true) →
        (∀ y ∈ s.pkg.sent, y.unit = x.unit → y.ctx = x.ctx → y.id = x.id → y = x) → (t.ctx x.unit x.ctx).remErr = true) ∧
      ∀ u c, c < 8 → ∀ x ∈ (s.ctx u c).colls, x.pkg = true → x.done = false →
        (∃ m ∈ x.members, m ≠ s.pkg.id ∧ (down s.pkg).route m x.dst = none) → { x with done := true, failed := true } ∈ (t.ctx u c).colls

/-- THROTTLE_UPDATE: once per µs the level rises by 1 above 3,600 W or 95 °C, falls by 1 below 3,500 W and 90 °C, and
otherwise stays, between 0 and 7; at 105 °C the package faults. That a µs is 100 ticks since the update before is the
model's reading (log entry 47) (R375, R376). -/
def Sys2Proof.Claims.ThrottleLevels : Prop :=
  ∀ (s : State) (power : BitVec 16) (temp : BitVec 8),
    let due : Prop := ∀ n, s.pkg.lastThrot = some n → n + 100 ≤ s.time
    (105 ≤ temp.toNat → ∃ t, exec (.throttleUpdate power temp) s = .next t ∧ t.pkg.faulted = true) ∧
    (temp.toNat < 105 → ¬due → exec (.throttleUpdate power temp) s = .next s) ∧
    (temp.toNat < 105 → due → ∃ t, exec (.throttleUpdate power temp) s = .next t ∧
      { t.pkg with throt := s.pkg.throt, power := s.pkg.power, temp := s.pkg.temp, lastThrot := s.pkg.lastThrot } = s.pkg ∧
      { t with pkg := s.pkg } = s ∧ t.pkg.lastThrot = some s.time ∧
      t.pkg.throt.toNat =
        if 3600 < power.toNat ∨ 95 < temp.toNat then min 7 (s.pkg.throt.toNat + 1)
        else if power.toNat < 3500 ∧ temp.toNat < 90 then s.pkg.throt.toNat - 1 else s.pkg.throt.toNat)

/-- The status doubleword of the sideband: PHASE, CODE, THROT, TEMP and POWER stand at their bits and the others are
zero; after package reset it is 1 (R373). -/
def Sys2Proof.Claims.StatusWord : Prop :=
  bringupStatus State.reset = 1 ∧ ∀ s : State, let w := bringupStatus s
    bits w 0 4 = s.pkg.phase.toNat ∧ bits w 4 4 = 0 ∧ bits w 8 8 = s.pkg.code.toNat ∧ bits w 16 3 = s.pkg.throt.toNat ∧
    bits w 19 5 = 0 ∧ bits w 24 8 = s.pkg.temp.toNat ∧ bits w 32 16 = s.pkg.power.toNat ∧ bits w 48 16 = 0

/-- PACKAGE_FAULT sends every partition down the unrecoverable path and takes the power of the compute dies; after
PACKAGE_RESET phase 1 begins at TIME 0 with every register at its reset value. That memory keeps its contents until
phase 3 is the model's reading (log entry 48) (R372, R374, R376). -/
def Sys2Proof.Claims.PackageFaultAndReset : Prop :=
  ∀ s : State,
    (s.pkg.faulted = false → ∃ t, exec .packageFault s = .next t ∧ t.pkg.faulted = true ∧ t.mem = s.mem ∧
      ∀ p < 16, (s.part p).recov = .run → (t.part p).recov = .drain) ∧
    (s.pkg.faulted = true → exec .packageFault s = .next s) ∧
    ∃ t, exec .packageReset s = .next t ∧ t.time = 0 ∧ t.pkg = State.reset.pkg ∧ t.pkg.phase = 1 ∧ t.mem = s.mem ∧ t.parts = [] ∧ t.queues = [] ∧
      t.rings = [] ∧ t.dies = [] ∧ t.strands = [] ∧ t.slots = [] ∧ ∀ u, t.core u = { Core.reset with checks := (t.core u).checks }

/-- The phases of bring-up (R372): each goes on to the next when it succeeds, a failure leads to phase 15 with its code,
in phase 2 when the image of the second slot fails too (log entry 88);
phase 3 clears device memory and starts the management cores, phase 4 takes remap records that keep every core in
service, and READY leaves every partition and queue register at its reset value and no ring assigned. -/
def Sys2Proof.Claims.BringupPhases : Prop :=
  ∀ (s : State) (v : Word) (records : List (BitVec 128)),
    let released (t : State) (i : Nat) : Prop := (t.ctx (1025 + i) 0).resident = true ∧
      ((s.ctx (1025 + i) 0).resident = false → (t.ctx (1025 + i) 0).pc = s.pkg.fwEntry)
    (s.pkg.phase = 1 → ∃ t, exec (.bringupPhase (.ok v)) s = .next t ∧ t.pkg.phase = 2 ∧ t.pkg.fwEntry = v ∧ t.mem = s.mem) ∧
    (s.pkg.phase = 2 → ∃ t, exec (.bringupPhase (.ok v)) s = .next t ∧ t.pkg.phase = 3 ∧ (t.ctx 1024 0).resident = true ∧
      (t.ctx 1024 0).pc = s.pkg.fwEntry ∧ t.mem = s.mem) ∧
    (s.pkg.phase = 3 → ∃ t, exec (.bringupPhase (.ok v)) s = .next t ∧ t.pkg.phase = 4 ∧
      (∀ a, t.mem.read a = if isDevMem a = true then 0 else s.mem.read a) ∧ (∀ k ∈ t.fab.poison, isDevMem (16 * k) = false) ∧
      ∀ i < 15, released t i) ∧
    (s.pkg.phase = 3 → ∃ t, exec (.bringupPhase .release) s = .next t ∧ t.pkg = s.pkg ∧ t.mem = s.mem ∧ ∀ i < 15, released t i) ∧
    (s.pkg.phase = 4 → records.length = 64 →
      ((∀ m ∈ records, remapOk m = true) → ∃ t, exec (.bringupPhase (.remap records)) s = .next t ∧ t.pkg.phase = 5 ∧ t.mem = s.mem ∧
        ∀ r < 64, (t.ring r).remap = records.getD r 0) ∧
      ((∃ m ∈ records, remapOk m = false) → exec (.bringupPhase (.remap records)) s = .next s)) ∧
    (s.pkg.phase = 5 → ∃ t, exec (.bringupPhase (.links v)) s = .next t ∧ t.pkg.phase = 6 ∧ t.pkg.link = linkRecord v ∧
      (∀ p, t.part p = Part.reset) ∧ (∀ q, t.queue q = Queue.reset) ∧ ∀ r, (t.ring r).own = 0) ∧
    (s.pkg.phase = 2 → s.pkg.slot1 = false → ∃ t, exec (.bringupPhase .failed) s = .next t ∧ t.pkg.phase = 1 ∧ t.pkg.slot1 = true ∧ t.mem = s.mem) ∧
    ((s.pkg.phase = 2 ∧ s.pkg.slot1 = true ∨ s.pkg.phase = 3 ∨ s.pkg.phase = 4) → ∃ t, exec (.bringupPhase .failed) s = .next t ∧ t.pkg.phase = 15 ∧
      t.pkg.code.toNat + 1 = s.pkg.phase.toNat ∧ t.mem = s.mem)

/-- A remap record that the repair map may give: sixteen different slots hold the cores, and exactly they are in service
(R345). -/
def Sys2Proof.Claims.RemapRecords : Prop :=
  ∀ m : BitVec 128, remapOk m = true ↔ bits m 116 12 = 0 ∧ (∀ c < 16, remapSlot m c < 18 ∧ ∀ d < 16, remapSlot m c = remapSlot m d → c = d) ∧
    ∀ k < 18, remapState m k = 0 ↔ ∃ c < 16, remapSlot m c = k

/-- The host link, link stations, throttling, package faults and bring-up (memory until phase 3: log entry 48).
Completes: hostAccess, backInvalidation, hostSnoop, hostLinkFailure, hostLinkRestored, stationFailure, throttleUpdate,
packageFault, packageReset, bringupPhase. -/
def Obligations.HostAndPackageEvents : Prop :=
  Claims.HostAccesses ∧ Claims.HostSnoops ∧ Claims.HostLinkFailures ∧ Claims.StationsFail ∧
  Claims.ThrottleLevels ∧ Claims.StatusWord ∧ Claims.PackageFaultAndReset ∧ Claims.BringupPhases ∧ Claims.RemapRecords

/-- READ_REGISTER and WRITE_REGISTER act as GETP and SETP of a management core: a register that does not exist, and a value
that SETP would refuse, are Invalid Input; before bring-up has ended the mailbox is Busy. While a command has not been
answered, the next one of either port waits (R369, R371, R372). -/
def Sys2Proof.Claims.RegisterCommands : Prop :=
  ∀ (s : State) (num : BitVec 12) (i : Nat) (v : Word),
    (s.pkg.phase ≠ 6 → exec (.readRegister .mailbox num i) s = .next (answer s 3 []) ∧ exec (.writeRegister num i v) s = .next (answer s 3 [])) ∧
    (s.pkg.command = true → exec (.readRegister .sideband num i) s = .next s ∧
      (s.pkg.phase = 6 → exec (.readRegister .mailbox num i) s = .next s ∧ exec (.writeRegister num i v) s = .next s)) ∧
    (s.pkg.command = false →
      (pregOf num.toNat i = none → (s.pkg.phase = 6 → exec (.readRegister .mailbox num i) s = .next (answer s 2 []) ∧
        exec (.writeRegister num i v) s = .next (answer s 2 [])) ∧
        exec (.readRegister .sideband num i) s = .next (s.modPkg fun p => { p with reply := some ⟨2, []⟩ })) ∧
      ∀ r, pregOf num.toNat i = some r →
        exec (.readRegister .sideband num i) s = .next (s.modPkg fun p => { p with reply := some ⟨0, [getPriv s r]⟩ }) ∧
        (s.pkg.phase = 6 → exec (.readRegister .mailbox num i) s = .next (answer s 0 [getPriv s r]) ∧
          exec (.writeRegister num i v) s = .next (if privOk s r v then answer (setPriv s r v hostKey) 0 [] else answer s 2 [])))

/-- START_DISPATCHER_STRAND, in LAUNCH mode 10 and of an enabled queue: an image that passes the checks gets a node and
its handle is the answer; its task is in no queue, and only the explicit predecessors of its image hold it back.
Without room it is Busy, otherwise Invalid Input. Which status an image that fails R291 has is the model's reading (log
entry 31) (R289, R291, R369). -/
def Sys2Proof.Claims.DispatcherStrandsStart : Prop :=
  ∀ (s : State) (p q : Nat) (image : Word), s.pkg.phase = 6 → s.pkg.command = false → p < 16 → s.ownsRing p = true →
    deviceLater s p image = false →
    ((q > 3 ∨ (s.part p).launchMode ≠ 2 ∨ (s.queue (4 * p + q)).qctl.getLsbD 63 = false ∨ dispatcherImage s p image = none) →
      exec (.startDispatcherStrand p q image) s = .next (answer s 2 [])) ∧
    (q ≤ 3 → (s.part p).launchMode = 2 → (s.queue (4 * p + q)).qctl.getLsbD 63 = true → ∀ i, dispatcherImage s p image = some i →
      (dispatcherOk s p i = false → exec (.startDispatcherStrand p q image) s = .next (answer s 2 [])) ∧
      (dispatcherOk s p i = true → s.placing p = true → nodeRoom s (s.partDie p) i.ranges = true →
        linksFree s (some (s.partDie p)) (predsOf s p none i.ranges i.preds) = true →
        let r := allocNode s (s.partDie p) p none i i.origin (launchKey (s.partDie p) 0)
        exec (.startDispatcherStrand p q image) s =
          .next (answer (orderNode r.2 (s.partDie p, bits r.1 0 13) (predsOf r.2 p none i.ranges i.preds)) 0 [r.1])) ∧
      (dispatcherOk s p i = true → s.placing p = false ∨ nodeRoom s (s.partDie p) i.ranges = false →
        exec (.startDispatcherStrand p q image) s = .next (answer s 3 [])))

/-- READ_ERROR_RECORD, READ_LINK_CONFIGURATION, MESSAGE_TO_FIRMWARE and READ_DEVICE_MESSAGE answer with the oldest record of a
partition's log, the link record in every phase, and the oldest message; a message to firmware sets bit 3 of
die 0's event set. Zeros for an empty log are the model's reading (log entry 31) (R332, R338, R367, R369 to R372). -/
def Sys2Proof.Claims.MailboxMessages : Prop :=
  (∀ (s : State) (p : Nat) (pop : Bool), s.pkg.phase = 6 → s.pkg.command = false → p < 16 → s.ownsRing p = true →
    ∃ t, exec (.readErrorRecord .mailbox p pop) s = .next t ∧ t.mem = s.mem ∧ t.cores = s.cores ∧
      t.pkg.reply = some ⟨0, ((s.part p).log.recs.head?.map (·.toList)).getD (List.replicate 8 0)⟩ ∧
      (t.part p).log.recs = if pop then (s.part p).log.recs.tail else (s.part p).log.recs) ∧
  (∀ s : State, s.pkg.command = false → exec (.readLinkConfiguration .mailbox) s = .next (answer s 0 [s.pkg.link]) ∧
    exec (.readLinkConfiguration .sideband) s = .next (s.modPkg fun p => { p with reply := some ⟨0, [s.pkg.link]⟩ })) ∧
  (∀ (s : State) (v w : Word), s.pkg.phase = 6 → s.pkg.command = false → ∃ t, exec (.messageToFirmware v w) s = .next t ∧ t.mem = s.mem ∧ t.cores = s.cores ∧
    t.pkg.inq = s.pkg.inq ++ [(v, w)] ∧ (t.die 0).events = putBit (s.die 0).events 3 true ∧ t.pkg.reply = some ⟨0, []⟩) ∧
  ∀ s : State, s.pkg.phase = 6 → s.pkg.command = false →
    (s.pkg.outq = [] → exec .readDeviceMessage s = .next (answer s 0 [])) ∧
    ∀ m rest, s.pkg.outq = m :: rest → (∀ p < 16, (s.part p).notes = []) →
      ∃ t, exec .readDeviceMessage s = .next t ∧ t.mem = s.mem ∧ t.pkg.outq = rest ∧ t.pkg.reply = some ⟨0, [m.seq, m.w0, m.w1]⟩

/-- The end of a page fault, by firmware in PFAULT mode 01 and by command 0xC003 in mode 10: unless a lease holds back the
write that ends a pass, the record is closed, and the party that faulted goes on; unserved, a copy aborts and a pass
ends. Invalid Input for a record of another mode is the model's reading (log entry 31) (R112, R258, R297, R353, R370). -/
def Sys2Proof.Claims.PageFaultsEnd : Prop :=
  ∀ (s : State) (k : Nat) (f : PageFault), s.pkg.pfaults.find? k = some f →
    (∀ served, (f.mode = 2 → exec (.pageFaultService k served) s = .next s) ∧
      (∀ va, f.mode ≠ 2 → abortWaits s f served = some va → exec (.pageFaultService k served) s = .next (dutyWait s f.part va)) ∧
      (f.mode ≠ 2 → abortWaits s f served = none → exec (.pageFaultService k served) s = .next (closeFault s k f served))) ∧
    (∀ action, s.pkg.phase = 6 → s.pkg.command = false →
      (f.mode ≠ 2 → exec (.resumeAfterPageFault k action) s = .next (answer s 2 [])) ∧
      (∀ va, f.mode = 2 → abortWaits s f (action != 0) = some va → exec (.resumeAfterPageFault k action) s = .next (dutyWait s f.part va)) ∧
      (f.mode = 2 → abortWaits s f (action != 0) = none → exec (.resumeAfterPageFault k action) s = .next (answer (closeFault s k f (action != 0)) 0 []))) ∧
    (∀ u h, f.who = .copy u h → ∀ c ∈ ((closeFault s k f true).core u).copies, c.handle = h → c.paused = none) ∧
    (∀ p ps, f.who = .pass p → (s.part p).pass = some ps →
      ((closeFault s k f true).part p).pass = some { ps with paused := false } ∧ ((closeFault s k f false).part p).pass = none) ∧
    ∀ served, (closeFault s k f served).pkg.pfaults.find? k = none

/-- The commands of the mailbox, and the end of a page fault. Completes: readRegister, writeRegister,
startDispatcherStrand, readErrorRecord, readLinkConfiguration, messageToFirmware, readDeviceMessage,
resumeAfterPageFault, pageFaultService. -/
def Obligations.MailboxCommands : Prop :=
  Claims.RegisterCommands ∧ Claims.DispatcherStrandsStart ∧ Claims.MailboxMessages ∧ Claims.PageFaultsEnd
end

