-- ==== Sys2Proof/Laws/State.lean ====
section
/-!
SUPPORT. What each update of the state leaves and what it changes: one lemma per update and field, so that
no proof unfolds a record update; and what a map and the accessors of contexts and cores read after a write.
-/
namespace Sys2Proof.Machine

/-! ## Finite maps -/

theorem FMap.find?_set {α : Type} (m : FMap α) (k j : Nat) (a : α) :
    (m.set k a).find? j = if j = k then some a else m.find? j := by
  induction m with
  | nil => grind [FMap.set, FMap.find?]
  | cons x m ih => obtain ⟨i, b⟩ := x; unfold FMap.set; grind [FMap.find?]

theorem FMap.get_set {α : Type} (m : FMap α) (d : α) (k j : Nat) (a : α) :
    (m.set k a).get d j = if j = k then a else m.get d j := by
  unfold FMap.get; rw [FMap.find?_set]; by_cases h : j = k <;> simp [h]

theorem FMap.find?_del {α : Type} (m : FMap α) (k j : Nat) :
    (m.del k).find? j = if j = k then none else m.find? j := by
  induction m with
  | nil => grind [FMap.del, FMap.find?]
  | cons x m ih => obtain ⟨i, b⟩ := x; unfold FMap.del; grind [FMap.find?]

theorem vget_vset {α : Type} {n : Nat} (v : Vector α n) (d a : α) (i j : Nat) :
    vget (vset v i a) d j = if j = i ∧ i < n then a else vget v d j := by
  unfold vget vset
  rw [Vector.getElem?_setIfInBounds]
  by_cases h : i = j
  · subst h; by_cases hn : i < n <;> simp [hn]
  · simp [h, Ne.symm h]

/-! ## The parts of the state -/

@[simp] theorem State.setMem_mem (s : State) (m : Memory) : (s.setMem m).mem = m := rfl
@[simp] theorem State.setMem_fab (s : State) (m : Memory) : (s.setMem m).fab = s.fab := rfl
@[simp] theorem State.setMem_cores (s : State) (m : Memory) : (s.setMem m).cores = s.cores := rfl
@[simp] theorem State.setMem_dies (s : State) (m : Memory) : (s.setMem m).dies = s.dies := rfl
@[simp] theorem State.setMem_rings (s : State) (m : Memory) : (s.setMem m).rings = s.rings := rfl
@[simp] theorem State.setMem_slots (s : State) (m : Memory) : (s.setMem m).slots = s.slots := rfl
@[simp] theorem State.setMem_parts (s : State) (m : Memory) : (s.setMem m).parts = s.parts := rfl
@[simp] theorem State.setMem_queues (s : State) (m : Memory) : (s.setMem m).queues = s.queues := rfl
@[simp] theorem State.setMem_strands (s : State) (m : Memory) : (s.setMem m).strands = s.strands := rfl
@[simp] theorem State.setMem_pkg (s : State) (m : Memory) : (s.setMem m).pkg = s.pkg := rfl
@[simp] theorem State.setMem_now (s : State) (m : Memory) : (s.setMem m).now = s.now := rfl
@[simp] theorem State.setMem_cur (s : State) (m : Memory) : (s.setMem m).cur = s.cur := rfl
@[simp] theorem State.setMem_fresh (s : State) (m : Memory) : (s.setMem m).fresh = s.fresh := rfl
@[simp] theorem State.setMem_agenda (s : State) (m : Memory) : (s.setMem m).agenda = s.agenda := rfl
@[simp] theorem State.setFab_mem (s : State) (f : Fabric) : (s.setFab f).mem = s.mem := rfl
@[simp] theorem State.setFab_fab (s : State) (f : Fabric) : (s.setFab f).fab = f := rfl
@[simp] theorem State.setFab_cores (s : State) (f : Fabric) : (s.setFab f).cores = s.cores := rfl
@[simp] theorem State.setFab_dies (s : State) (f : Fabric) : (s.setFab f).dies = s.dies := rfl
@[simp] theorem State.setFab_rings (s : State) (f : Fabric) : (s.setFab f).rings = s.rings := rfl
@[simp] theorem State.setFab_slots (s : State) (f : Fabric) : (s.setFab f).slots = s.slots := rfl
@[simp] theorem State.setFab_parts (s : State) (f : Fabric) : (s.setFab f).parts = s.parts := rfl
@[simp] theorem State.setFab_queues (s : State) (f : Fabric) : (s.setFab f).queues = s.queues := rfl
@[simp] theorem State.setFab_strands (s : State) (f : Fabric) : (s.setFab f).strands = s.strands := rfl
@[simp] theorem State.setFab_pkg (s : State) (f : Fabric) : (s.setFab f).pkg = s.pkg := rfl
@[simp] theorem State.setFab_now (s : State) (f : Fabric) : (s.setFab f).now = s.now := rfl
@[simp] theorem State.setFab_cur (s : State) (f : Fabric) : (s.setFab f).cur = s.cur := rfl
@[simp] theorem State.setFab_fresh (s : State) (f : Fabric) : (s.setFab f).fresh = s.fresh := rfl
@[simp] theorem State.setFab_agenda (s : State) (f : Fabric) : (s.setFab f).agenda = s.agenda := rfl
@[simp] theorem State.setPkg_mem (s : State) (p : Pkg) : (s.setPkg p).mem = s.mem := rfl
@[simp] theorem State.setPkg_fab (s : State) (p : Pkg) : (s.setPkg p).fab = s.fab := rfl
@[simp] theorem State.setPkg_cores (s : State) (p : Pkg) : (s.setPkg p).cores = s.cores := rfl
@[simp] theorem State.setPkg_dies (s : State) (p : Pkg) : (s.setPkg p).dies = s.dies := rfl
@[simp] theorem State.setPkg_rings (s : State) (p : Pkg) : (s.setPkg p).rings = s.rings := rfl
@[simp] theorem State.setPkg_slots (s : State) (p : Pkg) : (s.setPkg p).slots = s.slots := rfl
@[simp] theorem State.setPkg_parts (s : State) (p : Pkg) : (s.setPkg p).parts = s.parts := rfl
@[simp] theorem State.setPkg_queues (s : State) (p : Pkg) : (s.setPkg p).queues = s.queues := rfl
@[simp] theorem State.setPkg_strands (s : State) (p : Pkg) : (s.setPkg p).strands = s.strands := rfl
@[simp] theorem State.setPkg_pkg (s : State) (p : Pkg) : (s.setPkg p).pkg = p := rfl
@[simp] theorem State.setPkg_now (s : State) (p : Pkg) : (s.setPkg p).now = s.now := rfl
@[simp] theorem State.setPkg_cur (s : State) (p : Pkg) : (s.setPkg p).cur = s.cur := rfl
@[simp] theorem State.setPkg_fresh (s : State) (p : Pkg) : (s.setPkg p).fresh = s.fresh := rfl
@[simp] theorem State.setPkg_agenda (s : State) (p : Pkg) : (s.setPkg p).agenda = s.agenda := rfl
@[simp] theorem State.setCur_mem (s : State) (i : Issuer) : (s.setCur i).mem = s.mem := rfl
@[simp] theorem State.setCur_fab (s : State) (i : Issuer) : (s.setCur i).fab = s.fab := rfl
@[simp] theorem State.setCur_cores (s : State) (i : Issuer) : (s.setCur i).cores = s.cores := rfl
@[simp] theorem State.setCur_dies (s : State) (i : Issuer) : (s.setCur i).dies = s.dies := rfl
@[simp] theorem State.setCur_rings (s : State) (i : Issuer) : (s.setCur i).rings = s.rings := rfl
@[simp] theorem State.setCur_slots (s : State) (i : Issuer) : (s.setCur i).slots = s.slots := rfl
@[simp] theorem State.setCur_parts (s : State) (i : Issuer) : (s.setCur i).parts = s.parts := rfl
@[simp] theorem State.setCur_queues (s : State) (i : Issuer) : (s.setCur i).queues = s.queues := rfl
@[simp] theorem State.setCur_strands (s : State) (i : Issuer) : (s.setCur i).strands = s.strands := rfl
@[simp] theorem State.setCur_pkg (s : State) (i : Issuer) : (s.setCur i).pkg = s.pkg := rfl
@[simp] theorem State.setCur_now (s : State) (i : Issuer) : (s.setCur i).now = s.now := rfl
@[simp] theorem State.setCur_cur (s : State) (i : Issuer) : (s.setCur i).cur = i := rfl
@[simp] theorem State.setCur_fresh (s : State) (i : Issuer) : (s.setCur i).fresh = s.fresh := rfl
@[simp] theorem State.setCur_agenda (s : State) (i : Issuer) : (s.setCur i).agenda = s.agenda := rfl
@[simp] theorem State.setCore_mem (s : State) (u : Nat) (c : Core) : (s.setCore u c).mem = s.mem := rfl
@[simp] theorem State.setCore_fab (s : State) (u : Nat) (c : Core) : (s.setCore u c).fab = s.fab := rfl
@[simp] theorem State.setCore_cores (s : State) (u : Nat) (c : Core) : (s.setCore u c).cores = s.cores.set u c := rfl
@[simp] theorem State.setCore_dies (s : State) (u : Nat) (c : Core) : (s.setCore u c).dies = s.dies := rfl
@[simp] theorem State.setCore_rings (s : State) (u : Nat) (c : Core) : (s.setCore u c).rings = s.rings := rfl
@[simp] theorem State.setCore_slots (s : State) (u : Nat) (c : Core) : (s.setCore u c).slots = s.slots := rfl
@[simp] theorem State.setCore_parts (s : State) (u : Nat) (c : Core) : (s.setCore u c).parts = s.parts := rfl
@[simp] theorem State.setCore_queues (s : State) (u : Nat) (c : Core) : (s.setCore u c).queues = s.queues := rfl
@[simp] theorem State.setCore_strands (s : State) (u : Nat) (c : Core) : (s.setCore u c).strands = s.strands := rfl
@[simp] theorem State.setCore_pkg (s : State) (u : Nat) (c : Core) : (s.setCore u c).pkg = s.pkg := rfl
@[simp] theorem State.setCore_now (s : State) (u : Nat) (c : Core) : (s.setCore u c).now = s.now := rfl
@[simp] theorem State.setCore_cur (s : State) (u : Nat) (c : Core) : (s.setCore u c).cur = s.cur := rfl
@[simp] theorem State.setCore_fresh (s : State) (u : Nat) (c : Core) : (s.setCore u c).fresh = s.fresh := rfl
@[simp] theorem State.setCore_agenda (s : State) (u : Nat) (c : Core) : (s.setCore u c).agenda = s.agenda := rfl
@[simp] theorem State.setDie_mem (s : State) (d : Nat) (x : Die) : (s.setDie d x).mem = s.mem := rfl
@[simp] theorem State.setDie_fab (s : State) (d : Nat) (x : Die) : (s.setDie d x).fab = s.fab := rfl
@[simp] theorem State.setDie_cores (s : State) (d : Nat) (x : Die) : (s.setDie d x).cores = s.cores := rfl
@[simp] theorem State.setDie_dies (s : State) (d : Nat) (x : Die) : (s.setDie d x).dies = s.dies.set d x := rfl
@[simp] theorem State.setDie_rings (s : State) (d : Nat) (x : Die) : (s.setDie d x).rings = s.rings := rfl
@[simp] theorem State.setDie_slots (s : State) (d : Nat) (x : Die) : (s.setDie d x).slots = s.slots := rfl
@[simp] theorem State.setDie_parts (s : State) (d : Nat) (x : Die) : (s.setDie d x).parts = s.parts := rfl
@[simp] theorem State.setDie_queues (s : State) (d : Nat) (x : Die) : (s.setDie d x).queues = s.queues := rfl
@[simp] theorem State.setDie_strands (s : State) (d : Nat) (x : Die) : (s.setDie d x).strands = s.strands := rfl
@[simp] theorem State.setDie_pkg (s : State) (d : Nat) (x : Die) : (s.setDie d x).pkg = s.pkg := rfl
@[simp] theorem State.setDie_now (s : State) (d : Nat) (x : Die) : (s.setDie d x).now = s.now := rfl
@[simp] theorem State.setDie_cur (s : State) (d : Nat) (x : Die) : (s.setDie d x).cur = s.cur := rfl
@[simp] theorem State.setDie_fresh (s : State) (d : Nat) (x : Die) : (s.setDie d x).fresh = s.fresh := rfl
@[simp] theorem State.setDie_agenda (s : State) (d : Nat) (x : Die) : (s.setDie d x).agenda = s.agenda := rfl
@[simp] theorem State.setRing_mem (s : State) (r : Nat) (x : Ring) : (s.setRing r x).mem = s.mem := rfl
@[simp] theorem State.setRing_fab (s : State) (r : Nat) (x : Ring) : (s.setRing r x).fab = s.fab := rfl
@[simp] theorem State.setRing_cores (s : State) (r : Nat) (x : Ring) : (s.setRing r x).cores = s.cores := rfl
@[simp] theorem State.setRing_dies (s : State) (r : Nat) (x : Ring) : (s.setRing r x).dies = s.dies := rfl
@[simp] theorem State.setRing_rings (s : State) (r : Nat) (x : Ring) : (s.setRing r x).rings = s.rings.set r x := rfl
@[simp] theorem State.setRing_slots (s : State) (r : Nat) (x : Ring) : (s.setRing r x).slots = s.slots := rfl
@[simp] theorem State.setRing_parts (s : State) (r : Nat) (x : Ring) : (s.setRing r x).parts = s.parts := rfl
@[simp] theorem State.setRing_queues (s : State) (r : Nat) (x : Ring) : (s.setRing r x).queues = s.queues := rfl
@[simp] theorem State.setRing_strands (s : State) (r : Nat) (x : Ring) : (s.setRing r x).strands = s.strands := rfl
@[simp] theorem State.setRing_pkg (s : State) (r : Nat) (x : Ring) : (s.setRing r x).pkg = s.pkg := rfl
@[simp] theorem State.setRing_now (s : State) (r : Nat) (x : Ring) : (s.setRing r x).now = s.now := rfl
@[simp] theorem State.setRing_cur (s : State) (r : Nat) (x : Ring) : (s.setRing r x).cur = s.cur := rfl
@[simp] theorem State.setRing_fresh (s : State) (r : Nat) (x : Ring) : (s.setRing r x).fresh = s.fresh := rfl
@[simp] theorem State.setRing_agenda (s : State) (r : Nat) (x : Ring) : (s.setRing r x).agenda = s.agenda := rfl
@[simp] theorem State.setPslot_mem (s : State) (k : Nat) (x : PSlot) : (s.setPslot k x).mem = s.mem := rfl
@[simp] theorem State.setPslot_fab (s : State) (k : Nat) (x : PSlot) : (s.setPslot k x).fab = s.fab := rfl
@[simp] theorem State.setPslot_cores (s : State) (k : Nat) (x : PSlot) : (s.setPslot k x).cores = s.cores := rfl
@[simp] theorem State.setPslot_dies (s : State) (k : Nat) (x : PSlot) : (s.setPslot k x).dies = s.dies := rfl
@[simp] theorem State.setPslot_rings (s : State) (k : Nat) (x : PSlot) : (s.setPslot k x).rings = s.rings := rfl
@[simp] theorem State.setPslot_slots (s : State) (k : Nat) (x : PSlot) : (s.setPslot k x).slots = s.slots.set k x := rfl
@[simp] theorem State.setPslot_parts (s : State) (k : Nat) (x : PSlot) : (s.setPslot k x).parts = s.parts := rfl
@[simp] theorem State.setPslot_queues (s : State) (k : Nat) (x : PSlot) : (s.setPslot k x).queues = s.queues := rfl
@[simp] theorem State.setPslot_strands (s : State) (k : Nat) (x : PSlot) : (s.setPslot k x).strands = s.strands := rfl
@[simp] theorem State.setPslot_pkg (s : State) (k : Nat) (x : PSlot) : (s.setPslot k x).pkg = s.pkg := rfl
@[simp] theorem State.setPslot_now (s : State) (k : Nat) (x : PSlot) : (s.setPslot k x).now = s.now := rfl
@[simp] theorem State.setPslot_cur (s : State) (k : Nat) (x : PSlot) : (s.setPslot k x).cur = s.cur := rfl
@[simp] theorem State.setPslot_fresh (s : State) (k : Nat) (x : PSlot) : (s.setPslot k x).fresh = s.fresh := rfl
@[simp] theorem State.setPslot_agenda (s : State) (k : Nat) (x : PSlot) : (s.setPslot k x).agenda = s.agenda := rfl
@[simp] theorem State.setPart_mem (s : State) (p : Nat) (x : Part) : (s.setPart p x).mem = s.mem := rfl
@[simp] theorem State.setPart_fab (s : State) (p : Nat) (x : Part) : (s.setPart p x).fab = s.fab := rfl
@[simp] theorem State.setPart_cores (s : State) (p : Nat) (x : Part) : (s.setPart p x).cores = s.cores := rfl
@[simp] theorem State.setPart_dies (s : State) (p : Nat) (x : Part) : (s.setPart p x).dies = s.dies := rfl
@[simp] theorem State.setPart_rings (s : State) (p : Nat) (x : Part) : (s.setPart p x).rings = s.rings := rfl
@[simp] theorem State.setPart_slots (s : State) (p : Nat) (x : Part) : (s.setPart p x).slots = s.slots := rfl
@[simp] theorem State.setPart_parts (s : State) (p : Nat) (x : Part) : (s.setPart p x).parts = s.parts.set p x := rfl
@[simp] theorem State.setPart_queues (s : State) (p : Nat) (x : Part) : (s.setPart p x).queues = s.queues := rfl
@[simp] theorem State.setPart_strands (s : State) (p : Nat) (x : Part) : (s.setPart p x).strands = s.strands := rfl
@[simp] theorem State.setPart_pkg (s : State) (p : Nat) (x : Part) : (s.setPart p x).pkg = s.pkg := rfl
@[simp] theorem State.setPart_now (s : State) (p : Nat) (x : Part) : (s.setPart p x).now = s.now := rfl
@[simp] theorem State.setPart_cur (s : State) (p : Nat) (x : Part) : (s.setPart p x).cur = s.cur := rfl
@[simp] theorem State.setPart_fresh (s : State) (p : Nat) (x : Part) : (s.setPart p x).fresh = s.fresh := rfl
@[simp] theorem State.setPart_agenda (s : State) (p : Nat) (x : Part) : (s.setPart p x).agenda = s.agenda := rfl
@[simp] theorem State.setQueue_mem (s : State) (q : Nat) (x : Queue) : (s.setQueue q x).mem = s.mem := rfl
@[simp] theorem State.setQueue_fab (s : State) (q : Nat) (x : Queue) : (s.setQueue q x).fab = s.fab := rfl
@[simp] theorem State.setQueue_cores (s : State) (q : Nat) (x : Queue) : (s.setQueue q x).cores = s.cores := rfl
@[simp] theorem State.setQueue_dies (s : State) (q : Nat) (x : Queue) : (s.setQueue q x).dies = s.dies := rfl
@[simp] theorem State.setQueue_rings (s : State) (q : Nat) (x : Queue) : (s.setQueue q x).rings = s.rings := rfl
@[simp] theorem State.setQueue_slots (s : State) (q : Nat) (x : Queue) : (s.setQueue q x).slots = s.slots := rfl
@[simp] theorem State.setQueue_parts (s : State) (q : Nat) (x : Queue) : (s.setQueue q x).parts = s.parts := rfl
@[simp] theorem State.setQueue_queues (s : State) (q : Nat) (x : Queue) : (s.setQueue q x).queues = s.queues.set q x := rfl
@[simp] theorem State.setQueue_strands (s : State) (q : Nat) (x : Queue) : (s.setQueue q x).strands = s.strands := rfl
@[simp] theorem State.setQueue_pkg (s : State) (q : Nat) (x : Queue) : (s.setQueue q x).pkg = s.pkg := rfl
@[simp] theorem State.setQueue_now (s : State) (q : Nat) (x : Queue) : (s.setQueue q x).now = s.now := rfl
@[simp] theorem State.setQueue_cur (s : State) (q : Nat) (x : Queue) : (s.setQueue q x).cur = s.cur := rfl
@[simp] theorem State.setQueue_fresh (s : State) (q : Nat) (x : Queue) : (s.setQueue q x).fresh = s.fresh := rfl
@[simp] theorem State.setQueue_agenda (s : State) (q : Nat) (x : Queue) : (s.setQueue q x).agenda = s.agenda := rfl
@[simp] theorem State.setStrand_mem (s : State) (h : Nat) (x : Strand) : (s.setStrand h x).mem = s.mem := rfl
@[simp] theorem State.setStrand_fab (s : State) (h : Nat) (x : Strand) : (s.setStrand h x).fab = s.fab := rfl
@[simp] theorem State.setStrand_cores (s : State) (h : Nat) (x : Strand) : (s.setStrand h x).cores = s.cores := rfl
@[simp] theorem State.setStrand_dies (s : State) (h : Nat) (x : Strand) : (s.setStrand h x).dies = s.dies := rfl
@[simp] theorem State.setStrand_rings (s : State) (h : Nat) (x : Strand) : (s.setStrand h x).rings = s.rings := rfl
@[simp] theorem State.setStrand_slots (s : State) (h : Nat) (x : Strand) : (s.setStrand h x).slots = s.slots := rfl
@[simp] theorem State.setStrand_parts (s : State) (h : Nat) (x : Strand) : (s.setStrand h x).parts = s.parts := rfl
@[simp] theorem State.setStrand_queues (s : State) (h : Nat) (x : Strand) : (s.setStrand h x).queues = s.queues := rfl
@[simp] theorem State.setStrand_strands (s : State) (h : Nat) (x : Strand) : (s.setStrand h x).strands = s.strands.set h x := rfl
@[simp] theorem State.setStrand_pkg (s : State) (h : Nat) (x : Strand) : (s.setStrand h x).pkg = s.pkg := rfl
@[simp] theorem State.setStrand_now (s : State) (h : Nat) (x : Strand) : (s.setStrand h x).now = s.now := rfl
@[simp] theorem State.setStrand_cur (s : State) (h : Nat) (x : Strand) : (s.setStrand h x).cur = s.cur := rfl
@[simp] theorem State.setStrand_fresh (s : State) (h : Nat) (x : Strand) : (s.setStrand h x).fresh = s.fresh := rfl
@[simp] theorem State.setStrand_agenda (s : State) (h : Nat) (x : Strand) : (s.setStrand h x).agenda = s.agenda := rfl
@[simp] theorem State.delStrand_mem (s : State) (h : Nat) : (s.delStrand h).mem = s.mem := rfl
@[simp] theorem State.delStrand_fab (s : State) (h : Nat) : (s.delStrand h).fab = s.fab := rfl
@[simp] theorem State.delStrand_cores (s : State) (h : Nat) : (s.delStrand h).cores = s.cores := rfl
@[simp] theorem State.delStrand_dies (s : State) (h : Nat) : (s.delStrand h).dies = s.dies := rfl
@[simp] theorem State.delStrand_rings (s : State) (h : Nat) : (s.delStrand h).rings = s.rings := rfl
@[simp] theorem State.delStrand_slots (s : State) (h : Nat) : (s.delStrand h).slots = s.slots := rfl
@[simp] theorem State.delStrand_parts (s : State) (h : Nat) : (s.delStrand h).parts = s.parts := rfl
@[simp] theorem State.delStrand_queues (s : State) (h : Nat) : (s.delStrand h).queues = s.queues := rfl
@[simp] theorem State.delStrand_strands (s : State) (h : Nat) : (s.delStrand h).strands = s.strands.del h := rfl
@[simp] theorem State.delStrand_pkg (s : State) (h : Nat) : (s.delStrand h).pkg = s.pkg := rfl
@[simp] theorem State.delStrand_now (s : State) (h : Nat) : (s.delStrand h).now = s.now := rfl
@[simp] theorem State.delStrand_cur (s : State) (h : Nat) : (s.delStrand h).cur = s.cur := rfl
@[simp] theorem State.delStrand_fresh (s : State) (h : Nat) : (s.delStrand h).fresh = s.fresh := rfl
@[simp] theorem State.delStrand_agenda (s : State) (h : Nat) : (s.delStrand h).agenda = s.agenda := rfl
@[simp] theorem State.tick_mem (s : State) : (s.tick).mem = s.mem := rfl
@[simp] theorem State.tick_fab (s : State) : (s.tick).fab = s.fab := rfl
@[simp] theorem State.tick_cores (s : State) : (s.tick).cores = s.cores := rfl
@[simp] theorem State.tick_dies (s : State) : (s.tick).dies = s.dies := rfl
@[simp] theorem State.tick_rings (s : State) : (s.tick).rings = s.rings := rfl
@[simp] theorem State.tick_slots (s : State) : (s.tick).slots = s.slots := rfl
@[simp] theorem State.tick_parts (s : State) : (s.tick).parts = s.parts := rfl
@[simp] theorem State.tick_queues (s : State) : (s.tick).queues = s.queues := rfl
@[simp] theorem State.tick_strands (s : State) : (s.tick).strands = s.strands := rfl
@[simp] theorem State.tick_pkg (s : State) : (s.tick).pkg = s.pkg := rfl
@[simp] theorem State.tick_now (s : State) : (s.tick).now = s.now := rfl
@[simp] theorem State.tick_cur (s : State) : (s.tick).cur = s.cur := rfl
@[simp] theorem State.tick_fresh (s : State) : (s.tick).fresh = s.fresh + 1 := rfl
@[simp] theorem State.tick_agenda (s : State) : (s.tick).agenda = s.agenda := rfl

/-! ## Updates in place -/

@[simp] theorem State.modCtx_mem (s : State) (u i : Nat) (f : Ctx → Ctx) : (s.modCtx u i f).mem = s.mem := rfl
@[simp] theorem State.modCtx_fab (s : State) (u i : Nat) (f : Ctx → Ctx) : (s.modCtx u i f).fab = s.fab := rfl
@[simp] theorem State.modCtx_dies (s : State) (u i : Nat) (f : Ctx → Ctx) : (s.modCtx u i f).dies = s.dies := rfl
@[simp] theorem State.modCtx_rings (s : State) (u i : Nat) (f : Ctx → Ctx) : (s.modCtx u i f).rings = s.rings := rfl
@[simp] theorem State.modCtx_slots (s : State) (u i : Nat) (f : Ctx → Ctx) : (s.modCtx u i f).slots = s.slots := rfl
@[simp] theorem State.modCtx_parts (s : State) (u i : Nat) (f : Ctx → Ctx) : (s.modCtx u i f).parts = s.parts := rfl
@[simp] theorem State.modCtx_queues (s : State) (u i : Nat) (f : Ctx → Ctx) : (s.modCtx u i f).queues = s.queues := rfl
@[simp] theorem State.modCtx_strands (s : State) (u i : Nat) (f : Ctx → Ctx) : (s.modCtx u i f).strands = s.strands := rfl
@[simp] theorem State.modCtx_pkg (s : State) (u i : Nat) (f : Ctx → Ctx) : (s.modCtx u i f).pkg = s.pkg := rfl
@[simp] theorem State.modCtx_now (s : State) (u i : Nat) (f : Ctx → Ctx) : (s.modCtx u i f).now = s.now := rfl
@[simp] theorem State.modCtx_cur (s : State) (u i : Nat) (f : Ctx → Ctx) : (s.modCtx u i f).cur = s.cur := rfl
@[simp] theorem State.modCtx_fresh (s : State) (u i : Nat) (f : Ctx → Ctx) : (s.modCtx u i f).fresh = s.fresh := rfl
@[simp] theorem State.modCtx_agenda (s : State) (u i : Nat) (f : Ctx → Ctx) : (s.modCtx u i f).agenda = s.agenda := rfl
@[simp] theorem State.modCore_mem (s : State) (u : Nat) (f : Core → Core) : (s.modCore u f).mem = s.mem := rfl
@[simp] theorem State.modCore_fab (s : State) (u : Nat) (f : Core → Core) : (s.modCore u f).fab = s.fab := rfl
@[simp] theorem State.modCore_dies (s : State) (u : Nat) (f : Core → Core) : (s.modCore u f).dies = s.dies := rfl
@[simp] theorem State.modCore_rings (s : State) (u : Nat) (f : Core → Core) : (s.modCore u f).rings = s.rings := rfl
@[simp] theorem State.modCore_slots (s : State) (u : Nat) (f : Core → Core) : (s.modCore u f).slots = s.slots := rfl
@[simp] theorem State.modCore_parts (s : State) (u : Nat) (f : Core → Core) : (s.modCore u f).parts = s.parts := rfl
@[simp] theorem State.modCore_queues (s : State) (u : Nat) (f : Core → Core) : (s.modCore u f).queues = s.queues := rfl
@[simp] theorem State.modCore_strands (s : State) (u : Nat) (f : Core → Core) : (s.modCore u f).strands = s.strands := rfl
@[simp] theorem State.modCore_pkg (s : State) (u : Nat) (f : Core → Core) : (s.modCore u f).pkg = s.pkg := rfl
@[simp] theorem State.modCore_now (s : State) (u : Nat) (f : Core → Core) : (s.modCore u f).now = s.now := rfl
@[simp] theorem State.modCore_cur (s : State) (u : Nat) (f : Core → Core) : (s.modCore u f).cur = s.cur := rfl
@[simp] theorem State.modCore_fresh (s : State) (u : Nat) (f : Core → Core) : (s.modCore u f).fresh = s.fresh := rfl
@[simp] theorem State.modCore_agenda (s : State) (u : Nat) (f : Core → Core) : (s.modCore u f).agenda = s.agenda := rfl
@[simp] theorem State.modFab_mem (s : State) (f : Fabric → Fabric) : (s.modFab f).mem = s.mem := rfl
@[simp] theorem State.modFab_cores (s : State) (f : Fabric → Fabric) : (s.modFab f).cores = s.cores := rfl
@[simp] theorem State.modFab_dies (s : State) (f : Fabric → Fabric) : (s.modFab f).dies = s.dies := rfl
@[simp] theorem State.modFab_rings (s : State) (f : Fabric → Fabric) : (s.modFab f).rings = s.rings := rfl
@[simp] theorem State.modFab_slots (s : State) (f : Fabric → Fabric) : (s.modFab f).slots = s.slots := rfl
@[simp] theorem State.modFab_parts (s : State) (f : Fabric → Fabric) : (s.modFab f).parts = s.parts := rfl
@[simp] theorem State.modFab_queues (s : State) (f : Fabric → Fabric) : (s.modFab f).queues = s.queues := rfl
@[simp] theorem State.modFab_strands (s : State) (f : Fabric → Fabric) : (s.modFab f).strands = s.strands := rfl
@[simp] theorem State.modFab_pkg (s : State) (f : Fabric → Fabric) : (s.modFab f).pkg = s.pkg := rfl
@[simp] theorem State.modFab_now (s : State) (f : Fabric → Fabric) : (s.modFab f).now = s.now := rfl
@[simp] theorem State.modFab_cur (s : State) (f : Fabric → Fabric) : (s.modFab f).cur = s.cur := rfl
@[simp] theorem State.modFab_fresh (s : State) (f : Fabric → Fabric) : (s.modFab f).fresh = s.fresh := rfl
@[simp] theorem State.modFab_agenda (s : State) (f : Fabric → Fabric) : (s.modFab f).agenda = s.agenda := rfl
@[simp] theorem State.modPart_mem (s : State) (p : Nat) (f : Part → Part) : (s.modPart p f).mem = s.mem := rfl
@[simp] theorem State.modPart_fab (s : State) (p : Nat) (f : Part → Part) : (s.modPart p f).fab = s.fab := rfl
@[simp] theorem State.modPart_cores (s : State) (p : Nat) (f : Part → Part) : (s.modPart p f).cores = s.cores := rfl
@[simp] theorem State.modPart_dies (s : State) (p : Nat) (f : Part → Part) : (s.modPart p f).dies = s.dies := rfl
@[simp] theorem State.modPart_rings (s : State) (p : Nat) (f : Part → Part) : (s.modPart p f).rings = s.rings := rfl
@[simp] theorem State.modPart_slots (s : State) (p : Nat) (f : Part → Part) : (s.modPart p f).slots = s.slots := rfl
@[simp] theorem State.modPart_queues (s : State) (p : Nat) (f : Part → Part) : (s.modPart p f).queues = s.queues := rfl
@[simp] theorem State.modPart_strands (s : State) (p : Nat) (f : Part → Part) : (s.modPart p f).strands = s.strands := rfl
@[simp] theorem State.modPart_pkg (s : State) (p : Nat) (f : Part → Part) : (s.modPart p f).pkg = s.pkg := rfl
@[simp] theorem State.modPart_now (s : State) (p : Nat) (f : Part → Part) : (s.modPart p f).now = s.now := rfl
@[simp] theorem State.modPart_cur (s : State) (p : Nat) (f : Part → Part) : (s.modPart p f).cur = s.cur := rfl
@[simp] theorem State.modPart_fresh (s : State) (p : Nat) (f : Part → Part) : (s.modPart p f).fresh = s.fresh := rfl
@[simp] theorem State.modPart_agenda (s : State) (p : Nat) (f : Part → Part) : (s.modPart p f).agenda = s.agenda := rfl
@[simp] theorem State.modDie_mem (s : State) (d : Nat) (f : Die → Die) : (s.modDie d f).mem = s.mem := rfl
@[simp] theorem State.modDie_fab (s : State) (d : Nat) (f : Die → Die) : (s.modDie d f).fab = s.fab := rfl
@[simp] theorem State.modDie_cores (s : State) (d : Nat) (f : Die → Die) : (s.modDie d f).cores = s.cores := rfl
@[simp] theorem State.modDie_rings (s : State) (d : Nat) (f : Die → Die) : (s.modDie d f).rings = s.rings := rfl
@[simp] theorem State.modDie_slots (s : State) (d : Nat) (f : Die → Die) : (s.modDie d f).slots = s.slots := rfl
@[simp] theorem State.modDie_parts (s : State) (d : Nat) (f : Die → Die) : (s.modDie d f).parts = s.parts := rfl
@[simp] theorem State.modDie_queues (s : State) (d : Nat) (f : Die → Die) : (s.modDie d f).queues = s.queues := rfl
@[simp] theorem State.modDie_strands (s : State) (d : Nat) (f : Die → Die) : (s.modDie d f).strands = s.strands := rfl
@[simp] theorem State.modDie_pkg (s : State) (d : Nat) (f : Die → Die) : (s.modDie d f).pkg = s.pkg := rfl
@[simp] theorem State.modDie_now (s : State) (d : Nat) (f : Die → Die) : (s.modDie d f).now = s.now := rfl
@[simp] theorem State.modDie_cur (s : State) (d : Nat) (f : Die → Die) : (s.modDie d f).cur = s.cur := rfl
@[simp] theorem State.modDie_fresh (s : State) (d : Nat) (f : Die → Die) : (s.modDie d f).fresh = s.fresh := rfl
@[simp] theorem State.modDie_agenda (s : State) (d : Nat) (f : Die → Die) : (s.modDie d f).agenda = s.agenda := rfl
@[simp] theorem State.modRing_mem (s : State) (r : Nat) (f : Ring → Ring) : (s.modRing r f).mem = s.mem := rfl
@[simp] theorem State.modRing_fab (s : State) (r : Nat) (f : Ring → Ring) : (s.modRing r f).fab = s.fab := rfl
@[simp] theorem State.modRing_cores (s : State) (r : Nat) (f : Ring → Ring) : (s.modRing r f).cores = s.cores := rfl
@[simp] theorem State.modRing_dies (s : State) (r : Nat) (f : Ring → Ring) : (s.modRing r f).dies = s.dies := rfl
@[simp] theorem State.modRing_slots (s : State) (r : Nat) (f : Ring → Ring) : (s.modRing r f).slots = s.slots := rfl
@[simp] theorem State.modRing_parts (s : State) (r : Nat) (f : Ring → Ring) : (s.modRing r f).parts = s.parts := rfl
@[simp] theorem State.modRing_queues (s : State) (r : Nat) (f : Ring → Ring) : (s.modRing r f).queues = s.queues := rfl
@[simp] theorem State.modRing_strands (s : State) (r : Nat) (f : Ring → Ring) : (s.modRing r f).strands = s.strands := rfl
@[simp] theorem State.modRing_pkg (s : State) (r : Nat) (f : Ring → Ring) : (s.modRing r f).pkg = s.pkg := rfl
@[simp] theorem State.modRing_now (s : State) (r : Nat) (f : Ring → Ring) : (s.modRing r f).now = s.now := rfl
@[simp] theorem State.modRing_cur (s : State) (r : Nat) (f : Ring → Ring) : (s.modRing r f).cur = s.cur := rfl
@[simp] theorem State.modRing_fresh (s : State) (r : Nat) (f : Ring → Ring) : (s.modRing r f).fresh = s.fresh := rfl
@[simp] theorem State.modRing_agenda (s : State) (r : Nat) (f : Ring → Ring) : (s.modRing r f).agenda = s.agenda := rfl
@[simp] theorem State.modQueue_mem (s : State) (q : Nat) (f : Queue → Queue) : (s.modQueue q f).mem = s.mem := rfl
@[simp] theorem State.modQueue_fab (s : State) (q : Nat) (f : Queue → Queue) : (s.modQueue q f).fab = s.fab := rfl
@[simp] theorem State.modQueue_cores (s : State) (q : Nat) (f : Queue → Queue) : (s.modQueue q f).cores = s.cores := rfl
@[simp] theorem State.modQueue_dies (s : State) (q : Nat) (f : Queue → Queue) : (s.modQueue q f).dies = s.dies := rfl
@[simp] theorem State.modQueue_rings (s : State) (q : Nat) (f : Queue → Queue) : (s.modQueue q f).rings = s.rings := rfl
@[simp] theorem State.modQueue_slots (s : State) (q : Nat) (f : Queue → Queue) : (s.modQueue q f).slots = s.slots := rfl
@[simp] theorem State.modQueue_parts (s : State) (q : Nat) (f : Queue → Queue) : (s.modQueue q f).parts = s.parts := rfl
@[simp] theorem State.modQueue_strands (s : State) (q : Nat) (f : Queue → Queue) : (s.modQueue q f).strands = s.strands := rfl
@[simp] theorem State.modQueue_pkg (s : State) (q : Nat) (f : Queue → Queue) : (s.modQueue q f).pkg = s.pkg := rfl
@[simp] theorem State.modQueue_now (s : State) (q : Nat) (f : Queue → Queue) : (s.modQueue q f).now = s.now := rfl
@[simp] theorem State.modQueue_cur (s : State) (q : Nat) (f : Queue → Queue) : (s.modQueue q f).cur = s.cur := rfl
@[simp] theorem State.modQueue_fresh (s : State) (q : Nat) (f : Queue → Queue) : (s.modQueue q f).fresh = s.fresh := rfl
@[simp] theorem State.modQueue_agenda (s : State) (q : Nat) (f : Queue → Queue) : (s.modQueue q f).agenda = s.agenda := rfl
@[simp] theorem State.modPslot_mem (s : State) (k : Nat) (f : PSlot → PSlot) : (s.modPslot k f).mem = s.mem := rfl
@[simp] theorem State.modPslot_fab (s : State) (k : Nat) (f : PSlot → PSlot) : (s.modPslot k f).fab = s.fab := rfl
@[simp] theorem State.modPslot_cores (s : State) (k : Nat) (f : PSlot → PSlot) : (s.modPslot k f).cores = s.cores := rfl
@[simp] theorem State.modPslot_dies (s : State) (k : Nat) (f : PSlot → PSlot) : (s.modPslot k f).dies = s.dies := rfl
@[simp] theorem State.modPslot_rings (s : State) (k : Nat) (f : PSlot → PSlot) : (s.modPslot k f).rings = s.rings := rfl
@[simp] theorem State.modPslot_parts (s : State) (k : Nat) (f : PSlot → PSlot) : (s.modPslot k f).parts = s.parts := rfl
@[simp] theorem State.modPslot_queues (s : State) (k : Nat) (f : PSlot → PSlot) : (s.modPslot k f).queues = s.queues := rfl
@[simp] theorem State.modPslot_strands (s : State) (k : Nat) (f : PSlot → PSlot) : (s.modPslot k f).strands = s.strands := rfl
@[simp] theorem State.modPslot_pkg (s : State) (k : Nat) (f : PSlot → PSlot) : (s.modPslot k f).pkg = s.pkg := rfl
@[simp] theorem State.modPslot_now (s : State) (k : Nat) (f : PSlot → PSlot) : (s.modPslot k f).now = s.now := rfl
@[simp] theorem State.modPslot_cur (s : State) (k : Nat) (f : PSlot → PSlot) : (s.modPslot k f).cur = s.cur := rfl
@[simp] theorem State.modPslot_fresh (s : State) (k : Nat) (f : PSlot → PSlot) : (s.modPslot k f).fresh = s.fresh := rfl
@[simp] theorem State.modPslot_agenda (s : State) (k : Nat) (f : PSlot → PSlot) : (s.modPslot k f).agenda = s.agenda := rfl
@[simp] theorem State.modPkg_mem (s : State) (f : Pkg → Pkg) : (s.modPkg f).mem = s.mem := rfl
@[simp] theorem State.modPkg_fab (s : State) (f : Pkg → Pkg) : (s.modPkg f).fab = s.fab := rfl
@[simp] theorem State.modPkg_cores (s : State) (f : Pkg → Pkg) : (s.modPkg f).cores = s.cores := rfl
@[simp] theorem State.modPkg_dies (s : State) (f : Pkg → Pkg) : (s.modPkg f).dies = s.dies := rfl
@[simp] theorem State.modPkg_rings (s : State) (f : Pkg → Pkg) : (s.modPkg f).rings = s.rings := rfl
@[simp] theorem State.modPkg_slots (s : State) (f : Pkg → Pkg) : (s.modPkg f).slots = s.slots := rfl
@[simp] theorem State.modPkg_parts (s : State) (f : Pkg → Pkg) : (s.modPkg f).parts = s.parts := rfl
@[simp] theorem State.modPkg_queues (s : State) (f : Pkg → Pkg) : (s.modPkg f).queues = s.queues := rfl
@[simp] theorem State.modPkg_strands (s : State) (f : Pkg → Pkg) : (s.modPkg f).strands = s.strands := rfl
@[simp] theorem State.modPkg_now (s : State) (f : Pkg → Pkg) : (s.modPkg f).now = s.now := rfl
@[simp] theorem State.modPkg_cur (s : State) (f : Pkg → Pkg) : (s.modPkg f).cur = s.cur := rfl
@[simp] theorem State.modPkg_fresh (s : State) (f : Pkg → Pkg) : (s.modPkg f).fresh = s.fresh := rfl
@[simp] theorem State.modPkg_agenda (s : State) (f : Pkg → Pkg) : (s.modPkg f).agenda = s.agenda := rfl
@[simp] theorem State.setCtx_mem (s : State) (u i : Nat) (x : Ctx) : (s.setCtx u i x).mem = s.mem := rfl
@[simp] theorem State.setCtx_fab (s : State) (u i : Nat) (x : Ctx) : (s.setCtx u i x).fab = s.fab := rfl
@[simp] theorem State.setCtx_dies (s : State) (u i : Nat) (x : Ctx) : (s.setCtx u i x).dies = s.dies := rfl
@[simp] theorem State.setCtx_rings (s : State) (u i : Nat) (x : Ctx) : (s.setCtx u i x).rings = s.rings := rfl
@[simp] theorem State.setCtx_slots (s : State) (u i : Nat) (x : Ctx) : (s.setCtx u i x).slots = s.slots := rfl
@[simp] theorem State.setCtx_parts (s : State) (u i : Nat) (x : Ctx) : (s.setCtx u i x).parts = s.parts := rfl
@[simp] theorem State.setCtx_queues (s : State) (u i : Nat) (x : Ctx) : (s.setCtx u i x).queues = s.queues := rfl
@[simp] theorem State.setCtx_strands (s : State) (u i : Nat) (x : Ctx) : (s.setCtx u i x).strands = s.strands := rfl
@[simp] theorem State.setCtx_pkg (s : State) (u i : Nat) (x : Ctx) : (s.setCtx u i x).pkg = s.pkg := rfl
@[simp] theorem State.setCtx_now (s : State) (u i : Nat) (x : Ctx) : (s.setCtx u i x).now = s.now := rfl
@[simp] theorem State.setCtx_cur (s : State) (u i : Nat) (x : Ctx) : (s.setCtx u i x).cur = s.cur := rfl
@[simp] theorem State.setCtx_fresh (s : State) (u i : Nat) (x : Ctx) : (s.setCtx u i x).fresh = s.fresh := rfl
@[simp] theorem State.setCtx_agenda (s : State) (u i : Nat) (x : Ctx) : (s.setCtx u i x).agenda = s.agenda := rfl
@[simp] theorem State.modMe_mem (s : State) (f : Ctx → Ctx) : (s.modMe f).mem = s.mem := rfl
@[simp] theorem State.modMe_fab (s : State) (f : Ctx → Ctx) : (s.modMe f).fab = s.fab := rfl
@[simp] theorem State.modMe_dies (s : State) (f : Ctx → Ctx) : (s.modMe f).dies = s.dies := rfl
@[simp] theorem State.modMe_rings (s : State) (f : Ctx → Ctx) : (s.modMe f).rings = s.rings := rfl
@[simp] theorem State.modMe_slots (s : State) (f : Ctx → Ctx) : (s.modMe f).slots = s.slots := rfl
@[simp] theorem State.modMe_parts (s : State) (f : Ctx → Ctx) : (s.modMe f).parts = s.parts := rfl
@[simp] theorem State.modMe_queues (s : State) (f : Ctx → Ctx) : (s.modMe f).queues = s.queues := rfl
@[simp] theorem State.modMe_strands (s : State) (f : Ctx → Ctx) : (s.modMe f).strands = s.strands := rfl
@[simp] theorem State.modMe_pkg (s : State) (f : Ctx → Ctx) : (s.modMe f).pkg = s.pkg := rfl
@[simp] theorem State.modMe_now (s : State) (f : Ctx → Ctx) : (s.modMe f).now = s.now := rfl
@[simp] theorem State.modMe_cur (s : State) (f : Ctx → Ctx) : (s.modMe f).cur = s.cur := rfl
@[simp] theorem State.modMe_fresh (s : State) (f : Ctx → Ctx) : (s.modMe f).fresh = s.fresh := rfl
@[simp] theorem State.modMe_agenda (s : State) (f : Ctx → Ctx) : (s.modMe f).agenda = s.agenda := rfl
@[simp] theorem State.modHere_mem (s : State) (f : Core → Core) : (s.modHere f).mem = s.mem := rfl
@[simp] theorem State.modHere_fab (s : State) (f : Core → Core) : (s.modHere f).fab = s.fab := rfl
@[simp] theorem State.modHere_dies (s : State) (f : Core → Core) : (s.modHere f).dies = s.dies := rfl
@[simp] theorem State.modHere_rings (s : State) (f : Core → Core) : (s.modHere f).rings = s.rings := rfl
@[simp] theorem State.modHere_slots (s : State) (f : Core → Core) : (s.modHere f).slots = s.slots := rfl
@[simp] theorem State.modHere_parts (s : State) (f : Core → Core) : (s.modHere f).parts = s.parts := rfl
@[simp] theorem State.modHere_queues (s : State) (f : Core → Core) : (s.modHere f).queues = s.queues := rfl
@[simp] theorem State.modHere_strands (s : State) (f : Core → Core) : (s.modHere f).strands = s.strands := rfl
@[simp] theorem State.modHere_pkg (s : State) (f : Core → Core) : (s.modHere f).pkg = s.pkg := rfl
@[simp] theorem State.modHere_now (s : State) (f : Core → Core) : (s.modHere f).now = s.now := rfl
@[simp] theorem State.modHere_cur (s : State) (f : Core → Core) : (s.modHere f).cur = s.cur := rfl
@[simp] theorem State.modHere_fresh (s : State) (f : Core → Core) : (s.modHere f).fresh = s.fresh := rfl
@[simp] theorem State.modHere_agenda (s : State) (f : Core → Core) : (s.modHere f).agenda = s.agenda := rfl
@[simp] theorem State.setVc_mem (s : State) (v : VCtx) : (s.setVc v).mem = s.mem := rfl
@[simp] theorem State.setVc_fab (s : State) (v : VCtx) : (s.setVc v).fab = s.fab := rfl
@[simp] theorem State.setVc_dies (s : State) (v : VCtx) : (s.setVc v).dies = s.dies := rfl
@[simp] theorem State.setVc_rings (s : State) (v : VCtx) : (s.setVc v).rings = s.rings := rfl
@[simp] theorem State.setVc_slots (s : State) (v : VCtx) : (s.setVc v).slots = s.slots := rfl
@[simp] theorem State.setVc_parts (s : State) (v : VCtx) : (s.setVc v).parts = s.parts := rfl
@[simp] theorem State.setVc_queues (s : State) (v : VCtx) : (s.setVc v).queues = s.queues := rfl
@[simp] theorem State.setVc_strands (s : State) (v : VCtx) : (s.setVc v).strands = s.strands := rfl
@[simp] theorem State.setVc_pkg (s : State) (v : VCtx) : (s.setVc v).pkg = s.pkg := rfl
@[simp] theorem State.setVc_now (s : State) (v : VCtx) : (s.setVc v).now = s.now := rfl
@[simp] theorem State.setVc_cur (s : State) (v : VCtx) : (s.setVc v).cur = s.cur := rfl
@[simp] theorem State.setVc_fresh (s : State) (v : VCtx) : (s.setVc v).fresh = s.fresh := rfl
@[simp] theorem State.setVc_agenda (s : State) (v : VCtx) : (s.setVc v).agenda = s.agenda := rfl
@[simp] theorem State.modFab_fab (s : State) (f : Fabric → Fabric) : (s.modFab f).fab = f s.fab := rfl
@[simp] theorem State.modPkg_pkg (s : State) (f : Pkg → Pkg) : (s.modPkg f).pkg = f s.pkg := rfl
@[simp] theorem State.modStrand_mem (s : State) (h : Nat) (f : Strand → Strand) : (s.modStrand h f).mem = s.mem := by
  unfold State.modStrand; split <;> rfl
@[simp] theorem State.modStrand_fab (s : State) (h : Nat) (f : Strand → Strand) : (s.modStrand h f).fab = s.fab := by
  unfold State.modStrand; split <;> rfl
@[simp] theorem State.modStrand_cores (s : State) (h : Nat) (f : Strand → Strand) : (s.modStrand h f).cores = s.cores := by
  unfold State.modStrand; split <;> rfl
@[simp] theorem State.modStrand_dies (s : State) (h : Nat) (f : Strand → Strand) : (s.modStrand h f).dies = s.dies := by
  unfold State.modStrand; split <;> rfl
@[simp] theorem State.modStrand_rings (s : State) (h : Nat) (f : Strand → Strand) : (s.modStrand h f).rings = s.rings := by
  unfold State.modStrand; split <;> rfl
@[simp] theorem State.modStrand_slots (s : State) (h : Nat) (f : Strand → Strand) : (s.modStrand h f).slots = s.slots := by
  unfold State.modStrand; split <;> rfl
@[simp] theorem State.modStrand_parts (s : State) (h : Nat) (f : Strand → Strand) : (s.modStrand h f).parts = s.parts := by
  unfold State.modStrand; split <;> rfl
@[simp] theorem State.modStrand_queues (s : State) (h : Nat) (f : Strand → Strand) : (s.modStrand h f).queues = s.queues := by
  unfold State.modStrand; split <;> rfl
@[simp] theorem State.modStrand_pkg (s : State) (h : Nat) (f : Strand → Strand) : (s.modStrand h f).pkg = s.pkg := by
  unfold State.modStrand; split <;> rfl
@[simp] theorem State.modStrand_now (s : State) (h : Nat) (f : Strand → Strand) : (s.modStrand h f).now = s.now := by
  unfold State.modStrand; split <;> rfl
@[simp] theorem State.modStrand_cur (s : State) (h : Nat) (f : Strand → Strand) : (s.modStrand h f).cur = s.cur := by
  unfold State.modStrand; split <;> rfl
@[simp] theorem State.modStrand_fresh (s : State) (h : Nat) (f : Strand → Strand) : (s.modStrand h f).fresh = s.fresh := by
  unfold State.modStrand; split <;> rfl
@[simp] theorem State.modStrand_agenda (s : State) (h : Nat) (f : Strand → Strand) : (s.modStrand h f).agenda = s.agenda := by
  unfold State.modStrand; split <;> rfl

/-! ## Accessors after an update -/

theorem State.core_setCore (s : State) (u v : Nat) (c : Core) : (s.setCore u c).core v = if v = u then c else s.core v :=
  FMap.get_set _ _ _ _ _
theorem State.die_setDie (s : State) (u v : Nat) (c : Die) : (s.setDie u c).die v = if v = u then c else s.die v :=
  FMap.get_set _ _ _ _ _
theorem State.ring_setRing (s : State) (u v : Nat) (c : Ring) : (s.setRing u c).ring v = if v = u then c else s.ring v :=
  FMap.get_set _ _ _ _ _
theorem State.pslot_setPslot (s : State) (u v : Nat) (c : PSlot) : (s.setPslot u c).pslot v = if v = u then c else s.pslot v :=
  FMap.get_set _ _ _ _ _
theorem State.part_setPart (s : State) (u v : Nat) (c : Part) : (s.setPart u c).part v = if v = u then c else s.part v :=
  FMap.get_set _ _ _ _ _
theorem State.queue_setQueue (s : State) (u v : Nat) (c : Queue) : (s.setQueue u c).queue v = if v = u then c else s.queue v :=
  FMap.get_set _ _ _ _ _
theorem State.core_modCore (s : State) (u v : Nat) (f : Core → Core) : (s.modCore u f).core v = if v = u then f (s.core u) else s.core v :=
  FMap.get_set _ _ _ _ _
theorem State.die_modDie (s : State) (u v : Nat) (f : Die → Die) : (s.modDie u f).die v = if v = u then f (s.die u) else s.die v :=
  FMap.get_set _ _ _ _ _
theorem State.ring_modRing (s : State) (u v : Nat) (f : Ring → Ring) : (s.modRing u f).ring v = if v = u then f (s.ring u) else s.ring v :=
  FMap.get_set _ _ _ _ _
theorem State.pslot_modPslot (s : State) (u v : Nat) (f : PSlot → PSlot) : (s.modPslot u f).pslot v = if v = u then f (s.pslot u) else s.pslot v :=
  FMap.get_set _ _ _ _ _
theorem State.part_modPart (s : State) (u v : Nat) (f : Part → Part) : (s.modPart u f).part v = if v = u then f (s.part u) else s.part v :=
  FMap.get_set _ _ _ _ _
theorem State.queue_modQueue (s : State) (u v : Nat) (f : Queue → Queue) : (s.modQueue u f).queue v = if v = u then f (s.queue u) else s.queue v :=
  FMap.get_set _ _ _ _ _
theorem State.strand?_setStrand (s : State) (h k : Nat) (x : Strand) :
    (s.setStrand h x).strand? k = if k = h then some x else s.strand? k := FMap.find?_set _ _ _ _

theorem Core.ctx_setCtx (c : Core) (i j : Nat) (x : Ctx) :
    (c.setCtx i x).ctx j = if j = i ∧ i < 8 then x else c.ctx j := vget_vset _ _ _ _ _

theorem State.core_modCtx (s : State) (u v i : Nat) (f : Ctx → Ctx) :
    (s.modCtx u i f).core v = if v = u then (s.core u).setCtx i (f (s.ctx u i)) else s.core v :=
  State.core_setCore _ _ _ _

theorem State.ctx_modCtx (s : State) (u v i j : Nat) (f : Ctx → Ctx) :
    (s.modCtx u i f).ctx v j = if v = u ∧ j = i ∧ i < 8 then f (s.ctx u i) else s.ctx v j := by
  unfold State.ctx; rw [State.core_modCtx]
  by_cases h : v = u
  · subst h; simp only [if_true, Core.ctx_setCtx, true_and]; rfl
  · simp [h]

theorem State.ctx_modCore (s : State) (u v i : Nat) (f : Core → Core) :
    (s.modCore u f).ctx v i = if v = u then (f (s.core u)).ctx i else s.ctx v i := by
  unfold State.ctx; rw [State.core_modCore]; split <;> rfl

/-- An accessor of a part reads that part alone. -/
theorem State.core_congr {s t : State} (h : t.cores = s.cores) (u : Nat) : t.core u = s.core u := by
  unfold State.core; rw [h]
theorem State.ctx_congr {s t : State} (h : t.cores = s.cores) (u i : Nat) : t.ctx u i = s.ctx u i := by
  unfold State.ctx; rw [State.core_congr h]
theorem State.part_congr {s t : State} (h : t.parts = s.parts) (p : Nat) : t.part p = s.part p := by
  unfold State.part; rw [h]
theorem State.queue_congr {s t : State} (h : t.queues = s.queues) (q : Nat) : t.queue q = s.queue q := by
  unfold State.queue; rw [h]
theorem State.ring_congr {s t : State} (h : t.rings = s.rings) (r : Nat) : t.ring r = s.ring r := by
  unfold State.ring; rw [h]
theorem State.die_congr {s t : State} (h : t.dies = s.dies) (d : Nat) : t.die d = s.die d := by
  unfold State.die; rw [h]

/-! ## Registers of a context (R68) -/

theorem Ctx.reg_setReg (c : Ctx) (r k : Nat) (v : Word) (hr : r < 32) :
    (c.setReg r v).reg k = if k = r ∧ r ≠ 0 then v else c.reg k := by
  unfold Ctx.setReg Ctx.reg
  by_cases h0 : r = 0
  · simp [h0]
  · simp only [h0, if_false, vget_vset]
    by_cases hk : k = r <;> simp_all

end Sys2Proof.Machine
end

