-- ==== Sys2Proof/Laws/Control.lean ====
section
/-!
SUPPORT. What the shared operations of control instructions do: noting reads, writing a register, retiring,
the common end of R164. Each changes the issuing context and leaves the rest as `OthersKept` says.
-/
namespace Sys2Proof.Machine

/-! ## The relation composes -/

theorem CoreKept.refl (x : Core) : CoreKept x x := ⟨rfl, rfl⟩

theorem CoreKept.trans {x y z : Core} (h : CoreKept x y) (k : CoreKept y z) : CoreKept x z := by
  refine ⟨?_, k.2.trans h.2⟩
  have e : { z with ctxs := x.ctxs, leg := x.leg } = { ({ z with ctxs := y.ctxs, leg := y.leg } : Core) with ctxs := x.ctxs, leg := x.leg } := rfl
  rw [e, k.1, h.1]

theorem OthersKept.refl (s : State) : OthersKept s s :=
  ⟨rfl, rfl, rfl, rfl, rfl, rfl, rfl, rfl, rfl, rfl, fun _ => rfl, fun _ _ => rfl, fun _ _ => rfl, .refl _⟩

theorem OthersKept.trans {s t r : State} (h : OthersKept s t) (k : OthersKept t r) : OthersKept s r where
  mem := k.mem.trans h.mem
  fab := k.fab.trans h.fab
  dies := k.dies.trans h.dies
  rings := k.rings.trans h.rings
  slots := k.slots.trans h.slots
  parts := k.parts.trans h.parts
  strands := k.strands.trans h.strands
  pkg := k.pkg.trans h.pkg
  now := k.now.trans h.now
  cur := k.cur.trans h.cur
  queues q := (k.queues q).trans (h.queues q)
  cores u hu := (k.cores u (h.cur ▸ hu)).trans (h.cores u hu)
  ctxs c hc := by
    have := k.ctxs c (h.cur ▸ hc)
    rw [h.cur] at this
    exact this.trans (h.ctxs c hc)
  here := by
    have := k.here
    unfold State.here at this ⊢
    rw [k.cur] at this ⊢
    rw [h.cur] at this ⊢
    have h' := h.here
    unfold State.here at h'
    rw [h.cur] at h'
    exact h'.trans this

/-! ## Writing in place -/

theorem State.me_modMe (s : State) (f : Ctx → Ctx) (h : s.cur.ctx < 8) : (s.modMe f).me = f s.me := by
  unfold State.me State.modMe
  rw [State.ctx_modCtx]; simp [h]

theorem State.here_modMe (s : State) (f : Ctx → Ctx) : (s.modMe f).here = s.here.setCtx s.cur.ctx (f s.me) := by
  unfold State.here State.modMe; rw [State.core_modCtx]; simp [State.me]

theorem OthersKept.modMe (s : State) (f : Ctx → Ctx) : OthersKept s (s.modMe f) where
  mem := rfl
  fab := rfl
  dies := rfl
  rings := rfl
  slots := rfl
  parts := rfl
  strands := rfl
  pkg := rfl
  now := rfl
  cur := rfl
  queues _ := rfl
  cores u hu := by unfold State.modMe; rw [State.core_modCtx]; simp [hu]
  ctxs c hc := by unfold State.modMe; rw [State.ctx_modCtx]; simp [hc]
  here := by rw [State.here_modMe]; exact ⟨rfl, rfl⟩

/-- A change of the leg's marks alone. -/
theorem OthersKept.marks (s : State) (g : Option Leg) (h : g.map Leg.unmarked = s.here.leg.map Leg.unmarked) :
    OthersKept s (s.modHere fun c => { c with leg := g }) where
  mem := rfl
  fab := rfl
  dies := rfl
  rings := rfl
  slots := rfl
  parts := rfl
  strands := rfl
  pkg := rfl
  now := rfl
  cur := rfl
  queues _ := rfl
  cores u hu := by unfold State.modHere; rw [State.core_modCore]; simp [hu]
  ctxs c hc := by
    unfold State.modHere; rw [State.ctx_modCore]; simp; rfl
  here := by
    have e : (s.modHere fun c => { c with leg := g }).here = { s.here with leg := g } := by
      unfold State.here State.modHere; rw [State.core_modCore]; simp
    rw [e]; exact ⟨rfl, h⟩

theorem State.me_marks (s : State) (g : Option Leg) : (s.modHere fun c => { c with leg := g }).me = s.me := by
  unfold State.me State.modHere; rw [State.ctx_modCore]; simp; rfl

/-! ## Noting reads (R44) -/

theorem foldl_unmarked (l : List Reg) (g : Leg) :
    let h := l.foldl (fun (l : Leg) r => if l.written.getLsbD r.toNat then l else { l with read := putBit l.read r.toNat true }) g
    h = { g with read := h.read } := by
  induction l generalizing g with
  | nil => rfl
  | cons r l ih =>
    simp only [List.foldl_cons]
    split
    · exact ih g
    · have := ih { g with read := putBit g.read r.toNat true }
      simp only at this ⊢
      rw [this]

/-- Noting which registers are read changes at most the READ bits of the issuing core's leg. -/
theorem markSrcs_eq (s : State) (l : List Reg) :
    markSrcs s l = s ∨ ∃ g r, s.here.leg = some g ∧
      markSrcs s l = s.modHere fun c => { c with leg := some { g with read := r } } := by
  unfold markSrcs
  split
  · split
    · exact .inl rfl
    · next g hg =>
      have h := foldl_unmarked l g
      simp only at h ⊢
      split
      · exact .inl rfl
      · exact .inr ⟨g, _, hg, by rw [← h]⟩
  · exact .inl rfl

theorem markSrcs_kept (s : State) (l : List Reg) : OthersKept s (markSrcs s l) := by
  obtain h | ⟨g, r, hg, h⟩ := markSrcs_eq s l
  · rw [h]; exact .refl s
  · rw [h]; exact .marks s _ (by rw [hg]; rfl)

@[simp] theorem markSrcs_me (s : State) (l : List Reg) : (markSrcs s l).me = s.me := by
  obtain h | ⟨g, r, hg, h⟩ := markSrcs_eq s l
  · rw [h]
  · rw [h, State.me_marks]

@[simp] theorem markSrcs_X (s : State) (l : List Reg) (r : Reg) : X (markSrcs s l) r = X s r := by
  unfold X; rw [markSrcs_me]

/-! ## Writing a register (R44, R68) -/

theorem setX_kept (s : State) (rd : Reg) (v : Word) : OthersKept s (setX s rd v) := by
  have h := OthersKept.modMe s fun c => c.setReg rd.toNat v
  unfold setX
  simp only
  split
  · split
    · exact h
    · next g hg =>
      refine h.trans ?_
      have e := OthersKept.marks (s.modMe fun c => c.setReg rd.toNat v)
        (some { g with written := putBit g.written rd.toNat true, pending := putBit g.pending rd.toNat false }) (by rw [hg]; rfl)
      exact e
  · exact h

theorem setX_me (s : State) (rd : Reg) (v : Word) (hc : s.cur.ctx < 8) : (setX s rd v).me = s.me.setReg rd.toNat v := by
  unfold setX
  simp only
  split
  · split
    · exact State.me_modMe s _ hc
    · next g hg =>
      have e := State.me_marks (s.modMe fun c => c.setReg rd.toNat v)
        (some { g with written := putBit g.written rd.toNat true, pending := putBit g.pending rd.toNat false })
      exact e.trans (State.me_modMe s _ hc)
  · exact State.me_modMe s _ hc

/-! ## Retiring (R298, R299) -/

theorem QueuesKept.base (s : State) (q : Nat) (t : Nat) : QueuesKept s (s.modQueue q fun x => { x with wdBase := t }) := by
  intro k
  rw [State.queue_modQueue]
  by_cases h : k = q
  · subst h; simp
  · simp [h]

theorem OthersKept.watchdog (s : State) (q t : Nat) : OthersKept s (s.modQueue q fun x => { x with wdBase := t }) :=
  ⟨rfl, rfl, rfl, rfl, rfl, rfl, rfl, rfl, rfl, rfl, .base s q t, fun _ _ => rfl, fun _ _ => rfl, .refl _⟩

theorem retire_kept (s : State) : OthersKept s (retire s s.cur.unit s.cur.ctx) := by
  have h := OthersKept.modMe s fun x => { x with stall := .none, deferred := false, lastRetire := s.time }
  unfold retire
  simp only
  split
  · split
    · exact h.trans (.watchdog _ _ _)
    · exact h
  · exact h

theorem retire_me (s : State) (hc : s.cur.ctx < 8) :
    (retire s s.cur.unit s.cur.ctx).me = { s.me with stall := .none, deferred := false, lastRetire := s.time } := by
  have h := State.me_modMe s (fun x => { x with stall := .none, deferred := false, lastRetire := s.time }) hc
  unfold retire
  simp only
  split
  · split <;> exact h
  · exact h

/-! ## The common end (R164) -/

/-- A state in which the body of an instruction has run, before its context goes on. -/
theorem advance_kept (s : State) (pc : Ctx → Word) :
    OthersKept s ((retire s s.cur.unit s.cur.ctx).modCtx s.cur.unit s.cur.ctx fun x => { x with pc := pc x }) := by
  have h := retire_kept s
  have e := OthersKept.modMe (retire s s.cur.unit s.cur.ctx) fun x => { x with pc := pc x }
  unfold State.modMe at e
  rw [h.cur] at e
  exact h.trans e

theorem advance_me (s : State) (pc : Ctx → Word) (hc : s.cur.ctx < 8) :
    ((retire s s.cur.unit s.cur.ctx).modCtx s.cur.unit s.cur.ctx fun x => { x with pc := pc x }).me =
      { s.me with stall := .none, deferred := false, lastRetire := s.time, pc := pc { s.me with stall := .none, deferred := false, lastRetire := s.time } } := by
  have h := (retire_kept s).cur
  have e := State.me_modMe (retire s s.cur.unit s.cur.ctx) (fun x => { x with pc := pc x }) (by rw [h]; exact hc)
  unfold State.modMe at e
  rw [h] at e
  rw [e, retire_me s hc]

/-- The end of an instruction whose body answers `done`. -/
theorem finish_done (s0 s : State) (h : s.cur = s0.cur) :
    finish s0 (.done s) = (retire s s.cur.unit s.cur.ctx).modCtx s.cur.unit s.cur.ctx fun x => { x with pc := x.pc + 4 } := by
  unfold finish; rw [h]

theorem finish_jump (s0 s : State) (pc : Word) (h : s.cur = s0.cur) :
    finish s0 (.jump s pc) = (retire s s.cur.unit s.cur.ctx).modCtx s.cur.unit s.cur.ctx fun x => { x with pc := pc } := by
  unfold finish; rw [h]

theorem isOpenInd_markSrcs (s : State) (l : List Reg) (d : Reg) : isOpenInd (markSrcs s l) d = isOpenInd s d := by
  obtain h | ⟨g, r, hg, h⟩ := markSrcs_eq s l
  · rw [h]
  · have e := State.me_marks s (some { g with read := r })
    rw [h]
    unfold isOpenInd
    rw [e]
    have hh : (s.modHere fun c => { c with leg := some { g with read := r } }).here = { s.here with leg := some { g with read := r } } := by
      unfold State.here State.modHere; rw [State.core_modCore]; simp
    have hr : (s.modHere fun c => { c with leg := some { g with read := r } }).regionOf s.cur.unit = s.regionOf s.cur.unit := by
      unfold State.regionOf State.modHere
      rw [State.core_modCore]; simp only [if_true]
      rfl
    simp only [hh, State.modHere_cur, hr, hg, Option.isSome_some]

/-- A control instruction that may issue runs its body. -/
theorem control_ready {s : State} {srcs : List Reg} {dst : Option Reg} (h : Ready s srcs dst) (body : State → CRes) :
    control s srcs dst body = finish (markSrcs s srcs) (body (markSrcs s srcs)) := by
  have hw : writesOpenInd s dst = false := by
    cases dst with
    | none => rfl
    | some d => exact h.free d rfl
  simp [control, hw, h.arrived]

theorem wroteReg_of {s t : State} (rd : Reg) (v pc : Word) (hk : OthersKept s t)
    (hm : ∃ x : Ctx, CtxKept s.me x ∧ (∀ r, x.reg r = s.me.reg r) ∧
      t.me = { x.setReg rd.toNat v with stall := .none, pc := pc }) : WroteReg s t rd v pc := by
  obtain ⟨x, hx, hr, e⟩ := hm
  have hlt : rd.toNat < 32 := rd.isLt
  refine ⟨⟨by rw [e], by rw [e]⟩, fun r => ?_, ?_, hk⟩
  · rw [e]
    have := Ctx.reg_setReg x rd.toNat r v hlt
    have e2 : ({ x.setReg rd.toNat v with stall := .none, pc := pc } : Ctx).reg r = (x.setReg rd.toNat v).reg r := rfl
    rw [e2, this, hr r]
    by_cases h : r = rd.toNat
    · subst h; rfl
    · simp [h]
  · rw [e]
    unfold CtxKept at hx ⊢
    rw [← hx]
    unfold Ctx.setReg
    split <;> rfl

/-- The effect of an instruction that writes one register and goes on at A + 4. -/
theorem finish_setX (s : State) (l : List Reg) (rd : Reg) (v : Word) (hc : s.cur.ctx < 8) :
    WroteReg s (finish (markSrcs s l) (.done (setX (markSrcs s l) rd v))) rd v (s.me.pc + 4) := by
  have hm := markSrcs_kept s l
  have hx := setX_kept (markSrcs s l) rd v
  have hcur : (setX (markSrcs s l) rd v).cur = s.cur := hx.cur.trans hm.cur
  rw [finish_done _ _ hx.cur]
  have hc' : (setX (markSrcs s l) rd v).cur.ctx < 8 := by rw [hcur]; exact hc
  refine wroteReg_of rd v _ ((hm.trans hx).trans (advance_kept _ _)) ?_
  refine ⟨{ s.me with deferred := false, lastRetire := (setX (markSrcs s l) rd v).time }, rfl, fun _ => rfl, ?_⟩
  rw [advance_me _ _ hc', setX_me _ _ _ (by rw [hm.cur]; exact hc), markSrcs_me]
  unfold Ctx.setReg
  split <;> rfl

/-- The effect of an instruction that only goes on. -/
theorem finish_only_jump (s : State) (l : List Reg) (pc : Word) (hc : s.cur.ctx < 8) :
    WentOn s (finish (markSrcs s l) (.jump (markSrcs s l) pc)) pc := by
  have hm := markSrcs_kept s l
  rw [finish_jump _ _ _ rfl]
  have hc' : (markSrcs s l).cur.ctx < 8 := by rw [hm.cur]; exact hc
  have e := advance_me (markSrcs s l) (fun _ => pc) hc'
  refine ⟨⟨by rw [e], by rw [e]⟩, fun r => by rw [e, markSrcs_me]; rfl, ?_, hm.trans (advance_kept _ _)⟩
  rw [e, markSrcs_me]; rfl

theorem finish_only_done (s : State) (l : List Reg) (hc : s.cur.ctx < 8) :
    WentOn s (finish (markSrcs s l) (.done (markSrcs s l))) (s.me.pc + 4) := by
  have hm := markSrcs_kept s l
  rw [finish_done _ _ rfl]
  have hc' : (markSrcs s l).cur.ctx < 8 := by rw [hm.cur]; exact hc
  have e := advance_me (markSrcs s l) (fun x => x.pc + 4) hc'
  refine ⟨⟨by rw [e, markSrcs_me], by rw [e]⟩, fun r => by rw [e, markSrcs_me]; rfl, ?_, hm.trans (advance_kept _ _)⟩
  rw [e, markSrcs_me]; rfl

end Sys2Proof.Machine

namespace Sys2Proof.Machine

/-! ## Contexts that run no leg -/

theorem Plain.leg_none {s : State} (h : Plain s) (h0 : s.cur.ctx = 0) : s.here.leg = none := by
  have := h.leg
  unfold State.inLeg at this
  rw [h0] at this
  unfold State.here
  simpa using this

theorem Plain.markSrcs {s : State} (h : Plain s) (l : List Reg) : markSrcs s l = s := by
  unfold Sys2Proof.Machine.markSrcs
  split
  · next h0 => rw [h.leg_none h0]
  · rfl

theorem Plain.pendingSrc {s : State} (h : Plain s) (l : List Reg) : pendingSrc s l = none := by
  unfold Sys2Proof.Machine.pendingSrc
  split
  · next h0 => rw [h.leg_none h0]
  · rfl

theorem Plain.isOpenInd {s : State} (h : Plain s) (r : Reg) : isOpenInd s r = false := by
  unfold Sys2Proof.Machine.isOpenInd
  by_cases h0 : s.cur.ctx = 0
  · rw [h.leg_none h0, h.nest]
    cases s.regionOf s.cur.unit <;> simp
  · simp [h0]

theorem Plain.ready {s : State} (h : Plain s) (srcs : List Reg) (dst : Option Reg) : Ready s srcs dst :=
  ⟨h.ctx, h.pendingSrc srcs, fun d _ => h.isOpenInd d⟩

theorem Plain.speculative {s : State} (h : Plain s) : s.speculative s.cur.unit s.cur.ctx = false := by
  unfold State.speculative
  by_cases h0 : s.cur.ctx = 0
  · have := h.leg_none h0
    unfold State.here at this
    rw [this]; simp
  · simp [h0]

theorem Plain.versioned {s : State} (h : Plain s) : s.versioned s.cur.unit s.cur.ctx = false := by
  unfold State.versioned
  by_cases h0 : s.cur.ctx = 0
  · have := h.leg_none h0
    unfold State.here at this
    rw [this]; simp
  · simp [h0]

theorem Plain.unheld {s : State} (h : Plain s) : Unheld s := ⟨h.speculative, h.versioned⟩

/-- A held action goes on at once in a context that runs no uncommitted leg (R56, R59). -/
theorem Unheld.gate {s : State} (h : Unheld s) : heldGate s s.cur.unit s.cur.ctx = .ok s := by
  unfold heldGate earlyCommit
  have hv := h.plain
  rw [h.runner]
  by_cases h0 : s.cur.ctx = 0
  · rw [h0] at hv ⊢
    simp [hv]
  · simp [h0]

theorem Unheld.held {s : State} (h : Unheld s) (body : State → CRes) : held s body = body s := by
  unfold Sys2Proof.Machine.held; rw [h.gate]

theorem Plain.held {s : State} (h : Plain s) (body : State → CRes) : held s body = body s := h.unheld.held body

theorem Plain.control {s : State} (h : Plain s) (srcs : List Reg) (dst : Option Reg) (body : State → CRes) :
    control s srcs dst body = finish s (body s) := by
  rw [control_ready (h.ready srcs dst), h.markSrcs]

/-- Going on changes the issuing context's pc and stall reason, and when it last retired. -/
theorem goOn_wentOn (s : State) (hc : s.cur.ctx < 8) : WentOn s (goOn s) (s.me.pc + 4) := by
  unfold goOn
  rw [finish_done _ _ rfl]
  have e := advance_me s (fun x => x.pc + 4) hc
  exact ⟨⟨by rw [e], by rw [e]⟩, fun r => by rw [e]; rfl, by rw [e]; rfl, advance_kept _ _⟩

theorem goTo_wentOn (s : State) (pc : Word) (hc : s.cur.ctx < 8) : WentOn s (goTo s pc) pc := by
  unfold goTo
  rw [finish_jump _ _ _ rfl]
  have e := advance_me s (fun _ => pc) hc
  exact ⟨⟨by rw [e], by rw [e]⟩, fun r => by rw [e]; rfl, by rw [e]; rfl, advance_kept _ _⟩

end Sys2Proof.Machine
end

