-- ==== Sys2Proof/Laws/Memory.lean ====
section
/-!
SUPPORT. Sparse memory: what a byte reads as after a write, that every operation keeps the canonical form,
that canonical memories with the same bytes are equal, what a home write does to memory, and what entering a page in
the TLBs and noting a waiting write change.
-/
namespace Sys2Proof.Machine

/-! ## The canonical form -/

theorem Memory.wfFrom_iff (m : Memory) (lo : Nat) :
    m.wfFrom lo = true ↔ (∀ c ∈ m, lo ≤ c.1 ∧ c.2 ≠ Memory.unlisted) ∧ m.Pairwise fun c d => c.1 < d.1 := by
  induction m generalizing lo with
  | nil => simp [Memory.wfFrom]
  | cons c m ih =>
    obtain ⟨a, b⟩ := c
    simp only [Memory.wfFrom, Bool.and_eq_true, decide_eq_true_eq, ih, List.mem_cons, forall_eq_or_imp, List.pairwise_cons]
    constructor
    · rintro ⟨⟨h1, h2⟩, h3, h4⟩
      exact ⟨⟨⟨h1, h2⟩, fun c hc => ⟨by have := (h3 c hc).1; omega, (h3 c hc).2⟩⟩, fun c hc => (h3 c hc).1, h4⟩
    · rintro ⟨⟨⟨h1, h2⟩, h3⟩, h4, h5⟩
      exact ⟨⟨h1, h2⟩, fun c hc => ⟨h4 c hc, (h3 c hc).2⟩, h5⟩

theorem Memory.wf_iff (m : Memory) :
    m.wf = true ↔ (∀ c ∈ m, c.2 ≠ Memory.unlisted) ∧ m.Pairwise fun c d => c.1 < d.1 := by
  simp [Memory.wf, Memory.wfFrom_iff]

theorem Memory.wf_nil : Memory.wf [] = true := rfl

/-- A part of a canonical memory is canonical. -/
theorem Memory.wf_filter {m : Memory} (p : Host.Cell → Bool) (h : m.wf = true) : Memory.wf (m.filter p) = true := by
  rw [Memory.wf_iff] at h ⊢
  exact ⟨fun c hc => h.1 c (List.mem_filter.1 hc).1, h.2.filter p⟩

theorem Memory.mem_cells {a : Nat} {bs : List Byte} {c : Host.Cell} (h : c ∈ Memory.cells a bs) :
    a ≤ c.1 ∧ c.1 < a + bs.length ∧ c.2 ≠ Memory.unlisted := by
  induction bs generalizing a with
  | nil => simp [Memory.cells] at h
  | cons b bs ih =>
    unfold Memory.cells at h
    have hn : (b :: bs).length = bs.length + 1 := rfl
    by_cases hb : b = Memory.unlisted
    · rw [if_pos hb] at h; obtain ⟨h1, h2, h3⟩ := ih h; exact ⟨by omega, by omega, h3⟩
    · rw [if_neg hb] at h
      rcases List.mem_cons.1 h with rfl | h
      · exact ⟨by simp, by simp, hb⟩
      · obtain ⟨h1, h2, h3⟩ := ih h; exact ⟨by omega, by omega, h3⟩

theorem Memory.pairwise_cells (a : Nat) (bs : List Byte) : (Memory.cells a bs).Pairwise fun c d => c.1 < d.1 := by
  induction bs generalizing a with
  | nil => simp [Memory.cells]
  | cons b bs ih =>
    unfold Memory.cells
    split
    · exact ih _
    · exact List.pairwise_cons.2 ⟨fun c hc => by have := Memory.mem_cells hc; simp only; omega, ih _⟩

/-- A write keeps the canonical form. -/
theorem Memory.wf_writeN {m : Memory} (a : Nat) (bs : List Byte) (h : m.wf = true) : (m.writeN a bs).wf = true := by
  rw [Memory.wf_iff] at h ⊢
  unfold Memory.writeN
  constructor
  · intro c hc
    simp only [List.mem_append, List.mem_filter] at hc
    rcases hc with (hc | hc) | hc
    · exact h.1 c hc.1
    · exact (Memory.mem_cells hc).2.2
    · exact h.1 c hc.1
  · refine List.pairwise_append.2 ⟨List.pairwise_append.2 ⟨h.2.filter _, Memory.pairwise_cells a bs, ?_⟩, h.2.filter _, ?_⟩
    · intro c hc d hd
      have := Memory.mem_cells hd
      simp only [List.mem_filter, decide_eq_true_eq] at hc
      omega
    · intro c hc d hd
      simp only [List.mem_append, List.mem_filter, decide_eq_true_eq] at hc hd
      rcases hc with hc | hc
      · omega
      · have := Memory.mem_cells hc; omega

/-! ## Reading -/

theorem Memory.read_of_lt {m : Memory} {a : Nat} (h : ∀ c ∈ m, a < c.1) : m.read a = Memory.unlisted := by
  induction m with
  | nil => rfl
  | cons c m ih =>
    obtain ⟨k, b⟩ := c
    have := h (k, b) (by simp)
    unfold Memory.read
    rw [if_neg (by simp only at this; omega)]
    exact ih fun c hc => h c (by simp [hc])

theorem Memory.read_unlisted {m : Memory} {a : Nat} (h : ∀ c ∈ m, c.1 ≠ a) : m.read a = Memory.unlisted := by
  induction m with
  | nil => rfl
  | cons c m ih =>
    obtain ⟨k, b⟩ := c
    rw [Memory.read, if_neg (h (k, b) (by simp))]
    exact ih fun c hc => h c (by simp [hc])

theorem Memory.read_append_right {m : Memory} (n : Memory) {a : Nat} (h : ∀ c ∈ m, c.1 ≠ a) : Memory.read (m ++ n) a = n.read a := by
  induction m with
  | nil => rfl
  | cons c m ih =>
    obtain ⟨k, b⟩ := c
    rw [List.cons_append, Memory.read, if_neg (h (k, b) (by simp))]
    exact ih fun c hc => h c (by simp [hc])

theorem Memory.read_append_left (m : Memory) {n : Memory} {a : Nat} (h : ∀ c ∈ n, c.1 ≠ a) : Memory.read (m ++ n) a = m.read a := by
  induction m with
  | nil => exact Memory.read_unlisted h
  | cons c m ih =>
    obtain ⟨k, b⟩ := c
    rw [List.cons_append, Memory.read, Memory.read, ih]

theorem Memory.read_filter (m : Memory) (p : Host.Cell → Bool) (q : Nat → Bool) (hp : ∀ c, p c = q c.1) (a : Nat) :
    Memory.read (m.filter p) a = if q a then m.read a else Memory.unlisted := by
  induction m with
  | nil => simp [Memory.read]
  | cons c m ih =>
    obtain ⟨k, b⟩ := c
    rw [List.filter_cons]
    by_cases hk : k = a
    · subst hk
      by_cases hq : q k = true
      · simp [hp, hq, Memory.read]
      · simp only [hp, hq]; simpa [hq] using ih
    · by_cases hq : q k = true
      · simp only [hp, hq, if_true, Memory.read, if_neg hk, ih]
      · simp only [hp, hq, Memory.read, if_neg hk]; simpa using ih

theorem Memory.read_cells (a b : Nat) (bs : List Byte) :
    (Memory.cells a bs).read b = if a ≤ b ∧ b < a + bs.length then bs.getD (b - a) 0 else Memory.unlisted := by
  induction bs generalizing a with
  | nil => simp [Memory.cells, Memory.read] <;> omega
  | cons x bs ih =>
    have hn : (x :: bs).length = bs.length + 1 := rfl
    have e : (Memory.cells a (x :: bs)).read b = if a = b then x else (Memory.cells (a + 1) bs).read b := by
      by_cases hx : x = Memory.unlisted
      · rw [Memory.cells, if_pos hx]
        by_cases h : a = b
        · rw [if_pos h, hx]
          exact Memory.read_of_lt fun c hc => by have := Memory.mem_cells hc; omega
        · rw [if_neg h]
      · rw [Memory.cells, if_neg hx, Memory.read]
    rw [e, ih]
    by_cases h : a = b
    · subst h; simp
    · rw [if_neg h]
      by_cases h2 : a + 1 ≤ b ∧ b < a + 1 + bs.length
      · rw [if_pos h2, if_pos (by omega)]
        obtain ⟨d, hd⟩ : ∃ d, b - a = d + 1 := ⟨b - a - 1, by omega⟩
        rw [hd, show b - (a + 1) = d by omega]; rfl
      · rw [if_neg h2, if_neg (by omega)]

/-- A read after a write: the written bytes, and everywhere else what stood there. -/
theorem Memory.read_writeN (m : Memory) (a : Nat) (bs : List Byte) (b : Nat) :
    (m.writeN a bs).read b = if a ≤ b ∧ b < a + bs.length then bs.getD (b - a) 0 else m.read b := by
  have hl : ∀ c ∈ m.filter (fun c => decide (c.1 < a)), c.1 < a := fun c hc => by simpa using (List.mem_filter.1 hc).2
  have hr : ∀ c ∈ m.filter (fun c => decide (a + bs.length ≤ c.1)), a + bs.length ≤ c.1 := fun c hc => by
    simpa using (List.mem_filter.1 hc).2
  unfold Memory.writeN
  by_cases hlt : b < a
  · rw [Memory.read_append_left _ fun c hc => by have := hr c hc; omega,
      Memory.read_append_left _ fun c hc => by have := Memory.mem_cells hc; omega,
      Memory.read_filter m _ (fun k => decide (k < a)) (fun _ => rfl), if_pos (by simpa using hlt), if_neg (by omega)]
  · by_cases hin : b < a + bs.length
    · rw [Memory.read_append_left _ fun c hc => by have := hr c hc; omega,
        Memory.read_append_right _ fun c hc => by have := hl c hc; omega,
        Memory.read_cells, if_pos ⟨by omega, hin⟩, if_pos ⟨by omega, hin⟩]
    · rw [List.append_assoc, Memory.read_append_right _ fun c hc => by have := hl c hc; omega,
        Memory.read_append_right _ fun c hc => by have := Memory.mem_cells hc; omega,
        Memory.read_filter m _ (fun k => decide (a + bs.length ≤ k)) (fun _ => rfl), if_pos (by simp; omega), if_neg (by omega)]

/-- A run of bytes is its bytes one by one. -/
theorem Memory.readN_getD (m : Memory) (a n i : Nat) (h : i < n) : (m.readN a n).getD i 0 = m.read (a + i) := by
  induction n generalizing a i with
  | zero => omega
  | succ n ih =>
    cases i with
    | zero => rfl
    | succ i =>
      have := ih (a + 1) i (by omega)
      simp only [Memory.readN, List.getD_cons_succ, this]
      rw [show a + 1 + i = a + (i + 1) by omega]

theorem Memory.length_readN (m : Memory) (a n : Nat) : (m.readN a n).length = n := by
  induction n generalizing a with
  | zero => rfl
  | succ n ih => simp [Memory.readN, ih]

theorem Memory.readN_congr {m m' : Memory} {a n : Nat} (h : ∀ i < n, m.read (a + i) = m'.read (a + i)) :
    m.readN a n = m'.readN a n := by
  induction n generalizing a with
  | zero => rfl
  | succ n ih =>
    have h0 := h 0 (by omega)
    simp only [Memory.readN, List.cons.injEq]
    refine ⟨by simpa using h0, ih fun i hi => ?_⟩
    have := h (i + 1) (by omega)
    rwa [show a + (i + 1) = a + 1 + i by omega] at this

/-- What has been written reads back. -/
theorem Memory.readN_writeN (m : Memory) (a : Nat) (bs : List Byte) : (m.writeN a bs).readN a bs.length = bs := by
  apply List.ext_getElem?
  intro i
  by_cases hi : i < bs.length
  · have h := Memory.readN_getD (m.writeN a bs) a bs.length i hi
    rw [Memory.read_writeN, if_pos (by omega), Nat.add_sub_cancel_left] at h
    have h1 : i < ((m.writeN a bs).readN a bs.length).length := by rw [Memory.length_readN]; exact hi
    rw [List.getElem?_eq_getElem h1, List.getElem?_eq_getElem hi]
    simp only [List.getD_eq_getElem?_getD, List.getElem?_eq_getElem h1, List.getElem?_eq_getElem hi, Option.getD_some] at h
    rw [h]
  · rw [List.getElem?_eq_none (by rw [Memory.length_readN]; omega), List.getElem?_eq_none (by omega)]

/-- Canonical memories in which every byte reads the same are equal. -/
theorem Memory.ext {m n : Memory} (hm : m.wf = true) (hn : n.wf = true) (h : ∀ a, m.read a = n.read a) : m = n := by
  induction m generalizing n with
  | nil =>
    cases n with
    | nil => rfl
    | cons c n =>
      have := h c.1
      rw [Memory.wf_iff] at hn
      simp only [Memory.read, if_true] at this
      exact absurd this.symm (hn.1 c (by simp))
  | cons c m ih =>
    obtain ⟨a, b⟩ := c
    rw [Memory.wf_iff] at hm
    have hm2 := List.pairwise_cons.1 hm.2
    cases n with
    | nil =>
      have := h a
      simp only [Memory.read, if_true] at this
      exact absurd this (hm.1 (a, b) (by simp))
    | cons d n =>
      obtain ⟨a', b'⟩ := d
      rw [Memory.wf_iff] at hn
      have hn2 := List.pairwise_cons.1 hn.2
      have ea : a = a' := by
        rcases Nat.lt_trichotomy a a' with hl | he | hg
        · have := h a
          rw [show Memory.read ((a', b') :: n) a = Memory.unlisted from
            Memory.read_of_lt fun c hc => by
              rcases List.mem_cons.1 hc with rfl | hc
              · exact hl
              · have := hn2.1 c hc; simp only at this; omega] at this
          simp only [Memory.read, if_true] at this
          exact absurd this (hm.1 (a, b) (by simp))
        · exact he
        · have := h a'
          rw [show Memory.read ((a, b) :: m) a' = Memory.unlisted from
            Memory.read_of_lt fun c hc => by
              rcases List.mem_cons.1 hc with rfl | hc
              · exact hg
              · have := hm2.1 c hc; simp only at this; omega] at this
          simp only [Memory.read, if_true] at this
          exact absurd this.symm (hn.1 (a', b') (by simp))
      subst ea
      have eb : b = b' := by have := h a; simpa [Memory.read] using this
      subst eb
      congr 1
      refine ih ((Memory.wf_iff m).2 ⟨fun c hc => hm.1 c (by simp [hc]), hm2.2⟩)
        ((Memory.wf_iff n).2 ⟨fun c hc => hn.1 c (by simp [hc]), hn2.2⟩) fun x => ?_
      by_cases hx : a = x
      · subst hx
        rw [Memory.read_of_lt hm2.1, Memory.read_of_lt hn2.1]
      · have := h x
        simpa [Memory.read, hx] using this

/-! ## The operations that write memory -/

theorem State.reset_memory : State.reset.mem.wf = true := rfl

theorem hostPart_wf {m : Memory} (h : m.wf = true) : (hostPart m).wf = true := Memory.wf_filter _ h

theorem hostPart_read (m : Memory) (a : Nat) : (hostPart m).read a = if isDevMem a then 0 else m.read a := by
  unfold hostPart
  rw [Memory.read_filter m _ (fun k => !isDevMem k) (fun _ => rfl)]
  cases isDevMem a <;> simp [Memory.unlisted]

theorem zeroFill_wf {m : Memory} (poison : List Nat) (pa n : Nat) (et : Bool) (h : m.wf = true) :
    (zeroFill m poison pa n et).wf = true := by
  unfold zeroFill
  split
  · generalize (sectorsOf pa n).filter poison.contains = l
    induction l generalizing m with
    | nil => exact h
    | cons k l ih => exact ih (Memory.wf_writeN _ _ h)
  · exact h

/-- Without an error-tolerant page, or where nothing that is written is poisoned, nothing is filled. -/
theorem zeroFill_eq {m : Memory} {poison : List Nat} {pa n : Nat} {et : Bool}
    (h : et = false ∨ ∀ k ∈ sectorsOf pa n, k ∉ poison) : zeroFill m poison pa n et = m := by
  unfold zeroFill
  rcases h with rfl | h
  · rfl
  · have e : (sectorsOf pa n).filter poison.contains = [] := by
      rw [List.filter_eq_nil_iff]; intro k hk; simpa using h k hk
    rw [e]; simp

@[simp] theorem fireMonitors_mem (s : State) (k : Nat) : (fireMonitors s k).mem = s.mem := rfl
@[simp] theorem dropCopies_mem (s : State) (unit : Option Nat) (k : Nat) : (dropCopies s unit k).mem = s.mem := rfl

theorem foldl_mem {α : Type} (l : List α) (f : State → α → State) (hf : ∀ s a, (f s a).mem = s.mem) (s : State) :
    (l.foldl f s).mem = s.mem := by
  induction l generalizing s with
  | nil => rfl
  | cons a l ih => rw [List.foldl_cons, ih, hf]

theorem squashOne_mem (s : State) (u : Nat) (b : Bool) : (squashOne s u b).mem = s.mem := by
  unfold squashOne; split <;> rfl

theorem squashFrom_mem (s : State) (h k : Nat) (b : Bool) : (squashFrom s h k b).mem = s.mem := by
  unfold squashFrom
  refine foldl_mem _ _ (fun s a => ?_) s
  obtain ⟨j, u⟩ := a
  dsimp only
  split
  · exact squashOne_mem ..
  · rfl

theorem squashAt_mem (s : State) (u : Nat) : (squashAt s u).mem = s.mem := by
  unfold squashAt
  split
  · split
    · exact squashFrom_mem ..
    · rfl
  · rfl

/-- What a write at the home slice does to memory: squashes, monitors and dropped copies do not touch it. -/
theorem writeHome_mem (s : State) (use : L2Use) (unit strand : Option Nat) (part : Nat) (et : Bool) (pa : Nat) (bytes : List Byte) :
    (writeHome s use unit strand part et pa bytes).mem = (zeroFill s.mem s.fab.poison pa bytes.length et).writeN pa bytes := by
  unfold writeHome
  refine (foldl_mem _ _ (fun s k => ?_) _).trans rfl
  exact (foldl_mem _ _ squashAt_mem _).trans rfl

theorem homeWrite_mem (s : State) (unit strand : Option Nat) (part : Nat) (attr : Attr) (pa : Nat) (bytes : List Byte) :
    (homeWrite s unit strand part attr pa bytes).mem =
      (zeroFill s.mem s.fab.poison pa bytes.length (attr == .errorTolerant)).writeN pa bytes := writeHome_mem ..

theorem writeHome_wf {s : State} (use : L2Use) (unit strand : Option Nat) (part : Nat) (et : Bool) (pa : Nat) (bytes : List Byte)
    (h : s.mem.wf = true) : (writeHome s use unit strand part et pa bytes).mem.wf = true := by
  rw [writeHome_mem]; exact Memory.wf_writeN _ _ (zeroFill_wf _ _ _ _ h)

theorem homeWrite_wf {s : State} (unit strand : Option Nat) (part : Nat) (attr : Attr) (pa : Nat) (bytes : List Byte)
    (h : s.mem.wf = true) : (homeWrite s unit strand part attr pa bytes).mem.wf = true := writeHome_wf _ _ _ _ _ _ _ h

theorem placeWord_mem (s : State) (nbits w : Nat) :
    (placeWord s nbits w).mem = s.mem.writeN placeVa (leBytes (nbits / 8) w) := rfl

theorem withFetchWord_wf {s : State} (nbits w : Nat) (h : s.mem.wf = true) : (s.withFetchWord nbits w).mem.wf = true :=
  (placeWord_mem s nbits w).symm ▸ Memory.wf_writeN _ _ h

/-! ## Translations and waiting writes -/

/-- What entering a page in the TLBs may change: a core, a die, and the count of free values. -/
structure TlbsAside (s t : State) : Prop where
  mem : t.mem = s.mem
  fab : t.fab = s.fab
  pkg : t.pkg = s.pkg
  parts : t.parts = s.parts
  queues : t.queues = s.queues
  rings : t.rings = s.rings
  strands : t.strands = s.strands
  now : t.now = s.now
  cur : t.cur = s.cur
  others : ∀ v, (t.core v).ctxs = (s.core v).ctxs ∧ (t.core v).v = (s.core v).v ∧ (t.core v).seq = (s.core v).seq ∧
    (t.core v).lines = (s.core v).lines ∧ (t.core v).sp = (s.core v).sp ∧ (t.core v).leg = (s.core v).leg

theorem TlbsAside.refl (s : State) : TlbsAside s s := ⟨rfl, rfl, rfl, rfl, rfl, rfl, rfl, rfl, rfl, fun _ => ⟨rfl, rfl, rfl, rfl, rfl, rfl⟩⟩

theorem fillCore_aside (s : State) (u : Nat) (t : TlbEntry) : TlbsAside s (fillCore s u t) := by
  refine ⟨rfl, rfl, rfl, rfl, rfl, rfl, rfl, rfl, rfl, fun v => ?_⟩
  have e : (fillCore s u t).core v = if v = u then { s.core u with tlb := addTlb (s.core u).tlb (Config.freeNat s.fresh) t } else s.core v :=
    State.core_modCore s u v fun c => { c with tlb := addTlb c.tlb (Config.freeNat s.fresh) t }
  rw [e]
  split
  · subst_vars; exact ⟨rfl, rfl, rfl, rfl, rfl, rfl⟩
  · exact ⟨rfl, rfl, rfl, rfl, rfl, rfl⟩

/-- The page of a translated access enters TLBs, and nothing else changes (R306, R307). -/
theorem State.fillTlb_aside (s : State) (u p : Nat) (va : Word) : TlbsAside s (s.fillTlb u p va) := by
  unfold State.fillTlb
  dsimp only
  split
  · exact TlbsAside.refl s
  · split
    · exact fillCore_aside ..
    · split
      · exact TlbsAside.refl s
      · exact ⟨rfl, rfl, rfl, rfl, rfl, rfl, rfl, rfl, rfl, (fillCore_aside s u _).others⟩

theorem State.fillPage_aside (s : State) (u c : Nat) (va : Word) : TlbsAside s (s.fillPage u c va) := State.fillTlb_aside ..

/-- A write that waits at its home for leases is noted there, and nothing else changes (R112). -/
theorem State.waitOn_eq (s : State) (w : Waiter) (lines : List Nat) : ∃ l, s.waitOn w lines = s.modFab fun f => { f with waits := f.waits ++ l } := by
  unfold State.waitOn
  split
  · exact ⟨[], by simp [State.modFab, State.setFab]⟩
  · exact ⟨_, rfl⟩

end Sys2Proof.Machine
end

