-- ==== Sys2Proof/Laws/Vector.lean ====
section
/-!
SUPPORT. Bit fields and the elements of vector registers: what a field reads as after a write of it, or of
another; which bits of a register image a list of elements changes; what a write of elements leaves; and the
ends of a block word.
-/
namespace Sys2Proof.Machine

/-! ## Fields -/

theorem getLsbD_putBits {n w : Nat} (x : BitVec n) (lo : Nat) (v : BitVec w) (i : Nat) :
    (putBits x lo v).getLsbD i =
      if lo ≤ i ∧ i < lo + w then decide (i < n) && v.getLsbD (i - lo) else x.getLsbD i := by
  unfold putBits
  simp only [BitVec.getLsbD_or, BitVec.getLsbD_and, BitVec.getLsbD_not, BitVec.getLsbD_shiftLeft, BitVec.getLsbD_setWidth,
    BitVec.getLsbD_allOnes]
  by_cases hn : i < n
  · by_cases hl : i < lo
    · simp [hn, hl, show ¬lo ≤ i by omega]
    · by_cases hw : i - lo < w
      · simp [hn, hl, hw, show lo ≤ i ∧ i < lo + w by omega, show i - lo < n by omega]
      · rw [if_neg (by omega)]
        simp [hn, hl, hw, BitVec.getLsbD_of_ge v (i - lo) (by omega)]
  · rw [BitVec.getLsbD_of_ge x i (by omega)]
    simp [hn]

theorem getLsbD_putBit {n : Nat} (x : BitVec n) (k : Nat) (b : Bool) (i : Nat) :
    (putBit x k b).getLsbD i = if i = k then decide (i < n) && b else x.getLsbD i := by
  unfold putBit
  rw [getLsbD_putBits]
  by_cases h : i = k
  · subst h; simp
  · rw [if_neg (by omega), if_neg h]

theorem testBit_bits {n : Nat} (x : BitVec n) (lo w i : Nat) :
    (bits x lo w).testBit i = (decide (i < w) && x.getLsbD (lo + i)) := by
  unfold bits
  rw [Nat.testBit_mod_two_pow, Nat.testBit_div_two_pow, BitVec.getLsbD, Nat.add_comm]

theorem bits_lt {n : Nat} (x : BitVec n) (lo w : Nat) : bits x lo w < 2 ^ w := Nat.mod_lt _ (Nat.two_pow_pos w)

/-- A field that another write does not touch. -/
theorem bits_putBits_other {n w u : Nat} (x : BitVec n) (lo lo' : Nat) (v : BitVec w) (h : lo' + u ≤ lo ∨ lo + w ≤ lo') :
    bits (putBits x lo v) lo' u = bits x lo' u := by
  apply Nat.eq_of_testBit_eq
  intro i
  rw [testBit_bits, testBit_bits, getLsbD_putBits]
  by_cases hi : i < u
  · rw [if_neg (by omega)]
  · simp [hi]

/-- A field that has been written, or its lower part. -/
theorem bits_putBits_self {n w u : Nat} (x : BitVec n) (lo : Nat) (v : BitVec w) (hu : u ≤ w) (h : lo + w ≤ n) :
    bits (putBits x lo v) lo u = v.toNat % 2 ^ u := by
  apply Nat.eq_of_testBit_eq
  intro i
  rw [testBit_bits, getLsbD_putBits, Nat.testBit_mod_two_pow]
  by_cases hi : i < u
  · rw [if_pos ⟨by omega, by omega⟩]
    simp [hi, show lo + i < n by omega, BitVec.getLsbD]
  · simp [hi]

/-! ## Elements -/

theorem tyBits_pos (ty : BitVec 5) : 0 < tyBits ty := by unfold tyBits; split <;> omega
theorem tyWidth_le (ty : BitVec 5) : tyWidth ty ≤ tyBits ty := by
  unfold tyWidth
  split
  · rename_i h
    have h' : ty.toNat = 14 ∨ ty.toNat = 15 := by simpa [isFp6] using h
    rcases h' with h' | h' <;> simp [tyBits, h']
  · exact Nat.le_refl _

theorem elem_lt (im : BitVec 65536) (h : Shape) (ty : BitVec 5) (j : Nat) : elem im h ty j < 2 ^ tyWidth ty := by
  unfold elem
  split
  · exact bits_lt ..
  · exact Nat.two_pow_pos _

/-- A shape whose rows fit a register and whose operand checks pass for a type. -/
structure Shape.Fits (h : Shape) (ty : BitVec 5) : Prop where
  rows : h.rows ≤ 16
  bad : h.bad ty = false

theorem Shape.Fits.width {h : Shape} {ty : BitVec 5} (g : h.Fits ty) : h.cols * tyBits ty ≤ 4096 := by
  have := g.bad
  simp only [Shape.bad, Bool.or_eq_false_iff, decide_eq_false_iff_not] at this
  omega

/-- Every element of an operand lies in a row and a column of the shape. -/
theorem Shape.Fits.pos {h : Shape} {ty : BitVec 5} (g : h.Fits ty) {j : Nat} (hj : j < h.count) :
    (h.pos j).1 < h.rows ∧ (h.pos j).2 < h.cols := by
  have hb := g.bad
  simp only [Shape.bad, Bool.or_eq_false_iff, Bool.and_eq_false_iff, decide_eq_false_iff_not, beq_eq_false_iff_ne] at hb
  obtain ⟨⟨-, h1⟩, h2⟩ := hb
  unfold Shape.count at hj
  unfold Shape.pos
  split at hj <;> rename_i hs
  · simp only [hs] at h1 ⊢
    exact ⟨by rcases h1 with h1 | h1 <;> omega, hj⟩
  · simp only [hs] at h2 ⊢
    exact ⟨hj, by rcases h2 with h2 | h2 <;> omega⟩
  · have hc : 0 < h.cols := by
      rcases Nat.eq_zero_or_pos h.cols with e | e
      · rw [e, Nat.mul_zero] at hj; omega
      · exact e
    exact ⟨(Nat.div_lt_iff_lt_mul hc).2 hj, Nat.mod_lt _ hc⟩

/-- Two elements of an operand stand in different places. -/
theorem Shape.pos_inj {h : Shape} {i j : Nat} (e : h.pos i = h.pos j) : i = j := by
  unfold Shape.pos at e
  split at e
  · exact (Prod.mk.inj e).2
  · exact (Prod.mk.inj e).1
  · obtain ⟨h1, h2⟩ := Prod.mk.inj e
    rw [← Nat.div_add_mod i h.cols, ← Nat.div_add_mod j h.cols, h1, h2]

theorem Shape.Fits.end_le {h : Shape} {ty : BitVec 5} (g : h.Fits ty) {j : Nat} (hj : j < h.count) :
    elemBit ty (h.pos j) + tyBits ty ≤ 65536 := by
  have hp := g.pos hj
  have := g.rows
  have hw := g.width
  have h1 : ((h.pos j).2 + 1) * tyBits ty ≤ h.cols * tyBits ty := Nat.mul_le_mul_right _ hp.2
  rw [Nat.add_mul] at h1
  unfold elemBit
  rw [Nat.mul_comm (tyBits ty)]
  omega

/-- Different elements have different bits. -/
theorem Shape.Fits.disjoint {h : Shape} {ty : BitVec 5} (g : h.Fits ty) {i j : Nat} (hi : i < h.count) (hj : j < h.count) (hij : i ≠ j) :
    elemBit ty (h.pos i) + tyBits ty ≤ elemBit ty (h.pos j) ∨ elemBit ty (h.pos j) + tyBits ty ≤ elemBit ty (h.pos i) := by
  have hne : h.pos i ≠ h.pos j := fun e => hij (Shape.pos_inj e)
  have pi := g.pos hi
  have pj := g.pos hj
  have hw := g.width
  unfold elemBit
  generalize h.pos i = p at *
  generalize h.pos j = q at *
  obtain ⟨r, c⟩ := p
  obtain ⟨r', c'⟩ := q
  simp only at *
  have bound (x : Nat) (hx : x < h.cols) : tyBits ty * x + tyBits ty ≤ 4096 := by
    have : (x + 1) * tyBits ty ≤ h.cols * tyBits ty := Nat.mul_le_mul_right _ hx
    rw [Nat.add_mul, Nat.mul_comm x] at this
    omega
  have bc := bound c pi.2
  have bc' := bound c' pj.2
  rcases Nat.lt_trichotomy r r' with hr | hr | hr
  · left; omega
  · subst hr
    have hcc : c ≠ c' := fun e => hne (by rw [e])
    rcases Nat.lt_or_gt_of_ne hcc with hc | hc
    · left
      have : tyBits ty * (c + 1) ≤ tyBits ty * c' := Nat.mul_le_mul_left _ hc
      rw [Nat.mul_add] at this
      omega
    · right
      have : tyBits ty * (c' + 1) ≤ tyBits ty * c := Nat.mul_le_mul_left _ hc
      rw [Nat.mul_add] at this
      omega
  · right; omega

/-- A bit that no written element holds is as it was. -/
theorem getLsbD_putImage (h : Shape) (ty : BitVec 5) (l : List Put) (im : BitVec 65536) (b : Nat)
    (hb : ∀ p ∈ l, ¬(elemBit ty (h.pos p.j) ≤ b ∧ b < elemBit ty (h.pos p.j) + tyBits ty)) :
    (putImage h ty l im).getLsbD b = im.getLsbD b := by
  unfold putImage
  induction l generalizing im with
  | nil => rfl
  | cons p l ih =>
    rw [List.foldl_cons, ih _ fun q hq => hb q (by simp [hq]), getLsbD_putBits, if_neg (hb p (by simp))]

/-- An element that no entry names is as it was. -/
theorem elem_putImage_other {h : Shape} {ty : BitVec 5} (g : h.Fits ty) (l : List Put) (im : BitVec 65536) {j : Nat}
    (hl : ∀ p ∈ l, p.j < h.count ∧ p.j ≠ j) : elem (putImage h ty l im) h ty j = elem im h ty j := by
  unfold elem
  split
  · rename_i hj
    apply Nat.eq_of_testBit_eq
    intro i
    rw [testBit_bits, testBit_bits]
    by_cases hi : i < tyWidth ty
    · rw [getLsbD_putImage]
      intro p hp hc
      have := g.disjoint (hl p hp).1 hj (hl p hp).2
      have := tyWidth_le ty
      omega
    · simp [hi]
  · rfl

/-- An element that one entry names, and no later one, has that entry's value. -/
theorem elem_putImage_self {h : Shape} {ty : BitVec 5} (g : h.Fits ty) (l m : List Put) (p : Put) (im : BitVec 65536)
    (hj : p.j < h.count) (hm : ∀ q ∈ m, q.j < h.count ∧ q.j ≠ p.j) :
    elem (putImage h ty (l ++ p :: m) im) h ty p.j = p.val % 2 ^ tyWidth ty := by
  have e : putImage h ty (l ++ p :: m) im = putImage h ty m
      (putBits (putImage h ty l im) (elemBit ty (h.pos p.j)) (BitVec.ofNat (tyBits ty) (p.val % 2 ^ tyWidth ty))) := by
    unfold putImage; rw [List.foldl_append, List.foldl_cons]
  rw [e, elem_putImage_other g m _ hm]
  unfold elem
  rw [if_pos hj, bits_putBits_self _ _ _ (tyWidth_le ty) (g.end_le hj), BitVec.toNat_ofNat]
  have h1 : p.val % 2 ^ tyWidth ty < 2 ^ tyWidth ty := Nat.mod_lt _ (Nat.two_pow_pos _)
  have h2 : 2 ^ tyWidth ty ≤ 2 ^ tyBits ty := Nat.pow_le_pow_right (by omega) (tyWidth_le ty)
  rw [Nat.mod_eq_of_lt (Nat.lt_of_lt_of_le h1 h2), Nat.mod_mod]

/-- A write of elements changes one register, with its poison and its save tags. -/
theorem VCtx.put_kept (v : VCtx) (n : BitVec 5) (h : Shape) (ty : BitVec 5) (l : List Put) :
    { v.put n h ty l with v := v.v, poison := v.poison, vdirty := v.vdirty, validRows := v.validRows } = v := by
  unfold VCtx.put; split <;> rfl

theorem VCtx.reg_put (v : VCtx) (n m : BitVec 5) (h : Shape) (ty : BitVec 5) (l : List Put) :
    (v.put n h ty l).reg m = if m = n then putImage h ty l (v.reg n) else v.reg m := by
  unfold VCtx.put
  split
  · rename_i hl
    rw [List.isEmpty_iff] at hl
    subst hl
    split
    · rename_i e; subst e; rfl
    · rfl
  · unfold VCtx.reg
    rw [vget_vset]
    have hn := n.isLt
    by_cases e : m = n
    · subst e; simp [hn]
    · have : m.toNat ≠ n.toNat := fun e' => e (BitVec.eq_of_toNat_eq e')
      simp [e, this]

/-! ## The ends of a block word -/

theorem finishWord_done (s : State) : finishWord (.done s) = setWordPc s (s.here.seq.pc + 8) := rfl
theorem finishWord_jump (s : State) (pc : Word) : finishWord (.jump s pc) = setWordPc s pc := rfl
theorem finishWord_trap (s : State) {t : TrapInfo} (h : t.later = false) : finishWord (.trap t s) = wordFault s t := by
  unfold finishWord; simp [h]
theorem finishWord_wait (s : State) : finishWord (.wait s) = s := rfl

theorem setWordPc_seq (s : State) (pc : Word) :
    (setWordPc s pc).here.seq = { s.here.seq with pc := pc, answered := [], refused := [], stop := none, step := 0, red := none, idx := none } := by
  unfold setWordPc State.here State.modHere
  rw [State.core_modCore]
  simp

end Sys2Proof.Machine
end

