-- ==== Sys2Proof/Tests/Slice0.lean ====
section
/-!
SUPPORT. The model's own tests: words written out from the encodings of the specification decode to their
instructions, ill-formed instructions are refused, single steps give the values that the specification's
examples give; and for every statement a state and operands that meet its hypotheses, clause by clause.
-/
namespace Sys2Proof.Tests
open Sys2Proof Sys2Proof.Machine

/-! ## States -/

/-- An answer of a check that passes. -/
def okIs {ε α : Type} [DecidableEq α] (r : Except ε α) (a : α) : Bool := match r with | .ok x => decide (x = a) | .error _ => false
theorem ok_of {ε α : Type} [DecidableEq α] {r : Except ε α} {a : α} (h : okIs r a = true) : r = .ok a := by
  unfold okIs at h; split at h <;> simp_all
def errIs {ε α : Type} [DecidableEq ε] (r : Except ε α) (e : ε) : Bool := match r with | .error x => decide (x = e) | .ok _ => false
theorem error_of {ε α : Type} [DecidableEq ε] {r : Except ε α} {e : ε} (h : errIs r e = true) : r = .error e := by
  unfold errIs at h; split at h <;> simp_all

/-- What an answer holds, when it passes. -/
def okGet {ε α : Type} (d : α) (r : Except ε α) : α := match r with | .ok x => x | .error _ => d
def passes {ε α : Type} (r : Except ε α) : Bool := match r with | .ok _ => true | .error _ => false
theorem ok_get {ε α : Type} {d : α} {r : Except ε α} (h : passes r = true) : r = .ok (okGet d r) := by
  unfold passes at h; split at h <;> simp_all [okGet]

/-- A strand context on core 0 at word `w`, as `withFetchWord` leaves it. -/
def base (w : Nat) : State := State.reset.withFetchWord 32 w
/-- The sequencer of core 0 at block word `w`. -/
def blkS (w : Nat) : State := State.reset.withFetchWord 64 w
/-- X registers: X1 the page of the placed word, X2 and X3 small. -/
def regs (s : State) : State :=
  s.modMe fun x => { x with x := vset (vset (vset x.x 1 0x40000) 2 8) 3 3 }
def xreg (s : State) (n : Nat) (v : Word) : State := s.modMe fun x => { x with x := vset x.x n v }
def r0 : State := regs (base 0)
/-- The target of an address of the placed page, which maps to itself. -/
def at_ (pa : Nat) : Target := ⟨pa, .cacheable⟩
/-- A line of the leg cache, filled and without a lease. -/
def lineIn (line : Nat) (st : LineState) : Line := ⟨line, st, 0, 0, 0, 0, 0, false, true, none, 0, 0, 0, [], 0⟩
/-- The core's leg cache owns the line. -/
def withLine (s : State) (line : Nat) : State := s.modHere fun c => { c with lines := lineIn line .M :: c.lines }
/-- One field of a reached state. -/
def after (r : Res) (p : State → Bool) : Bool := match r with | .next s => p s | _ => false
/-- Block fields that are all 0. -/
def fz : BlockFields := ⟨0, 0, 0, 0, 0, false, 0, 0, 0, false, 0, 0⟩
/-- Page tables of partition 0 that map the first 8 GiB to themselves. -/
def tables (s : State) : State :=
  (s.setMem ((s.mem.writeN 0x800000 (bvBytes 8 0x840003#64)).writeN 0x840000 (bvBytes 8 0x0D#64))).modPart 0 fun p => { p with ptbase := 0x800001 }
/-- Queue 0 of partition 0 is enabled, with its header at 0x60000. -/
def queued (s : State) : State := s.modQueue 0 fun q => { q with qctl := 0x8000000000060004#64 }

/-! ## Words of the encodings

Every row of the opcode table that is an instruction word: a word put together from the bits that the row fixes
and from field values, and the instruction it stands for (R146 to R150, R153). -/

def words_alu : List (Ctl × Instr) :=
  [(0x04662B00#32, .add 3 6 5 false true true), (0x04662901#32, .sub 3 6 5 false false true), (0x04662D02#32, .and_ 3 6 5 true false true),
   (0x04662C03#32, .or_ 3 6 5 true false false), (0x04662E04#32, .xor 3 6 5 true true false), (0x04662E05#32, .andn 3 6 5 true true false),
   (0x04662B06#32, .shl 3 6 5 false true true), (0x04662B07#32, .shr 3 6 5 false true true), (0x04662908#32, .sar 3 6 5 false false true),
   (0x04662D09#32, .rol 3 6 5 true false true), (0x04662C0A#32, .mul 3 6 5 true false false), (0x04662E0B#32, .mulh 3 6 5 true true false),
   (0x04662E0C#32, .mulhn 3 6 5 true true false), (0x04662B0D#32, .div 3 6 5 false true true), (0x04662B0E#32, .divn 3 6 5 false true true),
   (0x0466290F#32, .rem 3 6 5 false false true)]
theorem test_decode_alu : (words_alu.all fun x => okIs (decodeCtl x.1) x.2) = true := by decide

def words_alu2 : List (Ctl × Instr) :=
  [(0x04662D10#32, .remn 3 6 5 true false true), (0x04662C11#32, .min 3 6 5 true false false), (0x04662E12#32, .max 3 6 5 true true false),
   (0x04662E13#32, .minn 3 6 5 true true false), (0x04662B14#32, .maxn 3 6 5 false true true), (0x04662B15#32, .cmpeq 3 6 5 false true true),
   (0x04662916#32, .cmplt 3 6 5 false false true), (0x04662D17#32, .cmpltn 3 6 5 true false true), (0x04660418#32, .clz 3 6 true false),
   (0x04660219#32, .ctz 3 6 false true), (0x0466041A#32, .popc 3 6 true false), (0x0466061B#32, .bswap 3 6 true true),
   (0x0466009C#32, .sext 3 6 false false 2), (0x0466065D#32, .zext 3 6 true true 1)]
theorem test_decode_alu2 : (words_alu2.all fun x => okIs (decodeCtl x.1) x.2) = true := by decide

def words_immediates : List (Ctl × Instr) :=
  [(0x0AA69234#32, .addi 21 6 0x9234), (0x0EA69234#32, .andi 21 6 0x9234), (0x12A69234#32, .ori 21 6 0x9234), (0x16A69234#32, .xori 21 6 0x9234),
   (0x1AA6002B#32, .shli 21 6 0x2B), (0x1EA6002B#32, .shri 21 6 0x2B), (0x22A6002B#32, .sari 21 6 0x2B), (0x26A69234#32, .cmplti 21 6 0x9234),
   (0x2AB12345#32, .ldhi 21 0x112345), (0x2EB12345#32, .addpc 21 0x112345)]
theorem test_decode_immediates : (words_immediates.all fun x => okIs (decodeCtl x.1) x.2) = true := by decide

def words_memory : List (Ctl × Instr) :=
  [(0x42A6AAF0#32, .ldb 21 6 0x2ABC), (0x42A6AAF1#32, .ldh 21 6 0x2ABC), (0x42A6AAF2#32, .ldw 21 6 0x2ABC), (0x42A6AAF3#32, .ldd 21 6 0x2ABC),
   (0x46A6AAF0#32, .ldbn 21 6 0x2ABC), (0x46A6AAF1#32, .ldhn 21 6 0x2ABC), (0x46A6AAF2#32, .ldwn 21 6 0x2ABC), (0x4A66AAF0#32, .stb 19 6 0x2ABC),
   (0x4A66AAF1#32, .sth 19 6 0x2ABC), (0x4A66AAF2#32, .stw 19 6 0x2ABC), (0x4A66AAF3#32, .std 19 6 0x2ABC), (0x4EA6AAF2#32, .lds 21 6 0x2ABC 2),
   (0x5266AAF2#32, .sts 19 6 0x2ABC 2), (0x56A60003#32, .lda 21 6 3), (0x58065803#32, .stl 6 11 3)]
theorem test_decode_memory : (words_memory.all fun x => okIs (decodeCtl x.1) x.2) = true := by decide

def words_atomics : List (Ctl × Instr) :=
  [(0x62A65803#32, .amoadd 21 6 11 3), (0x62A6580B#32, .amoswp 21 6 11 3), (0x62A65813#32, .amocas 21 6 11 3), (0x62A6581B#32, .amomin 21 6 11 3),
   (0x62A65823#32, .amomax 21 6 11 3), (0x62A6582B#32, .amominn 21 6 11 3), (0x62A65833#32, .amomaxn 21 6 11 3),
   (0x62A6583B#32, .amoand 21 6 11 3), (0x62A65843#32, .amoor 21 6 11 3), (0x62A6584B#32, .amoxor 21 6 11 3)]
theorem test_decode_atomics : (words_atomics.all fun x => okIs (decodeCtl x.1) x.2) = true := by decide

def words_control : List (Ctl × Instr) :=
  [(0x70CBA246#32, .beq 6 11 0x5123), (0x74CBA246#32, .bne 6 11 0x5123), (0x78CBA246#32, .blt 6 11 0x5123), (0x78CBA247#32, .bltn 6 11 0x5123),
   (0x7CCBA246#32, .bge 6 11 0x5123), (0x7CCBA247#32, .bgen 6 11 0x5123), (0x82345678#32, .jmp 0x2345678), (0x86345678#32, .call 0x2345678),
   (0x88060000#32, .jr 6), (0x8EA60000#32, .callr 21 6), (0x92A65D15#32, .fork 21 6 11 0x515), (0x96A65D15#32, .forki 21 6 11 0x515),
   (0x98000000#32, .join), (0x98060001#32, .bsend 6), (0x98000002#32, .bar), (0x9AA00003#32, .legid 21)]
theorem test_decode_control : (words_control.all fun x => okIs (decodeCtl x.1) x.2) = true := by decide

def words_blocks : List (Ctl × Instr) :=
  [(0xA2345678#32, .vfetch 0x2345678), (0xA4060000#32, .vfetchx 6), (0xA8000000#32, .vwait), (0xAAA00001#32, .rdreply 21),
   (0xAEA65800#32, .vset 21 6 11)]
theorem test_decode_blocks : (words_blocks.all fun x => okIs (decodeCtl x.1) x.2) = true := by decide

def words_messages : List (Ctl × Instr) :=
  [(0xB00659AC#32, .send 6 11 0x35 4), (0xB4065800#32, .chset 6 11), (0xB4060001#32, .chblk 6), (0xB4065805#32, .chblkRem 6 11),
   (0xB4060002#32, .chunb 6), (0xB4065806#32, .chunbRem 6 11), (0xBAA60000#32, .tspawn 21 6), (0xB8060001#32, .twait 6), (0xBC000000#32, .hexit)]
theorem test_decode_messages : (words_messages.all fun x => okIs (decodeCtl x.1) x.2) = true := by decide

def words_transfers : List (Ctl × Instr) :=
  [(0xC2A60000#32, .rtcopy 21 6), (0xC2A60001#32, .rtgath 21 6), (0xC0060002#32, .rtwait 6), (0xC6A60002#32, .rload 21 6 2),
   (0xC6A60006#32, .rstore 21 6 2), (0xCAA65800#32, .ramoadd 21 6 11), (0xCAA65808#32, .ramoswp 21 6 11), (0xCAA65810#32, .ramocas 21 6 11),
   (0xCAA65818#32, .ramomin 21 6 11), (0xCAA65820#32, .ramomax 21 6 11), (0xCAA65828#32, .ramominn 21 6 11), (0xCAA65830#32, .ramomaxn 21 6 11),
   (0xCAA65838#32, .ramoand 21 6 11), (0xCAA65840#32, .ramoor 21 6 11), (0xCAA65848#32, .ramoxor 21 6 11), (0xCC060000#32, .rcopy 6),
   (0xCEA6000D#32, .coll 21 6 3), (0xCC06000E#32, .collwait 6 3)]
theorem test_decode_transfers : (words_transfers.all fun x => okIs (decodeCtl x.1) x.2) = true := by decide

def words_system : List (Ctl × Instr) :=
  [(0xD0000003#32, .fence 3), (0xD6A65800#32, .monwait 21 6 11), (0xD8000000#32, .shsync), (0xD8000001#32, .yield), (0xD8000002#32, .splock),
   (0xD8000003#32, .spunlk), (0xE2A000A5#32, .gets 21 0xA5), (0xE66000A5#32, .sets 19 0xA5), (0xEAA60000#32, .locq 21 6),
   (0xE80002A7#32, .trap 0xA7), (0xE80004A7#32, .break_ 0xA7)]
theorem test_decode_system : (words_system.all fun x => okIs (decodeCtl x.1) x.2) = true := by decide

def words_privileged : List (Ctl × Instr) :=
  [(0xEEA60000#32, .getp 21 6), (0xEC065801#32, .setp 6 11), (0xEC000002#32, .eret), (0xEC065803#32, .tlbinv 6 11), (0xEC060004#32, .tlbinva 6),
   (0xEEA65805#32, .ctxsave 21 6 11), (0xEEA65806#32, .ctxld 21 6 11), (0xEC060007#32, .qdrain 6), (0xEC060008#32, .partrst 6),
   (0xEEA65809#32, .cvault 21 6 11), (0xEC06000A#32, .cksync 6), (0xEEA6000B#32, .elrd 21 6), (0xEEA6002B#32, .elrdPop 21 6),
   (0xEEA6580C#32, .hcall 21 6 11), (0xEEA0000D#32, .wfe 21)]
theorem test_decode_privileged : (words_privileged.all fun x => okIs (decodeCtl x.1) x.2) = true := by decide

def words_sequencing : List (Blk × Instr) := [
   (0x0100000000000000#64, .vstop fz),
   (0x0500000000000000#64, .vnop fz),
   (0x0218007000000001#64, .vloopSet { fz with vd := 3, vc := 7, func := 1 }),
   (0x0217FFC000000000#64, .vloop { fz with vd := 2, va := 31, vb := 31, vc := 28 }),
   (0x0300022200080000#64, .vregion { fz with vb := 1, vc := 2, pm := 4, pinv := true }),
   (0x0404404009000A01#64, .vreply { fz with va := 17, vc := 4, ty := 4, sh := 2, slice := 5, func := 1 })]
theorem test_decode_sequencing : (words_sequencing.all fun x => okIs (decodeBlk x.1) x.2) = true := by decide

def words_integers : List (Blk × Instr) := [
   (0x108CA604C0881A00#64, .vadd { fz with vd := 17, va := 18, vb := 19, pm := 9, zm := true, sh := 1, pinv := true, slice := 13 }),
   (0x118C8064C2881A01#64, .vsub { fz with vd := 17, va := 18, vc := 6, pm := 9, zm := true, ty := 1, sh := 1, pinv := true, slice := 13, func := 1 }),
   (0x128CA604C4881A00#64, .vmul { fz with vd := 17, va := 18, vb := 19, pm := 9, zm := true, ty := 2, sh := 1, pinv := true, slice := 13 }),
   (0x138C8064C6881A01#64, .vmulh { fz with vd := 17, va := 18, vc := 6, pm := 9, zm := true, ty := 3, sh := 1, pinv := true, slice := 13, func := 1 }),
   (0x148CA604C8881A00#64, .vmadd { fz with vd := 17, va := 18, vb := 19, pm := 9, zm := true, ty := 4, sh := 1, pinv := true, slice := 13 }),
   (0x158C8064CA881A01#64, .vdiv { fz with vd := 17, va := 18, vc := 6, pm := 9, zm := true, ty := 5, sh := 1, pinv := true, slice := 13, func := 1 }),
   (0x168CA604CC881A00#64, .vmin { fz with vd := 17, va := 18, vb := 19, pm := 9, zm := true, ty := 6, sh := 1, pinv := true, slice := 13 }),
   (0x178C8064CE881A01#64, .vmax { fz with vd := 17, va := 18, vc := 6, pm := 9, zm := true, ty := 7, sh := 1, pinv := true, slice := 13, func := 1 }),
   (0x188CA604C0881A00#64, .vand { fz with vd := 17, va := 18, vb := 19, pm := 9, zm := true, sh := 1, pinv := true, slice := 13 }),
   (0x198C8064C2881A01#64, .vor { fz with vd := 17, va := 18, vc := 6, pm := 9, zm := true, ty := 1, sh := 1, pinv := true, slice := 13, func := 1 }),
   (0x1A8CA604C4881A00#64, .vxor { fz with vd := 17, va := 18, vb := 19, pm := 9, zm := true, ty := 2, sh := 1, pinv := true, slice := 13 }),
   (0x1B8C8064C6881A01#64, .vshl { fz with vd := 17, va := 18, vc := 6, pm := 9, zm := true, ty := 3, sh := 1, pinv := true, slice := 13, func := 1 }),
   (0x1C8CA604C8881A00#64, .vshr { fz with vd := 17, va := 18, vb := 19, pm := 9, zm := true, ty := 4, sh := 1, pinv := true, slice := 13 }),
   (0x1D8C8064CA881A01#64, .vsar { fz with vd := 17, va := 18, vc := 6, pm := 9, zm := true, ty := 5, sh := 1, pinv := true, slice := 13, func := 1 }),
   (0x208CA604CC881A00#64, .vabsd { fz with vd := 17, va := 18, vb := 19, pm := 9, zm := true, ty := 6, sh := 1, pinv := true, slice := 13 }),
   (0x218C8064CE881A01#64, .vadds { fz with vd := 17, va := 18, vc := 6, pm := 9, zm := true, ty := 7, sh := 1, pinv := true, slice := 13, func := 1 }),
   (0x228CA604C0881A00#64, .vsubs { fz with vd := 17, va := 18, vb := 19, pm := 9, zm := true, sh := 1, pinv := true, slice := 13 })]
theorem test_decode_integers : (words_integers.all fun x => okIs (decodeBlk x.1) x.2) = true := by decide

def words_integers2 : List (Blk × Instr) := [
   (0x1E8CA644CE881A15#64, .vaddc { fz with vd := 17, va := 18, vb := 19, vc := 4, pm := 9, zm := true, ty := 7, sh := 1, pinv := true, slice := 13, func := 21 }),
   (0x1F8CA7F4CC881A0A#64, .vsubb { fz with vd := 17, va := 18, vb := 19, vc := 31, pm := 9, zm := true, ty := 6, sh := 1, pinv := true, slice := 13, func := 10 }),
   (0x231CA604D4881A0A#64, .vcmp { fz with vd := 3, va := 18, vb := 19, pm := 9, zm := true, ty := 10, sh := 1, pinv := true, slice := 13, func := 10 }),
   (0x248CA654E4881A00#64, .vsel { fz with vd := 17, va := 18, vb := 19, vc := 5, pm := 9, zm := true, ty := 18, sh := 1, pinv := true, slice := 13 }),
   (0x258C8004DA881A00#64, .vmov { fz with vd := 17, va := 18, pm := 9, zm := true, ty := 13, sh := 1, pinv := true, slice := 13 }),
   (0x26880094E6881A00#64, .vbcast { fz with vd := 17, vc := 9, pm := 9, zm := true, ty := 19, sh := 1, pinv := true, slice := 13 }),
   (0x27880094CA881A00#64, .viota { fz with vd := 17, vc := 9, pm := 9, zm := true, ty := 5, sh := 1, pinv := true, slice := 13 })]
theorem test_decode_integers2 : (words_integers2.all fun x => okIs (decodeBlk x.1) x.2) = true := by decide

def words_floats : List (Blk × Instr) := [
   (0x408CA604D0981A00#64, .vfadd { fz with vd := 17, va := 18, vb := 19, pm := 9, zm := true, ty := 8, sh := 1, rnd := 1, pinv := true, slice := 13 }),
   (0x418C8064D2A81A01#64, .vfsub { fz with vd := 17, va := 18, vc := 6, pm := 9, zm := true, ty := 9, sh := 1, rnd := 2, pinv := true, slice := 13, func := 1 }),
   (0x428CA604D4B81A00#64, .vfmul { fz with vd := 17, va := 18, vb := 19, pm := 9, zm := true, ty := 10, sh := 1, rnd := 3, pinv := true, slice := 13 }),
   (0x438C8064D6C81A01#64, .vfma { fz with vd := 17, va := 18, vc := 6, pm := 9, zm := true, ty := 11, sh := 1, rnd := 4, pinv := true, slice := 13, func := 1 }),
   (0x448CA604D0F81A00#64, .vfnma { fz with vd := 17, va := 18, vb := 19, pm := 9, zm := true, ty := 8, sh := 1, rnd := 7, pinv := true, slice := 13 }),
   (0x458C8064D2881A01#64, .vfdiv { fz with vd := 17, va := 18, vc := 6, pm := 9, zm := true, ty := 9, sh := 1, pinv := true, slice := 13, func := 1 }),
   (0x468C8004D6C81A00#64, .vfsqrt { fz with vd := 17, va := 18, pm := 9, zm := true, ty := 11, sh := 1, rnd := 4, pinv := true, slice := 13 }),
   (0x478CA604D2881A00#64, .vfmin { fz with vd := 17, va := 18, vb := 19, pm := 9, zm := true, ty := 9, sh := 1, pinv := true, slice := 13 }),
   (0x488CA604D0881A00#64, .vfmax { fz with vd := 17, va := 18, vb := 19, pm := 9, zm := true, ty := 8, sh := 1, pinv := true, slice := 13 }),
   (0x498CA604D4881A04#64, .vfsgn { fz with vd := 17, va := 18, vb := 19, pm := 9, zm := true, ty := 10, sh := 1, pinv := true, slice := 13, func := 4 }),
   (0x4A8C8004D4881A00#64, .vfclass { fz with vd := 17, va := 18, pm := 9, zm := true, ty := 10, sh := 1, pinv := true, slice := 13 }),
   (0x4B8C8004D4B81A00#64, .vexp2 { fz with vd := 17, va := 18, pm := 9, zm := true, ty := 10, sh := 1, rnd := 3, pinv := true, slice := 13 }),
   (0x4C8C8004D4B81A00#64, .vlog2 { fz with vd := 17, va := 18, pm := 9, zm := true, ty := 10, sh := 1, rnd := 3, pinv := true, slice := 13 }),
   (0x4D8C8004D4B81A00#64, .vrcp { fz with vd := 17, va := 18, pm := 9, zm := true, ty := 10, sh := 1, rnd := 3, pinv := true, slice := 13 })]
theorem test_decode_floats : (words_floats.all fun x => okIs (decodeBlk x.1) x.2) = true := by decide

def words_conversions : List (Blk × Instr) := [
   (0x708C8004C6981A26#64, .vcvt { fz with vd := 17, va := 18, pm := 9, zm := true, ty := 3, sh := 1, rnd := 1, pinv := true, slice := 13, func := 0x26 }),
   (0x718C8004DCF81B0A#64, .vquant { fz with vd := 17, va := 18, pm := 9, zm := true, ty := 14, sh := 1, rnd := 7, pinv := true, slice := 13, func := 0x10A }),
   (0x728C8004D6A81A10#64, .vdeq { fz with vd := 17, va := 18, pm := 9, zm := true, ty := 11, sh := 1, rnd := 2, pinv := true, slice := 13, func := 16 })]
theorem test_decode_conversions : (words_conversions.all fun x => okIs (decodeBlk x.1) x.2) = true := by decide

def words_predicates : List (Blk × Instr) := [
   (0x808CA604C0080000#64, .pand { fz with vd := 17, va := 18, vb := 19, pm := 9, zm := true, pinv := true }),
   (0x818CA604C0080000#64, .por { fz with vd := 17, va := 18, vb := 19, pm := 9, zm := true, pinv := true }),
   (0x828CA604C0080000#64, .pxor { fz with vd := 17, va := 18, vb := 19, pm := 9, zm := true, pinv := true }),
   (0x838C8004C0080000#64, .pnot { fz with vd := 17, va := 18, pm := 9, zm := true, pinv := true }),
   (0x848C8004C0080000#64, .pmov { fz with vd := 17, va := 18, pm := 9, zm := true, pinv := true }),
   (0x858C800480080000#64, .pany { fz with vd := 17, va := 18, pm := 9, pinv := true }),
   (0x868C800480080000#64, .pcnt { fz with vd := 17, va := 18, pm := 9, pinv := true }),
   (0x878C800480080000#64, .pfirst { fz with vd := 17, va := 18, pm := 9, pinv := true }),
   (0x888C8004C0080000#64, .pbrkb { fz with vd := 17, va := 18, pm := 9, zm := true, pinv := true }),
   (0x898C8004C0080000#64, .pbrka { fz with vd := 17, va := 18, pm := 9, zm := true, pinv := true }),
   (0x8A8C8004C00801A5#64, .pshl { fz with vd := 17, va := 18, pm := 9, zm := true, pinv := true, func := 0x1A5 })]
theorem test_decode_predicates : (words_predicates.all fun x => okIs (decodeBlk x.1) x.2) = true := by decide

def words_crossings : List (Blk × Instr) := [
   (0x908CA604D8881A00#64, .vperm { fz with vd := 17, va := 18, vb := 19, pm := 9, zm := true, ty := 12, sh := 1, pinv := true, slice := 13 }),
   (0x918C8094DE881A01#64, .vslide { fz with vd := 17, va := 18, vc := 9, pm := 9, zm := true, ty := 15, sh := 1, pinv := true, slice := 13, func := 1 }),
   (0x928C8004E6000000#64, .vxpose { fz with vd := 17, va := 18, pm := 9, zm := true, ty := 19 }),
   (0x938C8094E8881A00#64, .vextr { fz with vd := 17, va := 18, vc := 9, pm := 9, zm := true, ty := 20, sh := 1, pinv := true, slice := 13 }),
   (0x948C8004E2881A00#64, .vcompr { fz with vd := 17, va := 18, pm := 9, zm := true, ty := 17, sh := 1, pinv := true, slice := 13 }),
   (0x958C8004C2881A00#64, .vexpnd { fz with vd := 17, va := 18, pm := 9, zm := true, ty := 1, sh := 1, pinv := true, slice := 13 }),
   (0x960480000C000001#64, .xsend { fz with va := 18, ty := 6, func := 1 }),
   (0x978800048C080001#64, .xrecv { fz with vd := 17, pm := 9, ty := 6, pinv := true, func := 1 })]
theorem test_decode_crossings : (words_crossings.all fun x => okIs (decodeBlk x.1) x.2) = true := by decide

def words_reductions : List (Blk × Instr) := [
   (0xA08CA604953C0200#64, .vredsum { fz with vd := 17, va := 18, vb := 19, pm := 9, ty := 10, sh := 2, rnd := 3, pinv := true, slice := 0x201 }),
   (0xA18CA604953C0200#64, .vredosum { fz with vd := 17, va := 18, vb := 19, pm := 9, ty := 10, sh := 2, rnd := 3, pinv := true, slice := 0x201 }),
   (0xA28CA604950C0200#64, .vredmin { fz with vd := 17, va := 18, vb := 19, pm := 9, ty := 10, sh := 2, pinv := true, slice := 0x201 }),
   (0xA38CA604950C0200#64, .vredmax { fz with vd := 17, va := 18, vb := 19, pm := 9, ty := 10, sh := 2, pinv := true, slice := 0x201 }),
   (0xA48CA6048D0C0200#64, .vredand { fz with vd := 17, va := 18, vb := 19, pm := 9, ty := 6, sh := 2, pinv := true, slice := 0x201 }),
   (0xA58CA6048D0C0200#64, .vredor { fz with vd := 17, va := 18, vb := 19, pm := 9, ty := 6, sh := 2, pinv := true, slice := 0x201 })]
theorem test_decode_reductions : (words_reductions.all fun x => okIs (decodeBlk x.1) x.2) = true := by decide

def words_accesses : List (Blk × Instr) := [
   (0xB0882664D8881A42#64, .vld { fz with vd := 17, vb := 19, vc := 6, pm := 9, zm := true, ty := 12, sh := 1, pinv := true, slice := 13, func := 0x42 }),
   (0xB08826602400005A#64, .vldScl { fz with vd := 17, vb := 19, vc := 6, ty := 18, func := 0x5A }),
   (0xB204666496881A01#64, .vst { fz with va := 17, vb := 19, vc := 6, pm := 9, ty := 11, sh := 1, pinv := true, slice := 13, func := 1 }),
   (0xB204406024000010#64, .vstScl { fz with va := 17, vc := 6, ty := 18, func := 16 }),
   (0xB1882664D6881A0D#64, .vldx { fz with vd := 17, vb := 19, vc := 6, pm := 9, zm := true, ty := 11, sh := 1, pinv := true, slice := 13, func := 13 }),
   (0xB304666484881A1F#64, .vstx { fz with va := 17, vb := 19, vc := 6, pm := 9, ty := 2, sh := 1, pinv := true, slice := 13, func := 31 }),
   (0xB4882664D6881A02#64, .vldff { fz with vd := 17, vb := 19, vc := 6, pm := 9, zm := true, ty := 11, sh := 1, pinv := true, slice := 13, func := 2 }),
   (0xB5880064C8881A60#64, .vlds { fz with vd := 17, vc := 6, pm := 9, zm := true, ty := 4, sh := 1, pinv := true, slice := 13, func := 0x60 }),
   (0xB58826602400003A#64, .vldsScl { fz with vd := 17, vb := 19, vc := 6, ty := 18, func := 0x3A }),
   (0xB604666488881A02#64, .vsts { fz with va := 17, vb := 19, vc := 6, pm := 9, ty := 4, sh := 1, pinv := true, slice := 13, func := 2 }),
   (0xB604666024000012#64, .vstsScl { fz with va := 17, vb := 19, vc := 6, ty := 18, func := 18 }),
   (0xB7882664C8881A07#64, .vldseg { fz with vd := 17, vb := 19, vc := 6, pm := 9, zm := true, ty := 4, sh := 1, pinv := true, slice := 13, func := 7 }),
   (0xB804666498881A00#64, .vstseg { fz with va := 17, vb := 19, vc := 6, pm := 9, ty := 12, sh := 1, pinv := true, slice := 13 }),
   (0xB904666494881A0B#64, .vscadd { fz with va := 17, vb := 19, vc := 6, pm := 9, ty := 10, sh := 1, pinv := true, slice := 13, func := 11 }),
   (0xBA00000000000000#64, .lsync fz),
   (0xBA0000000000000C#64, .lsyncScoped { fz with func := 12 })]
theorem test_decode_accesses : (words_accesses.all fun x => okIs (decodeBlk x.1) x.2) = true := by decide

def words_matrices : List (Blk × Instr) := [
   (0xD000009000000000#64, .mshape { fz with vc := 9 }),
   (0xD13F800014000000#64, .mtld { fz with vd := 7, va := 30, ty := 10 }),
   (0xD22826601C000001#64, .mtldm { fz with vd := 5, vb := 19, vc := 6, ty := 14, func := 1 }),
   (0xD22826601C000002#64, .mtldmScl { fz with vd := 5, vb := 19, vc := 6, ty := 14, func := 2 }),
   (0xD328266016000000#64, .mtst { fz with vd := 5, vb := 19, vc := 6, ty := 11 }),
   (0xD32826601A000003#64, .mtstScl { fz with vd := 5, vb := 19, vc := 6, ty := 13, func := 3 }),
   (0xD48C80701880063C#64, .mmaIp { fz with vd := 17, va := 18, vc := 7, ty := 12, sh := 1, slice := 3, func := 0x3C }),
   (0xD40CA66018800611#64, .mmaOp { fz with vd := 1, va := 18, vb := 19, vc := 6, ty := 12, sh := 1, slice := 3, func := 17 }),
   (0xD48CA660208007FE#64, .mmaRw { fz with vd := 17, va := 18, vb := 19, vc := 6, ty := 16, sh := 1, slice := 3, func := 0x1FE }),
   (0xD404A660168006C3#64, .mmaRwSp { fz with va := 18, vb := 19, vc := 6, ty := 11, sh := 1, slice := 3, func := 0xC3 }),
   (0xD508000000000000#64, .maccz { fz with vd := 1 }),
   (0xD688400016800755#64, .maccrd { fz with vd := 17, va := 1, ty := 11, sh := 1, slice := 3, func := 0x155 }),
   (0xD70C8000148006AA#64, .maccwr { fz with vd := 1, va := 18, ty := 10, sh := 1, slice := 3, func := 0xAA }),
   (0xD8F0009016000001#64, .mmrd { fz with vd := 30, vc := 9, ty := 11, func := 1 })]
theorem test_decode_matrices : (words_matrices.all fun x => okIs (decodeBlk x.1) x.2) = true := by decide

def words_sparse : List (Blk × Instr) := [
   (0xD9A5B00014C00601#64, .vmerge { fz with vd := 20, va := 22, vb := 24, ty := 10, sh := 1, rnd := 4, slice := 3, func := 1 }),
   (0xDAA580948A080001#64, .vtopk { fz with vd := 20, va := 22, vc := 9, pm := 9, ty := 5, pinv := true, func := 1 }),
   (0xDBA5B0048C000003#64, .vsortk { fz with vd := 20, va := 22, vb := 24, pm := 9, ty := 6, func := 3 }),
   (0xDCA5B004A8080000#64, .vcsrx { fz with vd := 20, va := 22, vb := 24, pm := 9, ty := 20, pinv := true })]
theorem test_decode_sparse : (words_sparse.all fun x => okIs (decodeBlk x.1) x.2) = true := by decide
/-! ## Hypotheses of the statements have witnesses -/

theorem test_hyps_EncodedInstructionsDecode :
    WellFormed (.add 1 2 3 true false true) = true ∧ decodeCtl 0x04490400#32 = .ok (.add 2 9 0 true false false) ∧
      decodeBlk 0x0500000000000000#64 = .ok (.vnop fz) :=
  ⟨by decide, ok_of (by decide), ok_of (by decide)⟩

theorem test_hyps_MemoryStaysCanonical :
    (base 0x04220C00).mem.wf = true ∧ after (step (base 0x04220C00)) (fun t => t.mem.wf) = true := by decide

/-- The states of a control turn and of a sequencer's turn, as the statement about them names them. -/
def c0 : State := { base 0x04490400 with agenda := [] }
def c1 : State := (pickIssuer c0 0).2
def c2 : State := (c1.modCore 0 fun k => { k with lastCtx := some 0 }).modCtx 0 0 fun x => { x with lastIssue := c1.now + 1 }
def c3 : State := (endRun c2 0 (some 0)).setCur ⟨0, 0⟩
def d1 : State := { blkS 0x0500000000000000 with agenda := [] }
def d2 : State := (setStop (endRun d1 0 none) 0 none none).setCur ⟨0, 0⟩
def d3 : State := d2.fillPage 0 0 (d2.core 0).seq.pc

theorem test_hyps_StepRunsTheControlWord :
    (base 0x04490400).agenda = ⟨1, .cycle 0⟩ :: [] ∧ coreOff c0 0 = false ∧ pickIssuer c0 0 = (some 0, c1) ∧ (c2.core 0).checks = [] ∧
      relockDue c3 0 0 = false ∧ blockFaultDue c3 0 = false ∧ fetchCtl c3 0 0 = .ok 0x04490400#32 ∧
      decodeCtl 0x04490400#32 = .ok (.add 2 9 0 true false false) :=
  ⟨rfl, by decide, Prod.ext (by decide) rfl, by decide, by decide, by decide, ok_of (by decide), ok_of (by decide)⟩

theorem test_hyps_StepRunsTheBlockWord :
    (blkS 0x0500000000000000).agenda = ⟨1, .word 0⟩ :: [] ∧ seqReady d1 0 = true ∧ coreOff d1 0 = false ∧ (d1.core 0).checks = [] ∧
      fetchBlk d2 0 = .ok 0x0500000000000000#64 ∧ decodeBlk 0x0500000000000000#64 = .ok (.vnop fz) ∧
      wordPending d3 0 (.vnop fz) = false :=
  ⟨rfl, by decide, by decide, by decide, ok_of (by decide), ok_of (by decide), by decide⟩

theorem test_hyps_StepRunsEventsAndIllegalWords :
    isEvent (.commitBaton 0) = true ∧ decodeCtl 0#32 = .error .alwaysIllegal ∧ decodeBlk 0#64 = .error .alwaysIllegal :=
  ⟨by decide, error_of (by decide), error_of (by decide)⟩

/-- ScalarArithmetic, SharedRegisters, DivisionNeverTraps, BranchesAndJumps, SynchronisationInstructions. -/
theorem test_hyps_ready :
    Ready r0 [1, 2] (some 3) ∧ Plain r0 ∧ InStrand r0 ∧ Unheld r0 ∧ r0.here.xsOld = [] :=
  ⟨⟨by decide, by decide, by decide⟩, ⟨by decide, by decide, by decide⟩, ⟨by decide, by decide, by decide⟩,
    ⟨by decide, by decide⟩, by decide⟩

/-- The boundary cases of Division: each clause's premises. -/
theorem test_hyps_division : (0 : Word) = 0 ∧ (0x8000000000000000#64 = 0x8000000000000000#64 ∧ BitVec.allOnes 64 = BitVec.allOnes 64) ∧
    ((7 : Word) ≠ 0 ∧ ¬((7 : Word) = 0x8000000000000000#64 ∧ (7 : Word) = BitVec.allOnes 64)) := by decide

def lined : State := withLine r0 0x1000

theorem loadAt_lined (n : Nat) (h : n = 8) : LoadAt lined n (at_ 0x40008) := by
  subst h; exact ⟨by decide, by decide, by decide, by decide, fun _ => ⟨by decide, fun _ => by decide, fun h => absurd h (by decide)⟩, by decide⟩

theorem test_hyps_ScalarLoads : Ready lined [1] (some 3) ∧ Unheld lined ∧ LoadReady lined (effAddr lined 1 1 3) 8 (at_ 0x40008) :=
  ⟨⟨by decide, by decide, by decide⟩, ⟨by decide, by decide⟩, ⟨by decide, ok_of (by decide), loadAt_lined 8 rfl⟩⟩

theorem storeReady_at (s : State) {va : Word} {l : List Byte} (h1 : va.toNat % l.length = 0) {pa : Nat}
    (h2 : s.xlate s.cur.unit s.cur.ctx .store true va = .ok (at_ pa))
    (h3 : (!(paged s va).blockWait s.cur.unit s.cur.ctx (at_ pa) l.length && !insideOver (paged s va) s.cur.unit s.cur.ctx allEarlier (at_ pa) l.length &&
      !copyReads s s.cur.unit s.cur.ctx allEarlier pa l.length && !s.cacheBarred s.cur.unit && s.owns s.cur.unit (pa / 64)) = true) :
    StoreReady s va l (at_ pa) := by
  simp only [Bool.and_eq_true, Bool.not_eq_true'] at h3
  obtain ⟨⟨⟨⟨a, b⟩, c⟩, d⟩, e⟩ := h3
  exact ⟨h1, h2, a, b, c, fun h => (by cases h), fun _ => ⟨d, fun _ => e⟩⟩

theorem test_hyps_ScalarStores : Ready lined [2, 1] none ∧ Unheld lined ∧
    StoreReady lined (effAddr lined 1 1 3) (bvBytes 8 (X lined 2)) (at_ 0x40008) ∧ lined.inLeg 0 0 = false :=
  ⟨⟨by decide, by decide, by decide⟩, ⟨by decide, by decide⟩,
    storeReady_at lined (by decide) (ok_of (by decide)) (by decide), by decide⟩

theorem test_hyps_ScratchpadAccesses : SpReady r0 (effAddr r0 2 0 3) 8 ∧ r0.here.spPoison.contains ((effAddr r0 2 0 3).toNat / 16) = false ∧
    r0.speculative 0 0 = false := ⟨⟨by decide, by decide, by decide, by decide⟩, by decide, by decide⟩

theorem test_hyps_MisalignedAccessesTrap : (effAddr (xreg r0 1 0x40001) 1 0 3).toNat % 2 ^ 3 ≠ 0 ∧
    (X (xreg r0 1 0x40001) 1).toNat % 8 ≠ 0 ∧ ¬((4 : BitVec 3) = 4 ∧ remotePending r0 = true) := by decide

theorem loadAt_of {s : State} {n pa : Nat} (h : (!s.blockWait s.cur.unit s.cur.ctx (at_ pa) n &&
    !insideOver s s.cur.unit s.cur.ctx allEarlier (at_ pa) n && !loadWaits s s.cur.unit s.cur.ctx pa n && !s.cacheBarred s.cur.unit &&
    !s.cacheOff s.cur.unit && (s.here.lines.any fun x => x.live (pa / 64) s.time)) = true)
    (h2 : CleanAt s s.cur.unit s.cur.ctx pa n) : LoadAt s n (at_ pa) := by
  simp only [Bool.and_eq_true, Bool.not_eq_true'] at h
  obtain ⟨⟨⟨⟨⟨a, b⟩, c⟩, d⟩, e⟩, g⟩ := h
  exact ⟨a, b, c, fun h => (by cases h), fun _ => ⟨d, fun _ => g, fun h => (by rw [e] at h; cases h)⟩, h2⟩

theorem test_hyps_AcquireReleaseAndAtomics :
    let r := markAcquire (paged lined (X lined 1)) 0 0 0x40000
    let q := synced lined (X lined 1) (at_ 0x40000)
    (lined.xlate 0 0 .load false (X lined 1) = .ok (at_ 0x40000) ∧ LoadAt r 8 (at_ 0x40000)) ∧
    (isDevMem (at_ 0x40000).pa = true ∧ r.blockWait 0 0 (at_ 0x40000) 8 = false ∧ ownPendOver r (at_ 0x40000) 8 = false ∧ hostHolds lined 0x40000 = false ∧
      lined.fab.poison.contains (0x40000 / 16) = false) ∧
    (StoreReady (markRelease lined 0 0 0x40000) (X lined 1) (bvBytes 8 (X lined 2)) (at_ 0x40000) ∧ orderedAt lined 4 = true ∧
      remotePending lined = false) ∧
    (∀ scope ∈ [(0 : BitVec 3), 4], AmoReady lined (X lined 1) scope (at_ 0x40000)) ∧
    AmoAtHome q 4 (at_ 0x40000) ∧ AmoInCache q (at_ 0x40000) := by
  refine ⟨⟨ok_of (by decide), loadAt_of (by decide) (by decide)⟩, ⟨by decide, by decide, by decide, by decide, by decide⟩,
    ⟨storeReady_at _ (by decide) (ok_of (by decide)) (by decide), by decide, by decide⟩, ?_,
    ⟨by decide, by decide, fun h => absurd h (by decide), by decide, by decide⟩,
    ⟨by decide, by decide, by decide, by decide, loadAt_of (by decide) (by decide)⟩⟩
  intro scope h
  simp only [List.mem_cons, List.not_mem_nil, or_false] at h
  rcases h with rfl | rfl <;> exact ⟨by decide, ok_of (by decide), by decide, by decide, by decide, by decide⟩

theorem test_hyps_HomeWriteChangesItsBytesAlone :
    ∀ k ∈ sectorsOf 0x40000 8, k ∉ r0.fab.poison := by decide

theorem test_hyps_BranchesAndJumps :
    (X r0 1).toNat % 4 = 0 ∧ (X (xreg r0 1 0x40002) 1).toNat % 4 ≠ 0 ∧ Plain (xreg r0 1 0x40002) :=
  ⟨by decide, by decide, ⟨by decide, by decide, by decide⟩⟩

/-- The JOIN of a loop stands in the placed word: a loop whose body is the one word before it. -/
def joinAt (s : State) : State := (s.setMem (s.mem.writeN 0x40004 (bvBytes 4 joinWord))).modHere fun c =>
  { c with lines := lineIn 0x1000 .S :: c.lines }
/-- FORK X3, X2, X1: base 3, step 8, end 0x40000; and with end 3, no iteration. -/
def forking : State := joinAt r0
def forkNone : State := xreg forking 1 3
def reg0 (indep : Bool) : Region :=
  ⟨indep, 0x40000, 0x40004, 3, 3, 8, 0x40000, 8, 2, 4, 0, 0, 0, 0, Vector.replicate 32 0, 0, 16, 64, 0x202020, 0, Vector.replicate 32 0, 0, true,
    [], [], 0, false, 0⟩
def leg0 (k i : Nat) : Leg := ⟨k, i, 0, 0, 0, Vector.replicate 32 0, 0, [], false, false, 0, [], []⟩
/-- Leg `k` at iteration `i` of a region of 8 iterations in 2 legs of 4. -/
def inReg (indep : Bool) (k i : Nat) : State :=
  ((joinAt r0).modStrand 0 fun x => { x with region := some { reg0 indep with runner := k } }).modHere fun c => { c with leg := some (leg0 k i) }
def nested (i n : Nat) (rest : List Nest) : State :=
  (inReg false 0 0).modMe fun x => { x with nest := ⟨0x40000, 0x40004, 1, 5, 5, i, n⟩ :: rest }

theorem test_hyps_ForksStartLoops :
    (∀ p ∈ forkForms, ForkOk forking p.2 3 2 0x40004 (at_ 0x40004)) ∧ InStrand forking ∧ Ready forking [3, 2, 1] none ∧
    (∃ x, Outside forking 0 x ∧ 0 < 0 + x.size) ∧ iterCount (X forking 3).toInt (X forking 2).toInt (X forking 1).toInt ≠ 0 ∧
    forking.blocksDone 0 0 = true ∧ forking.performedAt 0 0 1 = true ∧
    (∀ p ∈ forkForms, ForkOk forkNone p.2 3 2 0x40004 (at_ 0x40004)) ∧ iterCount (X forkNone 3).toInt (X forkNone 2).toInt (X forkNone 1).toInt = 0 ∧
    (ForkOk (inReg false 0 0) false 2 2 0x40004 (at_ 0x40004) ∧ (inReg false 0 0).here.leg.isSome = true ∧ Ready (inReg false 0 0) [2, 2, 1] none) := by
  refine ⟨?_, ⟨by decide, by decide, by decide⟩, ⟨by decide, by decide, by decide⟩,
    ⟨⟨0, (0, 8192), 1, 0, 0, 0, none, false, none⟩, ⟨⟨by decide, by decide, by decide⟩, ⟨by decide, by decide, by decide⟩, by decide, by decide⟩, by decide⟩,
    by decide, by decide, by decide, ?_, by decide,
    ⟨ok_of (by decide), by decide, by decide, by decide⟩, by decide, ⟨by decide, by decide, by decide⟩⟩
  all_goals
    intro p h
    simp only [forkForms, List.mem_cons, List.not_mem_nil, or_false] at h
    rcases h with rfl | rfl <;> exact ⟨ok_of (by decide), by decide, by decide, by decide⟩

/-- A positive and a negative step. -/
theorem test_hyps_IterationCount : 0 < (8 : Word).toInt ∧ (BitVec.allOnes 64).toInt < 0 := by decide

theorem test_hyps_JoinsEndIterationsAndRegions :
    (InStrand r0 ∧ Plain r0) ∧
    (InLeg (nested 0 2 []) 0 (reg0 false) (leg0 0 0) ∧ (nested 0 2 []).me.nest = [⟨0x40000, 0x40004, 1, 5, 5, 0, 2⟩] ∧ (reg0 false).xind ≠ 5) ∧
    (InLeg (nested 1 2 []) 0 (reg0 false) (leg0 0 0) ∧ (nested 1 2 []).me.nest = [⟨0x40000, 0x40004, 1, 5, 5, 1, 2⟩]) ∧
    (InLeg (inReg false 0 0) 0 (reg0 false) (leg0 0 0) ∧ (inReg false 0 0).me.nest = [] ∧ 0 + 1 ≤ (reg0 false).last 0) ∧
    (InLeg (inReg false 1 7) 0 { reg0 false with runner := 1 } (leg0 1 7) ∧ (reg0 false).last 1 < 7 + 1 ∧ 1 + 1 = (reg0 false).legs ∧
      (inReg false 1 7).blocksDone 0 0 = true ∧ (inReg false 1 7).ownPend 0 0 = [] ∧ (∀ y ∈ (inReg false 1 7).here.lines, y.st = .L → y.dirty = 0)) := by
  refine ⟨⟨⟨by decide, by decide, by decide⟩, ⟨by decide, by decide, by decide⟩⟩,
    ⟨⟨⟨by decide, by decide, by decide⟩, by decide, by decide, by decide⟩, by decide, by decide⟩,
    ⟨⟨⟨by decide, by decide, by decide⟩, by decide, by decide, by decide⟩, by decide⟩,
    ⟨⟨⟨by decide, by decide, by decide⟩, by decide, by decide, by decide⟩, by decide, by decide⟩,
    ⟨⟨⟨by decide, by decide, by decide⟩, by decide, by decide, by decide⟩, by decide, by decide, by decide, by decide, by decide⟩⟩

/-- The last leg of a FORKI region, when the other has finished. -/
def lastIndep : State := (inReg true 1 7).modStrand 0 fun x => { x with region := some { reg0 true with finished := 1 } }

theorem test_hyps_FinalJoinOfForki :
    InLeg lastIndep 0 { reg0 true with finished := 1 } (leg0 1 7) ∧ (leg0 1 7).early = false ∧ 1 + 1 = (reg0 true).legs ∧ (reg0 true).barCount = 0 :=
  ⟨⟨⟨by decide, by decide, by decide⟩, by decide, by decide, by decide⟩, by decide, by decide, by decide⟩

/-- Leg 0 at its last JOIN: the runner, a leg that waits for its turn, and a leg of a FORKI region. -/
def lastOfLeg (indep : Bool) (arrived : Bool) : State :=
  (inReg indep 0 3).modStrand 0 fun x => { x with region := some { reg0 indep with arrived := arrived } }
theorem test_hyps_LastJoinOfALeg (indep arrived : Bool) :
    let s := lastOfLeg indep arrived
    let r : Region := { reg0 indep with arrived := arrived }
    InLeg s 0 r (leg0 0 3) ∧ (leg0 0 3).pending = 0 ∧ s.me.nest = [] ∧ s.strand? 0 = some ⟨0, (0, 8192), 1, 0, 0, 0, some r, false, none⟩ ∧
      r.last 0 < 3 + 1 ∧ 0 + 1 ≠ r.legs ∧ Idle s ∧ (leg0 0 3).joined = false ∧ (leg0 0 3).early = false ∧ 0 = r.runner ∧ r.barCount = 0 ∧
      commitReady s 0 = true ∧ (s.here.lines.map (·.line)).Nodup ∧ ∀ y ∈ s.here.lines, y.st = .L → y.et = false ∧ y.bad = 0 ∧ (y.dirty = 0 → y.mask = 0) := by
  unfold Idle
  cases indep <;> cases arrived <;>
    exact ⟨⟨⟨by decide, by decide, by decide⟩, by decide, by decide, by decide⟩, by decide, by decide, by decide, by decide, by decide, by decide, by decide,
      by decide, by decide, by decide, by decide, by decide, by decide⟩

/-- A region of one leg, and one of two of which the other has yet to arrive. -/
def oneLeg : State := (inReg true 0 0).modStrand 0 fun x => { x with region := some { reg0 true with legs := 1 } }
def twoLegs : State := (inReg true 0 0).modStrand 0 fun x => { x with size := 2, region := some (reg0 true) }

/-- A word that reads carried register X9, whose value the leg does not know yet: VBCAST. -/
def carryX9 : State := (inReg false 1 4).modStrand 0 fun x => { x with region := some { reg0 false with carrym := 0x200, runner := 0 } }
def pendingX9 : State := carryX9.modHere fun c => { c with seq := { c.seq with fq := [⟨0x40000, 16, 64, 0, Vector.replicate 32 0, 0x200, 0⟩] } }
theorem test_hyps_StepRunsTheBlockWord2 : wordPending pendingX9 0 (.vbcast { fz with vc := 9 }) = true := by decide

/-- A handler context beside a speculative leg (R133). -/
def beside : State := (carryX9.setCur ⟨0, 1⟩).modMe fun x => { x with resident := true }
theorem test_hyps_ScratchpadAccesses2 : SpReady beside (effAddr beside 2 0 3) 8 ∧ Ready beside [2] (some 3) ∧ beside.spOwn 0 1 = false ∧
    beside.here.spSeenBad 0 = false :=
  ⟨⟨by decide, by decide, by decide, by decide⟩, ⟨by decide, by decide, by decide⟩, by decide, by decide⟩

theorem test_hyps_LegInstructions :
    (InLeg oneLeg 0 { reg0 true with legs := 1 } (leg0 0 0) ∧ (∃ x, oneLeg.strand? 0 = some x ∧ spanPerformed oneLeg 0 x = true ∧ 0 < 0 + x.size) ∧ oneLeg.blocksDone 0 0 = true ∧ oneLeg.performedAt 0 0 1 = true ∧ 0 + 1 + 0 = 1 ∧ oneLeg.me.barArrived = false) ∧
    (InLeg twoLegs 0 (reg0 true) (leg0 0 0) ∧ twoLegs.blocksDone 0 0 = true ∧ twoLegs.performedAt 0 0 1 = true ∧ 0 + 1 + 0 < (reg0 true).legs) ∧
    (InLeg (inReg false 0 0) 0 (reg0 false) (leg0 0 0) ∧ Ready (inReg false 0 0) [2] none) ∧
    Ready r0 [] (some 3) ∧ (r0.setCur ⟨0, 1⟩).cur.ctx ≠ 0 ∧ isMgmt 1024 = true := by
  refine ⟨⟨⟨⟨by decide, by decide, by decide⟩, by decide, by decide, by decide⟩,
      ⟨⟨0, (0, 8192), 1, 0, 0, 0, some { reg0 true with legs := 1 }, false, none⟩, by decide, by decide, by decide⟩,
      by decide, by decide, by decide, by decide⟩,
    ⟨⟨⟨by decide, by decide, by decide⟩, by decide, by decide, by decide⟩, by decide, by decide, by decide⟩,
    ⟨⟨⟨by decide, by decide, by decide⟩, by decide, by decide, by decide⟩, ⟨by decide, by decide, by decide⟩⟩,
    ⟨by decide, by decide, by decide⟩, by decide, by decide⟩

def fullQueue : State := r0.modHere fun c => { c with seq := { c.seq with fq := List.replicate 16 default } }
def replying : State := r0.modHere fun c => { c with seq := { c.seq with reply := [7] } }

theorem test_hyps_BlockQueue :
    ((X r0 1).toNat % 8 = 0 ∧ r0.here.seq.fq.length < 16) ∧ (InStrand fullQueue ∧ Plain fullQueue ∧ 16 ≤ fullQueue.here.seq.fq.length) ∧
    (X (xreg r0 1 0x40004) 1).toNat % 8 ≠ 0 ∧ r0.blocksDone 0 0 = true ∧ (fullQueue.blocksDone 0 0 = false ∧ Ready fullQueue [] none) ∧
    (InStrand replying ∧ Ready replying [] (some 3) ∧ replying.here.seq.reply = 7 :: []) ∧ r0.here.seq.reply = [] ∧ X r0 1 ≠ 0 ∧ X r0 2 ≠ 0 :=
  ⟨by decide, ⟨⟨by decide, by decide, by decide⟩, ⟨by decide, by decide, by decide⟩, by decide⟩, by decide, by decide,
    ⟨by decide, ⟨by decide, by decide, by decide⟩⟩, ⟨⟨by decide, by decide, by decide⟩, ⟨by decide, by decide, by decide⟩, by decide⟩,
    by decide, by decide, by decide⟩

def lockedBy (c : Nat) : State := r0.modHere fun k => { k with lock := some c }

theorem test_hyps_LocksAndFences :
    (r0.here.lock = none ∧ r0.here.lockQ = [] ∧ r0.me.trap = .none) ∧
    (Plain (lockedBy 1) ∧ (lockedBy 1).here.lock = some 1 ∧ (lockedBy 1).here.lockQ.contains 0 = false) ∧
    (Plain (lockedBy 0) ∧ (lockedBy 0).here.lock = some (lockedBy 0).cur.ctx ∧ orderedAt (lockedBy 0) 0 = true) ∧
    (orderedAt r0 4 = true ∧ remotePending r0 = false) :=
  ⟨by decide, ⟨⟨by decide, by decide, by decide⟩, by decide, by decide⟩, ⟨⟨by decide, by decide, by decide⟩, by decide, by decide⟩, by decide⟩

/-- A store that is not yet performed keeps a FENCE of die scope. -/
def storing : State := r0.modFab fun f => { f with pend := [scalarEntry r0 0x40008 (at_ 0x40008) false [1]] }

theorem test_hyps_FenceWaits : Plain storing ∧ orderedAt storing 2 = false := ⟨⟨by decide, by decide, by decide⟩, by decide⟩

def monitored (fired : Bool) : State := r0.modMe fun x => { x with monitor := some ⟨0x1000, false, fired, 0⟩ }

theorem test_hyps_MonitoredWait :
    (r0.xlate 0 0 .load false (X r0 1) = .ok (at_ 0x40000) ∧ r0.me.monitor = none ∧ (paged r0 (X r0 1)).blockWait 0 0 (at_ 0x40000) 8 = false ∧ ownPendOver r0 (at_ 0x40000) 8 = false ∧
      hostHolds r0 0x40000 = false ∧ r0.fab.poison.contains (0x40000 / 16) = false ∧ isHost 0x40000 = false) ∧
    homeDouble r0 (at_ 0x40000) ≠ X r0 2 ∧ homeDouble r0 (at_ 0x40000) = X r0 0 ∧
    ∀ fired ∈ [true, false], Plain (monitored fired) ∧ (monitored fired).me.monitor = some ⟨0x40000 / 64, false, fired, 0⟩ ∧
      (monitored fired).xlate 0 0 .load false (X (monitored fired) 1) = .ok (at_ 0x40000) := by
  refine ⟨⟨ok_of (by decide), by decide, by decide, by decide, by decide, by decide, by decide⟩, by decide, by decide, ?_⟩
  intro fired h
  simp only [List.mem_cons, List.not_mem_nil, or_false] at h
  rcases h with rfl | rfl <;> exact ⟨⟨by decide, by decide, by decide⟩, by decide, ok_of (by decide)⟩

def handler : State := ((r0.setCur ⟨0, 1⟩).modMe fun x => { x with resident := true })
def errored (s : State) : State := s.modMe fun x => { x with remErr := true }
/-- A copy of the strand context is in flight. -/
def aCopy : Copy := ⟨1, 0, 0, 2, 1, 0, 0, 0x40000, 0, 8, [(1, 0, 0)], none, 0, 1, [], false, none, [], none, false, 0, 0⟩
def copying : State := r0.modHere fun c => { c with copies := [aCopy] }

theorem test_hyps_ContextsEnd :
    (Plain handler ∧ handler.me.trap = .none ∧ handler.cur.ctx ≠ 0 ∧ abortedTrap handler 0 1 = none ∧ remotePending handler = false) ∧
    (Plain (errored handler) ∧ remotePending (errored handler) = true) ∧
    (∃ x, Outside fullQueue 0 x ∧ 0 < 0 + x.size ∧ fullQueue.blocksDone 0 0 = false) ∧
    (∃ x, Outside copying 0 x ∧ copying.blocksDone 0 0 = true ∧ transfersDone copying 0 = false) ∧
    (∃ x, Outside r0 0 x ∧ r0.blocksDone 0 0 = true ∧ transfersDone r0 0 = true ∧ abortedTrap r0 0 0 = none ∧ remotePending r0 = false) := by
  refine ⟨⟨⟨by decide, by decide, by decide⟩, by decide, by decide, by decide, by decide⟩, ⟨⟨by decide, by decide, by decide⟩, by decide⟩,
    ⟨⟨0, (0, 8192), 1, 0, 0, 0, none, false, none⟩, ⟨⟨by decide, by decide, by decide⟩, ⟨by decide, by decide, by decide⟩, by decide, by decide⟩, by decide⟩,
    ⟨⟨0, (0, 8192), 1, 0, 0, 0, none, false, none⟩, ⟨⟨by decide, by decide, by decide⟩, ⟨by decide, by decide, by decide⟩, by decide, by decide⟩, by decide⟩,
    ⟨⟨0, (0, 8192), 1, 0, 0, 0, none, false, none⟩, ⟨⟨by decide, by decide, by decide⟩, ⟨by decide, by decide, by decide⟩, by decide, by decide⟩, by decide⟩⟩

def aMsg : Msg := ⟨0, 3, 2, [5, 6]⟩
def sendFull : State := r0.modMe fun x => { x with sendq := List.replicate 4 aMsg }

theorem test_hyps_MessagesAndChannels :
    bits (X (xreg r0 1 0x400) 1) 10 54 ≠ 0 ∧ (bits (X (xreg r0 1 16) 1) 10 54 = 0 ∧ (xreg r0 1 16).samePart 0 16 = false) ∧
    (bits (X r0 3) 10 54 = 0 ∧ r0.samePart 0 (X r0 3).toNat = true ∧ orderedAt r0 3 = true ∧ r0.me.sendq.length < 4) ∧
    (Plain sendFull ∧ 4 ≤ sendFull.me.sendq.length ∧ orderedAt sendFull 3 = true ∧ bits (X sendFull 3) 10 54 = 0 ∧ sendFull.samePart 0 (X sendFull 3).toNat = true) ∧
    bits (X r0 1) 6 58 ≠ 0 ∧ bits (X r0 2) 6 58 = 0 ∧ (zeroBits (X r0 2) 56 4 = true ∧ zeroBits (X r0 2) 0 2 = true) ∧
    (r0.vaulting 3 = false ∧ (r0.me.sendq.any fun m => m.dst == 3) = false) :=
  ⟨by decide, by decide, by decide, ⟨⟨by decide, by decide, by decide⟩, by decide⟩, by decide, by decide, by decide, by decide⟩

def sending : State := r0.modMe fun x => { x with sendq := [aMsg] }
/-- The status doubleword of R373, written out: 3,000 W, 80 °C, level 2, phase 6. -/
theorem test_status_word : bringupStatus { State.reset with pkg := { State.reset.pkg with phase := 6, throt := 2, power := 3000, temp := 80 } } =
    0x0BB8_5002_0006#64 := by decide

def aVault (st : VaultState) : Vault := ⟨3, 3, 16, st, 0, [], [], .mailbox⟩
def vaultOn (s : State) (st : VaultState) : State := s.modRing 0 fun r => { r with vault := some (aVault st) }
/-- Core 0 has two messages whose channel has an entry, of priority 2. -/
def inbound : State := r0.modHere fun c => { c with table := vset c.table 2 0xA000000000040100#64, inq := [aMsg, { aMsg with src := 1 }] }

theorem test_hyps_MessageDelivery :
    ((sending.ctx 0 0).sendq = aMsg :: [] ∧ sending.vaulting 0 = false ∧ sending.vaulting 3 = false ∧ (sending.core 3).inq.length < 32) ∧
    (((vaultOn sending .copy).ring (ringOf 3)).vault = some (aVault .copy) ∧ (vaultOn sending .copy).vaulting 3 = true ∧
      (vaultOn sending .copy).vaulting 0 = false ∧ ((vaultOn sending .copy).core 3).inq.length + (aVault .copy).held.length < 32) ∧
    pickMessage (inbound.core 0) = some (0, 2) ∧
    (startsHeld inbound 0 = false ∧ ((inbound.core 0).ctx 1).resident = false ∧ (inbound.core 0).inq[0]? = some aMsg ∧ aMsg.payload.length ≤ 6) ∧
    (∀ j, 1 ≤ j → j < 1 → ((inbound.core 0).ctx j).resident = true) := by
  refine ⟨by decide, by decide, by decide, by decide, ?_⟩
  intro j h1 h2; omega

/-- A task image in the placed page, its lines at hand, and queue 0 enabled. -/
def imaged : State := withLine (withLine (queued (xreg { r0 with mem := r0.mem.writeN 0x50000 (bvBytes 8 0x40000#64) } 1 0x50000)) 0x1400) 0x1401
def words : List Word × State := okGet ([], imaged) (readWords imaged (X imaged 1) 16)
def badImage : State := { imaged with mem := imaged.mem.writeN 0x50000 [1] }
def badWords : List Word × State := okGet ([], badImage) (readWords badImage (X badImage 1) 16)

/-- The strand's TSPAWN has sent task 7, node 0 of die 0, to the order point. -/
def spawned (st : NodeState) : State :=
  ((queued r0).modDie 0 fun d => { d with nodes := [(0, ⟨st, 0x40000, 7, 0, 0, 7, 0, some 0, [], [], 0, [], 0, 0, 0, []⟩)] }).modMe fun x =>
    { x with spawning := some 0x70000 }

theorem test_hyps_TasksAreSpawned :
    (Plain imaged ∧ orderedAt imaged 3 = true ∧ Described imaged (X imaged 1) 16 words.1 words.2 ∧ SpawnOk words.2 0 (Image.ofWords words.1) ∧
      words.2.issuePart 0 0 = 0) ∧
    (Plain badImage ∧ Described badImage (X badImage 1) 16 badWords.1 badWords.2 ∧ imageOk badWords.2 0 (Image.ofWords badWords.1) = false) ∧
    imaged.me.spawning = none ∧ ((spawned .wait).me.spawning = some 0x70000 ∧ (spawned .wait).spawnWaits 0x70000 = false) ∧
    (Plain (spawned .spawned) ∧ (spawned .spawned).me.spawning = some 0x70000 ∧ (spawned .spawned).spawnWaits 0x70000 = true) :=
  ⟨⟨⟨by decide, by decide, by decide⟩, by decide, ⟨by decide, ok_get (d := ([], imaged)) (by decide)⟩, ⟨by decide, by decide, by decide, by decide⟩, by decide⟩,
    ⟨⟨by decide, by decide, by decide⟩, ⟨by decide, ok_get (d := ([], badImage)) (by decide)⟩, by decide⟩, by decide, by decide,
    ⟨⟨by decide, by decide, by decide⟩, by decide⟩⟩

theorem test_hyps_DescriptorsAreRead : Plain lined ∧ ∀ i < 2, LoadReady lined (0x40008 + BitVec.ofNat 64 (8 * i)) 8 (at_ (0x40008 + 8 * i)) := by
  refine ⟨⟨by decide, by decide, by decide⟩, fun i h => ?_⟩
  rcases (by omega : i = 0 ∨ i = 1) with rfl | rfl <;>
    exact ⟨by decide, ok_of (by decide), loadAt_of (by decide) (by decide)⟩

/-- The three things that a handle may name. -/
def aNode (st : NodeState) : Node := ⟨st, 0x40000, 7, 0, 0, 1, 0, some 0, [], [], 0, [], 0, 0, 0, []⟩
def noded (st : NodeState) : State := (queued r0).modDie 0 fun d => { d with nodes := [(0, aNode st)], seqs := [(0, 1)] }
def namedIs (n : Named) (k : Nat) : Bool := match n with | .bad => k == 0 | .completed => k == 1 | .live _ _ => k == 2

theorem test_hyps_TWAIT : namedIs ((noded .ready).named 0 (1#64 <<< 60)) 0 = true ∧ namedIs ((noded .ready).named 0 0) 1 = true ∧
    namedIs ((noded .ready).named 0 0x10000) 2 = true := by decide

/-- The launch unit has picked up the image at CONS, 0, of queue 0 of partition 0. -/
def picked : State := tables ((queued r0).modDie 0 fun d => { d with nodes := [(0, { aNode .spawned with from_ := launchKey 0 0 })] })
theorem test_hyps_OrderPointOfALaunch :
    (((noded .spawned).die 0).nodes.find? 0).map (·.launched) = some none ∧
    (picked.die 0).nodes.find? 0 = some { aNode .spawned with from_ := launchKey 0 0 } ∧
    ({ aNode .spawned with from_ := launchKey 0 0 } : Node).launched = some 0 ∧ picked.placing 0 = true ∧
    orderTurn picked { aNode .spawned with from_ := launchKey 0 0 } = true ∧ (picked.queue 0).header + 64 = 0x60040 ∧
    picked.deviceXlate 0 true 0x60040 = .ok (at_ 0x60040) ∧ picked.deviceXlate 0 false 0x60040 = .ok (at_ 0x60040) ∧
    picked.hostKeeps (0x60040 / 64) = false ∧ picked.writable (0x60040 / 64) = true ∧
    linksFree picked none (predsOf picked 0 (some 0) [] []) = true :=
  ⟨by decide, by decide, by decide, by decide, by decide, by decide, ok_of (by decide), ok_of (by decide), by decide, by decide, by decide⟩

/-- Core 0 is taken by the strand of the base state; core 1 is free. -/
theorem test_hyps_TasksAreScheduled :
    (((noded .spawned).die 0).nodes.find? 0 = some (aNode .spawned) ∧ (noded .spawned).placing 0 = true ∧ orderTurn (noded .spawned) (aNode .spawned) = true ∧
      linksFree (noded .spawned) none (predsOf (noded .spawned) 0 (some 0) [] []) = true) ∧
    ((noded .ready).placing 0 = true ∧ (noded .ready).pkg.faulted = false ∧ rateOk ((noded .ready).die 0).lastPlace (noded .ready).now 8 = true ∧
      nextPlacement (noded .ready) 0 = some ((0, 0, aNode .ready), 1)) ∧
    FitsAt (noded .ready) 0 (0, 0, aNode .ready) 1 :=
  ⟨by decide, by decide, ⟨by decide, by decide⟩⟩

/-- Strand 0's node is node 0 of die 0, and the strand has ended; its queue's header lies in mapped memory. -/
def ended : State := tables ((noded .placed).modStrand 0 fun x => { x with node := (0, 0), ended := true })
def optGet (d : State) (o : Option State) : State := o.getD d
theorem some_get {d : State} {o : Option State} (h : o.isSome = true) : o = some (optGet d o) := by
  cases o with
  | none => simp at h
  | some x => rfl

def endedNoQueue : State := ended.modDie 0 fun d => { d with nodes := [(0, { aNode .placed with queue := none })] }

theorem test_hyps_TasksComplete :
    (ended.strand? 0 = some ⟨0, (0, 0), 1, 0, 0, 0, none, true, none⟩ ∧ strandPending ended 0 ⟨0, (0, 0), 1, 0, 0, 0, none, true, none⟩ = false ∧
      (ended.die 0).nodes.find? 0 = some (aNode .placed) ∧ (ended.queue 0).header + 72 = 0x60048 ∧
      ended.deviceXlate 0 true 0x60048 = .ok (at_ 0x60048) ∧ ended.deviceXlate 0 false 0x60048 = .ok (at_ 0x60048) ∧
      ended.hostKeeps (0x60048 / 64) = false ∧ ended.writable (0x60048 / 64) = true) ∧
    (endedNoQueue.strand? 0 = some ⟨0, (0, 0), 1, 0, 0, 0, none, true, none⟩ ∧
      (endedNoQueue.die 0).nodes.find? 0 = some { aNode .placed with queue := none }) :=
  ⟨⟨by decide, by decide, by decide, by decide, ok_of (by decide), ok_of (by decide), by decide, by decide⟩, by decide⟩

/-- A launch area with one image, PROD ahead of CONS, and LAUNCH mode 0. -/
def launching (entry : Word) : State :=
  let s := tables (queued r0)
  let s := (s.modPart 0 fun p => { p with fnmode := 0 }).modQueue 0 fun q => { q with qarea := 0x60080 }
  { s with mem := (s.mem.writeN 0x60000 [1]).writeN 0x60080 (bvBytes 8 entry) }
def consVa (s : State) : Word := (s.queue 0).header + 64

theorem test_hyps_LaunchUnitTakesImages (e : Word) (h : e = 0x40000 ∨ e = 1) :
    ((launching e).part 0).launchMode = 0 ∧ ((launching e).queue 0).qctl.getLsbD 63 = true ∧
      (launching e).placing 0 = true ∧ rateOk ((launching e).queue 0).lastLaunch (launching e).now 16 = true ∧ (launching e).ownsRing 0 = true ∧
      deviceReady (launching e) 0 ((launching e).queue 0).header = true ∧ deviceReady (launching e) 0 (consVa (launching e)) = true ∧
      (∀ j < 16, deviceReady (launching e) 0 (0x60080 + BitVec.ofNat 64 (8 * j)) = true) ∧
      deviceGet (launching e) 0 ((launching e).queue 0).header ≠ deviceGet (launching e) 0 (consVa (launching e)) ∧
      (launching e).deviceXlate 0 true (consVa (launching e)) = .ok (at_ 0x60040) ∧ (launching e).writable (0x60040 / 64) = true ∧
      imageOk (launching e) 0 (Image.ofWords (deviceWords (launching e) 0 0x60080 16)) = (e == 0x40000) ∧
      nodeRoom (launching e) 0 (Image.ofWords (deviceWords (launching e) 0 0x60080 16)).ranges = true ∧
      launchBusy (launching e) 0 (launchKey (bits ((launching e).queue 0).qctl 56 3) 0) = false ∧
      linksFree (launching e) (some (bits ((launching e).queue 0).qctl 56 3)) (predsOf (launching e) 0
        (some (Image.ofWords (deviceWords (launching e) 0 0x60080 16)).queueNo) (Image.ofWords (deviceWords (launching e) 0 0x60080 16)).ranges
        (Image.ofWords (deviceWords (launching e) 0 0x60080 16)).preds) = true := by
  rcases h with rfl | rfl <;>
    exact ⟨by decide, by decide, by decide, by decide, by decide, by decide, by decide, by decide, by decide, ok_of (by decide), by decide,
      by decide, by decide, by decide, by decide⟩

/-- A copy image at offset 0 of the scratchpad: one doubleword from the placed page to offset 0x100; `ctrl` adds
fields to CTRL, `idx` is IDX. -/
def copyImg (ctrl idx : Nat) : State :=
  r0.modHere fun c => { c with sp := ((((c.sp.writeN 0 (bvBytes 8 0x40000#64)).writeN 8 (bvBytes 8 0x100#64)).writeN 16
    (bvBytes 8 (BitVec.ofNat 64 (0x403 + ctrl)))).writeN 24 (bvBytes 8 (BitVec.ofNat 64 idx))).writeN 32 (bvBytes 8 1#64) |>.writeN 56 (bvBytes 8 1#64) }
def imgOf (s : State) : CopyImage := CopyImage.read s.here (s.spOwn 0 0) 0

/-- Without and with a chunk predicate, and a gather of one row. -/
theorem test_hyps_CopiesAreIssued :
    CopyOk (copyImg 0 0) false 0 (imgOf (copyImg 0 0)) ∧ (imgOf (copyImg 0 0)).pred = 0 ∧
    CopyOk (copyImg (2 ^ 48) 0) false 0 (imgOf (copyImg (2 ^ 48) 0)) ∧ (imgOf (copyImg (2 ^ 48) 0)).pred ≠ 0 ∧
    CopyOk (copyImg 0x10 0x200) true 0 (imgOf (copyImg 0x10 0x200)) ∧ Plain (copyImg 0 0) := by
  refine ⟨⟨rfl, ?_, ?_, ?_, ?_, ?_, ?_, ?_, ?_, ?_, ?_, ?_⟩, by decide, ⟨rfl, ?_, ?_, ?_, ?_, ?_, ?_, ?_, ?_, ?_, ?_, ?_⟩, by decide,
    ⟨rfl, ?_, ?_, ?_, ?_, ?_, ?_, ?_, ?_, ?_, ?_, ?_⟩, ⟨by decide, by decide, by decide⟩⟩ <;> decide

def abortedCopy : State := r0.modHere fun c => { c with aborted := [(3, 0, 0x9000)] }

/-- The strand's copies and aborts of before its pre-emption stand on core 5. -/
def oldPark : Nat := parkUnit 0 8192 0
def oldCopy : State := r0.modCore 5 fun c => { c with copies := [{ aCopy with ctx := oldPark, handle := 3 }] }
def oldAbort : State := r0.modCore 5 fun c => { c with aborted := [(3, oldPark, 0x9000)] }
theorem test_hyps_CopiesAreAwaited2 :
    r0.parks 0 0 ≠ [] ∧ ((oldCopy.streamCopies 0 0).any fun c => (oldCopy.parks 0 0).contains c.2.ctx && c.2.handle == 3) = true ∧
    oldAbort.here.aborted.find? (fun a => a.1 == 3) = none ∧ (oldAbort.streamAborted 0 0).find? (fun a => a.2.1 == 3) = some (5, 3, 0x9000) ∧
    (r0.streamAborted 0 0).find? (fun a => a.2.1 == 3) = none := by decide

theorem test_hyps_CopiesAreAwaited :
    bits (X (xreg r0 1 (1#64 <<< 40)) 1) 32 32 ≠ 0 ∧ bits (X r0 3) 32 32 = 0 ∧
    abortedCopy.here.aborted.find? (fun a => a.1 == (X abortedCopy 3).setWidth 32) = some (3, 0, 0x9000) ∧
    (r0.here.aborted.find? (fun a => a.1 == (X r0 3).setWidth 32) = none ∧ (r0.here.copies.any fun c => c.handle == (X r0 3).setWidth 32) = false) ∧
    (copying.here.copies.any fun c => c.handle == (X (xreg copying 3 1) 3).setWidth 32) = true := by decide

/-- A copy of one doubleword from memory, or from a scratchpad into that of core `d` or into memory. -/
def chunkCopy (srck dstk : BitVec 2) (d : Nat) : Copy := { aCopy with srck := srck, dstk := dstk, dcore := d, dst := if dstk = 0 then 0x40000 else 0x100, src := if srck = 0 then 0x40000 else 0x80 }
/-- Its element: its places and its addresses. -/
def chunkElem (c : Copy) : Elem := ⟨if c.srck = 0 then .mem (at_ 0x40000) else .pad c.score 0x80,
  if c.dstk = 0 then .mem (at_ 0x40000) else .pad c.dcore 0x100, c.src, c.dst⟩
def chunked (srck dstk : BitVec 2) (d : Nat) : State := r0.modHere fun c => { c with copies := [chunkCopy srck dstk d] }

theorem test_hyps_ChunksLand (x : BitVec 2 × BitVec 2 × Nat) (h : x = (0, 1, 0) ∨ x = (2, 1, 1) ∨ x = (2, 0, 0)) :
    let c := chunkCopy x.1 x.2.1 x.2.2
    let s := chunked x.1 x.2.1 x.2.2
    (s.core 0).copies = [c] ∧ 0 < c.chunks ∧ c.landed = [] ∧ c.before = [] ∧ copyReady s 0 c = true ∧ chunkTurn c 0 = true ∧
      together c 0 = [0] ∧ c.elems 0 = [(c.src, c.dst)] ∧ s.speculative 0 0 = false ∧ s.speculative c.score 0 = false ∧
      (c.srck = 0 → copyXlate s 0 c false 0x40000 = .ok (at_ 0x40000)) ∧ (c.dstk = 0 → copyXlate s 0 c true 0x40000 = .ok (at_ 0x40000)) ∧
      earlierCopy s 0 c [chunkElem c] = false ∧ earlierBlock s 0 c [chunkElem c] = false ∧ destsReady s 0 c [chunkElem c] = true ∧
      loadWaits (copySees s 0 c) 0 0 0x40000 8 = false ∧ insideOver s 0 0 (issuedBefore c.seq) (at_ 0x40000) 8 = false ∧
      CleanAt (copySees s 0 c) 0 0 0x40000 8 ∧ remoteHome 0 (0x40000 / 64) = false ∧ ∀ x ∈ sectorsOf 0x40000 8, x ∉ s.fab.poison := by
  rcases h with rfl | rfl | rfl <;>
    exact ⟨by decide, by decide, by decide, by decide, by decide, by decide, by decide, by decide, by decide, by decide,
      fun h => (by first | exact ok_of (by decide) | exact absurd h (by decide)), fun h => (by first | exact ok_of (by decide) | exact absurd h (by decide)),
      by decide, by decide, by decide, by decide, by decide, by decide, by decide, by decide⟩

def landedCopy : State := r0.modHere fun c => { c with copies := [{ aCopy with landed := [0] }] }
def faultyCopy : Copy := { aCopy with srck := 0, src := 0x9000000 }
def faulting : State := r0.modHere fun c => { c with copies := [faultyCopy] }

theorem test_hyps_CopiesEnd :
    ((landedCopy.core 0).copies.find? (fun x => x.handle == 1) = some { aCopy with landed := [0] } ∧ [0].length = aCopy.chunks) ∧
    ((faulting.core 0).copies.find? (fun x => x.handle == 1) = some faultyCopy ∧ copyReady faulting 0 faultyCopy = true ∧
      faulting.speculative 0 0 = false ∧ (chunkFault faulting 0 faultyCopy 0).isSome = true) := by decide

/-- The partition has a POD; X4 and X5 are the pair 0x50000 of package `k`. -/
def paired (k : Word) : State :=
  xreg (xreg ((tables r0).modPart 0 fun p => { p with podpair := 0x8000000000000000 }) 4 0x50000) 5 k
def myPkg : Word := BitVec.ofNat 64 r0.pkg.id
def pairedReply (ok : Bool) : State := (paired 9).modMe fun x => { x with reply := some (7, ok) }
/-- Station 0 is up: another package is reached through it. -/
def linked : State := (paired 9).modPkg fun p => { p with link := p.link ||| 1#64 <<< 38 }

theorem pairBits (k : Word) (h : k = 9 ∨ k = myPkg) : PairBits (paired k) 4 8 := by
  rcases h with rfl | rfl <;> exact ⟨by decide, by decide, by decide⟩
theorem pairHere (w : Bool) : PairHere (paired myPkg) 4 8 w (at_ 0x50000) := by
  cases w <;> exact ⟨by decide, ok_of (by decide), by decide, by decide, by decide, by decide, by decide, by decide⟩

theorem test_hyps_RemoteOperationsHere :
    Plain (paired myPkg) ∧ PairOk (paired myPkg) 4 8 0 ∧ NoReply (paired myPkg) ∧ PairHere (paired myPkg) 4 8 false (at_ 0x50000) ∧
      PairHere (paired myPkg) 4 8 true (at_ 0x50000) ∧ (paired myPkg).hostKeeps (0x50000 / 64) = false ∧
      (paired myPkg).writable (0x50000 / 64) = true ∧ (paired myPkg).deviceXlate 0 false (X (paired myPkg) 4) = .ok (at_ 0x50000) ∧
      (paired myPkg).fab.poison.contains (0x50000 / 16) = false :=
  ⟨⟨by decide, by decide, by decide⟩, ⟨pairBits _ (.inr rfl), by decide⟩, ⟨by decide, by decide⟩, pairHere false, pairHere true,
    by decide, by decide, ok_of (by decide), by decide⟩

theorem test_hyps_RemoteOperationsElsewhere :
    (Plain (pairedReply true) ∧ PairBits (pairedReply true) 4 8 ∧ (pairedReply true).me.reply = some (7, true)) ∧
    (PairBits (pairedReply false) 4 8 ∧ (pairedReply false).me.reply = some (7, false)) ∧
    (PairBits r0 4 8 ∧ NoReply r0 ∧ podOf r0 0 0 = none) ∧
    (PairBits (paired 9) 4 8 ∧ NoReply (paired 9) ∧ podOf (paired 9) 0 0 = some 0 ∧ (X (paired 9) (pairReg 4)).toNat ≠ (paired 9).pkg.id ∧
      (paired 9).pkg.route (X (paired 9) (pairReg 4)).toNat (X (paired 9) 4) = none) ∧
    (PairBits linked 4 8 ∧ NoReply linked ∧ podOf linked 0 0 = some 0 ∧ (X linked (pairReg 4)).toNat ≠ linked.pkg.id ∧
      linked.pkg.route (X linked (pairReg 4)).toNat (X linked 4) = some 0) :=
  ⟨⟨⟨by decide, by decide, by decide⟩, ⟨by decide, by decide, by decide⟩, by decide⟩, ⟨⟨by decide, by decide, by decide⟩, by decide⟩,
    ⟨⟨by decide, by decide, by decide⟩, ⟨by decide, by decide⟩, by decide⟩,
    ⟨pairBits 9 (.inl rfl), ⟨by decide, by decide⟩, by decide, by decide, by decide⟩,
    ⟨⟨by decide, by decide, by decide⟩, ⟨by decide, by decide⟩, by decide, by decide, by decide⟩⟩

/-- A descriptor of eight doublewords at 0x50000, whose lines are at hand. -/
def described (s : State) (l : List (Nat × Nat)) : State :=
  withLine (xreg { s with mem := l.foldl (fun m x => m.writeN (0x50000 + 8 * x.1) (bvBytes 8 (BitVec.ofNat 64 x.2))) s.mem } 1 0x50000) 0x1400
def rdesc : State := described (paired myPkg) [(0, 0x52000), (1, 0x53000), (2, 8), (3, r0.pkg.id)]
def rwords : List Word × State := okGet ([], rdesc) (readWords rdesc (X rdesc 1) 8)
def rdescBad : State := described (paired myPkg) [(6, 1)]
def rwordsBad : List Word × State := okGet ([], rdescBad) (readWords rdescBad (X rdescBad 1) 8)
def rdescFar : State := described linked [(0, 0x52000), (1, 0x53000), (2, 8), (3, 9)]
def rwordsFar : List Word × State := okGet ([], rdesc) (readWords rdescFar (X rdescFar 1) 8)
def anRcopy (pkg : Nat) (flag : Word) : RCopy := ⟨0, 0x52000, 0x53000, 8, pkg, flag, 7, [0], false, 0, none, 0, 0⟩
def rcopied (pkg : Nat) (flag : Word) : State := (tables r0).modMe fun x => { x with rcopies := [anRcopy pkg flag] }
def servedOk (r : Served) : Bool := match r with | .ok _ _ _ => true | _ => false

theorem test_hyps_RemoteCopies :
    (Plain rdesc ∧ Described rdesc (X rdesc 1) 8 rwords.1 rwords.2 ∧ rcopyTrap rwords.1 (X rwords.2 1) = none ∧
      (rwords.2.me.rcopies.filter fun r => !r.orphan).length < 8 ∧ (podOf rwords.2 0 0).isSome = true ∧ (rwords.1.getD 3 0).toNat = rwords.2.pkg.id) ∧
    (Described rdescBad (X rdescBad 1) 8 rwordsBad.1 rwordsBad.2 ∧ rcopyTrap rwordsBad.1 (X rwordsBad.2 1) = some trapOperand) ∧
    (podOf r0 0 0 = none ∧ (r0.me.rcopies.filter fun r => !r.orphan).length < 8) ∧ (paired 9).pkg.route 9 0x53000 = none ∧
    (((rcopied 0 0).ctx 0 0).rcopies.find? (fun r => r.id == 0) = some (anRcopy 0 0) ∧ (anRcopy 0 0).chunks ≤ (anRcopy 0 0).landed.length ∧
      faultOpen (rcopied 0 0) (.rcopy 0 0 0) = false ∧ flagReady (rcopied 0 0) 0 0 (anRcopy 0 0) = true) ∧
    (((rcopied 9 0x54000).ctx 0 0).rcopies.find? (fun r => r.id == 0) = some (anRcopy 9 0x54000) ∧ 9 ≠ (rcopied 9 0x54000).pkg.id ∧
      (linked.pkg.route 9 0x54000).isSome = true ∧ flagReady (rcopied 9 0x54000) 0 0 (anRcopy 9 0x54000) = true) ∧
    ((rdescFar.pkg.route 9 0x53000).isSome = true ∧ Described rdescFar (X rdescFar 1) 8 rwordsFar.1 rwordsFar.2 ∧ rcopyTrap rwordsFar.1 (X rwordsFar.2 1) = none) ∧
    (((rcopied r0.pkg.id 0x54000).ctx 0 0).rcopies.find? (fun r => r.id == 0) = some (anRcopy r0.pkg.id 0x54000) ∧
      (rcopied r0.pkg.id 0x54000).deviceXlate 0 true 0x54000 = .ok (at_ 0x54000) ∧ (rcopied r0.pkg.id 0x54000).writable (0x54000 / 64) = true) :=
  ⟨⟨⟨by decide, by decide, by decide⟩, ⟨by decide, ok_get (d := ([], rdesc)) (by decide)⟩, by decide, by decide, by decide, by decide⟩,
    ⟨⟨by decide, ok_get (d := ([], rdescBad)) (by decide)⟩, by decide⟩, by decide, by decide, by decide, by decide,
    ⟨by decide, ⟨by decide, ok_get (d := ([], rdesc)) (by decide)⟩, by decide⟩, ⟨by decide, ok_of (by decide), by decide⟩⟩

/-- An RCOPY whose one chunk has yet to land, to this package and to package 9. -/
def flying (pkg : Nat) : State := linked.modMe fun x => { x with rcopies := [{ anRcopy pkg 0 with landed := [] }] }
theorem test_hyps_RemoteChunksLand (pkg : Nat) (h : pkg = 9 ∨ pkg = r0.pkg.id) :
    let s := flying pkg
    let r : RCopy := { anRcopy pkg 0 with landed := [] }
    (s.ctx 0 0).rcopies.find? (fun r => r.id == 0) = some r ∧ 0 < r.chunks ∧ r.landed.contains 0 = false ∧ faultOpen s (.rcopy 0 0 0) = false ∧
      rcopySources s 0 0 (r.src + 4096 * 0) (r.chunkLen 0 / 8) = .ok [at_ 0x52000] ∧ rcopyReady s 0 0 r [at_ 0x52000] = true ∧
      rcopyBehind s 0 0 r 0 = false ∧ CleanAt (seesFrom s 0 0 r.leg) 0 0 0x52000 8 ∧ (s.pkg.route 9 0x53000).isSome = true ∧
      pieceTargets (s.fillPage 0 0 0x52000) (s.issuePart 0 0) true (pieces 0x53000 (view s 0 0 0x52000 8)) =
        .ok [(at_ 0x53000, view s 0 0 0x52000 8)] ∧ s.writable (0x53000 / 64) = true := by
  rcases h with rfl | rfl <;>
    exact ⟨by decide, by decide, by decide, by decide, ok_of (by decide), by decide, by decide, by decide, by decide, ok_of (by decide), by decide⟩

def roped (store : Bool) : State := r0.modMe fun x => { x with rops := [⟨4, store⟩] }

theorem test_hyps_RemoteAnswers :
    (∀ st ∈ [true, false], ((roped st).ctx 0 0).rops.find? (fun r => r.id == 4) = some ⟨4, st⟩) ∧
    (((roped true).ctx 0 0).rops.find? (fun r => r.id == 4 && r.store) = some ⟨4, true⟩ ∧ ((roped true).ctx 0 0).rcopies = []) ∧
    (faultOpen r0 (.remote 9) = false ∧ r0.pkg.faulted = false ∧ pairedPart r0 5 = none) ∧
    (pairedPart (paired 9) 0 = some 0 ∧ servedOk (serve (paired 9) (.remote 9) 0 0x50000 (.load 3)) = true) := by decide

/-- An RSTORE of the strand on its own package is on its way to its home. -/
def anInside : Sent := ⟨0, 0, 4, r0.pkg.id, 0, 0, 0x50000, .store 3 7, 0, 0⟩
def insided : State := (paired 9).modPkg fun p => { p with inside := [anInside] }
theorem test_hyps_RemoteAnswers2 : insideFor insided anInside.va (.store 3 7) = some anInside ∧ insided.pkg.faulted = false ∧
    faultOpen insided (.inside 0 0 4) = false ∧ insided.deviceXlate (insided.issuePart 0 0) true 0x50000 = .ok (at_ 0x50000) ∧
    insided.writable (0x50000 / 64) = true ∧ insided.hostKeeps (0x50000 / 64) = false ∧
    insided.deviceXlate (insided.issuePart 0 0) false 0x50000 = .ok (at_ 0x50000) ∧ insided.fab.poison.contains (0x50000 / 16) = false :=
  ⟨by decide, by decide, by decide, ok_of (by decide), by decide, by decide, ok_of (by decide), by decide⟩

/-- A group of the one core 0, its list at 0x51000, and a broadcast from it of one doubleword. -/
def grouped : State :=
  let s := described r0 [(0, 1 + 6 * 2 ^ 16 + 2 ^ 48), (1, 0x40000), (2, 0x40100)]
  withLine (withLine (s.modPart 0 fun p => { p with grpctl := [(0, 0x8000000000000000)], grplist := [(0, 0x51000)] }) 0x1440) 0x1000
def cwords : List Word × State := okGet ([], grouped) (readWords grouped (X grouped 1) 8)
def cdesc : CollDesc := CollDesc.ofWords cwords.1
def clist : List Word × State := okGet ([], grouped) (readWords cwords.2 0x51000 1)
def cdata : List Byte × State := okGet ([], grouped) (readSource clist.2 cdesc.src cdesc.size cdesc.count)

theorem test_hyps_COLL : Plain grouped ∧ orderedAt grouped 3 = true ∧ Described grouped (X grouped 1) 8 cwords.1 cwords.2 ∧
    CollOk cwords.2 3 cdesc [0] cdata.1 cdata.2 :=
  ⟨⟨by decide, by decide, by decide⟩, by decide, ⟨by decide, ok_get (d := ([], grouped)) (by decide)⟩,
    ⟨by decide, by decide, by decide, by decide, by decide,
      ⟨clist.1, clist.2, ok_get (d := ([], grouped)) (by decide), by decide, by decide, by decide, by decide, by decide,
        ok_get (d := ([], grouped)) (by decide)⟩⟩⟩

/-- A member of a gathering of one doubleword, of core `me` of `members`. -/
def aColl (me : Nat) (members : List Nat) : Coll :=
  { (default : Coll) with handle := 3, scope := 3, kind := 3, ty := 6, count := 1, me := me, members := members, data := [1, 2, 3, 4, 5, 6, 7, 8], dst := 0x40100 }
def one : Coll := aColl 0 [0]
def colled (k : Coll) : State := r0.modMe fun x => { x with colls := [k] }
def part1 : Word × List Byte := (one.word, [1, 2, 3, 4, 5, 6, 7, 8])

theorem test_hyps_Collectives :
    (streamColls r0).find? (fun k => k.handle == X r0 3) = none ∧
    ∀ k ∈ [one, { one with mismatch := true }, { one with failed := true }],
      (streamColls (colled k)).find? (fun k => k.handle == X (colled k) 3) = some k ∧ k.scope = 3 := by decide

/-- What the members of a list of one or two bring, each by its check. -/
def partIs (here : List (Nat × Nat × Coll)) (others : List (Nat × Option (Word × List Byte))) (pkg : Bool) (part : Option (Word × List Byte))
    (i id : Nat) : Bool :=
  match memberNamed here id with
  | some x => decide (part = some (x.2.2.word, x.2.2.data))
  | none => pkg && match others.find? fun x => x.1 == i with
    | some x => decide (part = x.2.map fun y => (agreeWord y.1, y.2))
    | none => false
theorem partIs_spec {here : List (Nat × Nat × Coll)} {others : List (Nat × Option (Word × List Byte))} {pkg : Bool}
    {part : Option (Word × List Byte)} {i id : Nat} (h : partIs here others pkg part i id = true) :
    (∀ x, memberNamed here id = some x → part = some (x.2.2.word, x.2.2.data)) ∧
    (memberNamed here id = none → pkg = true ∧ ∃ x, others.find? (fun x => x.1 == i) = some x ∧ part = x.2.map fun y => (agreeWord y.1, y.2)) := by
  unfold partIs at h
  split at h
  · rename_i x hx
    rw [hx]
    exact ⟨fun y hy => by cases hy; exact of_decide_eq_true h, nofun⟩
  · rename_i hx
    refine ⟨fun y hy => absurd hy (by rw [hx]; nofun), fun _ => ?_⟩
    rw [Bool.and_eq_true] at h
    refine ⟨h.1, ?_⟩
    have h2 := h.2
    split at h2
    · rename_i y hy
      exact ⟨y, hy, of_decide_eq_true h2⟩
    · cases h2
theorem partsAre_of {k : Coll} {here : List (Nat × Nat × Coll)} {others : List (Nat × Option (Word × List Byte))}
    {parts : List (Option (Word × List Byte))} (h : parts.length = k.members.length)
    (h2 : ((k.members.zip parts).zipIdx.all fun y => partIs here others k.pkg y.1.2 y.2 y.1.1) = true) : PartsAre k here others parts := by
  refine ⟨h, fun i id hi => ?_⟩
  have li : i < k.members.length := (List.getElem?_eq_some_iff.1 hi).1
  have hid : k.members[i] = id := (List.getElem?_eq_some_iff.1 hi).2
  have hp : parts[i]? = some parts[i] := List.getElem?_eq_getElem (h ▸ li)
  have key := partIs_spec (List.all_eq_true.1 h2 ((id, parts[i]), i) (by
    rw [List.mem_zipIdx_iff_getElem?, List.getElem?_zip_eq_some]
    exact ⟨hi, hp⟩))
  refine ⟨fun x hx => ?_, fun hn => ⟨(key.2 hn).1, ?_⟩⟩
  · rw [hp]; exact congrArg some (key.1 x hx)
  · obtain ⟨x, h3, h4⟩ := (key.2 hn).2
    exact ⟨x, h3, by rw [hp]; exact congrArg some h4⟩

/-- Two members of one collective, on cores 0 and 1, the second with COUNT `n`. -/
def two (n : BitVec 16) : State :=
  (colled (aColl 0 [0, 1])).modCtx 1 0 fun x => { x with colls := [{ aColl 1 [0, 1] with count := n }] }
def hereOf (n : BitVec 16) : List (Nat × Nat × Coll) := [(0, 0, aColl 0 [0, 1]), (1, 0, { aColl 1 [0, 1] with count := n })]
/-- Package 1 of packages 0 and 1, and what package 0 brings: bytes, or it cannot be reached. -/
def podColl : Coll := { aColl 1 [0, 1] with pkg := true }

theorem test_hyps_CollectivesComplete :
    joinedColls (colled one) 0 0 0 = (0, 0, one) :: [] ∧ PartsAre one [(0, 0, one)] [] [some part1] ∧
    (∀ y ∈ [part1], y.1 = one.word) ∧ lengthsOk one [part1.2] = true ∧
    passes (putResults (colled one) [((0, 0, one), [part1])]) = true ∧
    -- a barrier
    PartsAre { one with kind := 0, data := [] } [(0, 0, { one with kind := 0, data := [] })] [] [some ({ one with kind := 0 }.word, [])] ∧
    -- a package that cannot be reached
    PartsAre podColl [(0, 0, podColl)] [(0, none)] [none, some part1] ∧ PartsAre podColl [(0, 0, podColl)] [(0, some part1)] [some part1, some part1] :=
  ⟨by decide, partsAre_of rfl (by decide), by decide, by decide, by decide, partsAre_of rfl (by decide), partsAre_of rfl (by decide),
    partsAre_of rfl (by decide)⟩

theorem test_hyps_CollectivesDisagree :
    joinedColls (two 2) 0 0 0 = hereOf 2 ∧
    (∀ x ∈ hereOf 2, PartsAre x.2.2 (hereOf 2) [] [some part1, some ({ one with count := 2 }.word, part1.2)]) ∧ ({ one with count := 2 }.word ≠ one.word) := by
  refine ⟨by decide, fun x hx => ?_, by decide⟩
  simp only [hereOf, List.mem_cons, List.not_mem_nil, or_false] at hx
  rcases hx with rfl | rfl <;> exact partsAre_of rfl (by decide)

/-- Two doublewords at 0x40100: written, or held back while a lease on their line is out. -/
theorem test_hyps_ResultsArePut :
    0 < tyBytes (one.ty.setWidth 5) ∧ (List.replicate 16 (1 : Byte)).length = 2 * tyBytes (one.ty.setWidth 5) ∧
    (∀ i < 2, (colled one).translate 0 0 false .engine true (0x40100 + BitVec.ofNat 64 (8 * i)) = .ok (at_ (0x40100 + 8 * i))) ∧
    (∀ i < 2, (colled one).writable ((0x40100 + 8 * i) / 64) = true) ∧
    ((colled one).modFab fun f => { f with leases := [(0x40100 / 64, 1000)] }).writable (0x40100 / 64) = false := by
  refine ⟨by decide, by decide, fun i hi => ?_, by decide, by decide⟩
  rcases (by omega : i = 0 ∨ i = 1) with rfl | rfl <;> exact ok_of (by decide)

/-- Types of the steps of a reduction. -/
theorem test_hyps_ReductionSteps : (6 : BitVec 5).toNat < 8 ∧ 5 < 2 ^ tyBits 6 ∧ ((10 : BitVec 5) = 10 ∨ (10 : BitVec 5) = 11) := by decide

/-- The sequencer of core 0 at a word of a block whose shape is `rows` x `cols`, with X1 to X3 as in `regs`. -/
def vec (rows : BitVec 5) (cols : BitVec 11) : State :=
  (blkS 0x0500000000000000).modHere fun c => { c with lines := (upTo 8).map fun k => lineIn (0x1000 + k) .M, seq := { c.seq with fq := c.seq.fq.map fun e =>
    { e with vrows := rows, vcols := cols, x := vset (vset (vset e.x 1 0x40000) 2 64) 3 3 } } }
def v0 : State := vec 1 32
/-- Fields: V1 from V2 and V3 in type `ty`, under no predicate. -/
def fld (ty : BitVec 5) : BlockFields := { fz with vd := 1, va := 2, vb := 3, ty := ty }
def sxFld (ty : BitVec 5) : BlockFields := { fld ty with vb := 0, vc := 3, func := 1 }

/-- IntegerLanes, MultiplyAdd, CarriesThroughPredicates, Comparisons: vectors and a scalar as second source. -/
theorem test_hyps_IntegerWords :
    isInt (fld 5).ty = true ∧ WordReady v0 (fld 5) (5 :: 5 :: (binSrcs (fld 5)).map (·.2)) ((1, 5) :: binSrcs (fld 5)) ∧
      WordReady v0 (fld 5) (5 :: (binSrcs (fld 5)).map (·.2)) (binSrcs (fld 5)) ∧ WordReady v0 (fld 5) [5] [(2, 5), (3, 5)] ∧
      WordReady v0 (sxFld 5) (5 :: (binSrcs (sxFld 5)).map (·.2)) (binSrcs (sxFld 5)) ∧ bits (fld 5).func 1 3 < 6 :=
  ⟨by decide, ⟨by decide, by decide, by decide⟩, ⟨by decide, by decide, by decide⟩, ⟨by decide, by decide, by decide⟩,
    ⟨by decide, by decide, by decide⟩, by decide⟩

/-- FloatingPointLanes and Comparisons: f32, and a quiet NaN. -/
theorem test_hyps_FloatWords :
    isFloat (fld 10).ty = true ∧ WordReady v0 (fld 10) (10 :: 10 :: (binSrcs (fld 10)).map (·.2)) ((1, 10) :: binSrcs (fld 10)) ∧
      WordReady v0 (fld 10) (10 :: (binSrcs (fld 10)).map (·.2)) (binSrcs (fld 10)) ∧ WordReady v0 (fld 10) [10, 10] [(2, 10)] ∧
      ((inputOf v0 (fld 10) 0x7FC00000).1.isNan || (inputOf v0 (fld 10) 0).1.isNan) = true :=
  ⟨by decide, ⟨by decide, by decide, by decide⟩, ⟨by decide, by decide, by decide⟩, ⟨by decide, by decide, by decide⟩, by decide⟩

/-- LaneChoices: VSEL, VBCAST and VIOTA. -/
theorem test_hyps_SelectsAndBroadcasts : isMx (fld 5).ty = false ∧ WordReady v0 (fld 5) [5] [] := ⟨by decide, ⟨by decide, by decide, by decide⟩⟩

/-- ConversionsAndQuantisation: i32 to f32, MXFP8 to f32, f32 to MXFP8. -/
theorem test_hyps_Conversions :
    WordReady v0 { fld 10 with func := 4 } [10, 4] [(2, 4)] ∧ WordReady v0 { fld 10 with func := 12 } [10, 12] [(2, 12)] ∧
      mixedBlock v0.vc { fld 10 with func := 12 } 10 (laneCount v0 { fld 10 with func := 12 }) = false ∧
      WordReady v0 { fld 12 with func := 10 } [12, 10] [(2, 10)] ∧ isMx (fld 12).ty = true ∧ WholeWord v0 ∧
      vget v0.vc.prog 128 (fld 12).vd.toNat = 128 ∧ mixedBlock v0.vc { fld 12 with func := 10 } 12 (laneCount v0 { fld 12 with func := 10 }) = false :=
  ⟨⟨by decide, by decide, by decide⟩, ⟨by decide, by decide, by decide⟩, by decide, ⟨by decide, by decide, by decide⟩, by decide, ⟨rfl, rfl, rfl⟩, rfl, by decide⟩

/-- A block with an infinity, and one of finite values within the range of the scale. -/
theorem test_hyps_Quantisation :
    ([FVal.inf false, .fin false 1 0].any fun x => !x.isFin) = true ∧ ([FVal.fin false 3 0, .fin true 1 2].any fun x => !x.isFin) = false ∧
      (∀ e ∈ [FVal.fin false 3 0, .fin true 1 2].filterMap topExp, -127 + emaxOf 12 ≤ e ∧ e ≤ 127 + emaxOf 12) ∧
      [FVal.fin false 3 0, .fin true 1 2].filterMap topExp ≠ [] := by decide

/-- NumberRules: a common power of two, its square, and a cut of at least one bit; a power of two with its exponent, and a
result of two more bits than f32 keeps. -/
theorem test_hyps_NumberRules : ((-3 : Int) ≤ 0 ∧ (-3 : Int) ≤ 2 ∧ (-3 : Int) + -3 ≤ 1) ∧ 0 < 1 ∧ (5 : Nat) ≠ 0 ∧
    (signedAt 0 false 5 3 = 40 * 2 ^ (-(0 : Int)).toNat ∧ (0 : Int) ≤ 3 ∧ -2 ^ 14 < (40 : Int) ∧ (40 : Int) < 2 ^ 14) ∧ 2 ^ (fmtF32.mb + 1) ≤ 2 ^ 24 := by decide

/-- LesserAndGreater, ClassesOfNumbers: a quiet NaN, infinity, a normal and a subnormal number, and a zero of f32. -/
theorem test_hyps_FloatClasses : isFloat 10 = true ∧ (elemValue 10 0x7FC00000).isNan = true ∧ (elemValue 10 0x3F800000).isNan = false ∧
    (elemValue 10 0).isZero = true ∧ (fmtOf 10).infCode < 0x7FC00000 ∧ (fmtOf 10).infCode = 0x7F800000 ∧ 2 ^ (fmtOf 10).mb ≤ 0x3F800000 ∧ 5 < 2 ^ (fmtOf 10).mb := by decide

/-- ConversionsOfElements: i32 to u8, f32 and MXFP8; f32 values, a NaN and an infinity; and one of at least twice the largest
value of fp8 E4M3. -/
theorem test_hyps_ConversionsOfElements : isInt 4 = true ∧ isInt 1 = true ∧ tyBits 1 < tyBits 4 ∧ isFloat 10 = true ∧ isQ 19 = true ∧
    inValue false 10 0x7FC00000 = (.nan false, 0) ∧ inValue false 10 0x7F800000 = (.inf false, 0) ∧
    inValue false 10 0x3F800000 = (.fin false 0x800000 (-23), 0) ∧ (fmtOf 19).value (fmtOf 19).maxCode = .fin false 14 5 ∧
    2 * signedAt (-23) false 14 5 ≤ signedAt (-23) false 0x800000 (-13) := by decide

/-- MovesOfElementsAndScales, on u32 and on MXFP8 elements; VPERM's indices; a square for VXPOSE. -/
theorem test_hyps_Moves :
    MoveReady v0 (fld 5) ∧ MoveReady v0 (fld 12) ∧ (permShape (blockShape v0 (fld 5)) 5).bad (permType 5) = false ∧
      poisoned v0.vc (permShape (blockShape v0 (fld 5)) 5) [(3, permType 5)] (unitOn v0.vc (fld 5)) = false ∧
      (xOperand v0 { fld 12 with vc := 2 }).toNat % 32 = 0 ∧
      MoveReady (vec 4 4) (fld 5) ∧ (blockShape (vec 4 4) (fld 5)).rows = (blockShape (vec 4 4) (fld 5)).cols ∧
      shapeTrap (blockShape v0 (fld 5)) [5] = false ∧ (blockShape v0 (fld 5)).rows ≤ 16 :=
  ⟨⟨by decide, by decide, by decide⟩, ⟨by decide, by decide, by decide⟩, by decide, by decide, by decide, ⟨by decide, by decide, by decide⟩,
    by decide, by decide, by decide⟩

/-- A core in a leg of a FORK region, and one whose forward buffer is full. -/
def vecLeg : State := (v0.modStrand 0 fun x => { x with region := some (reg0 false) }).modHere fun c => { c with leg := some (leg0 0 0) }
def received : State := v0.modHere fun c => c.setXbuf true (some ⟨0, 0, 0⟩)

theorem test_hyps_Exchanges :
    exchangeIllegal vecLeg = true ∧
    (exchangeIllegal v0 = false ∧ shapeTrap (blockShape v0 (fld 5)) [5] = false ∧
      (isMx (fld 5).ty && mixedBlock v0.vc (fld 5) 5 (laneCount v0 (fld 5))) = false ∧
      (v0.core (neighbour v0 true)).xbuf true = none ∧ v0.vaulting (neighbour v0 true) = false ∧ v0.here.xbuf true = none) ∧
    (exchangeIllegal received = false ∧ received.here.xbuf true = some ⟨0, 0, 0⟩ ∧ (blockShape received (fld 5)).rows ≤ 16) :=
  ⟨by decide, by decide, by decide, rfl, by decide⟩

theorem test_hyps_Reductions :
    WholeWord v0 ∧ WordReady v0 (fld 5) [5] [(2, 5)] ∧ 0 < laneCount v0 (fld 5) ∧ elemBad (v0.vc.poi 3) (blockShape v0 (fld 5)) 5 0 = false ∧
      WordReady v0 (fld 10) [10] [(2, 10)] ∧ 0 < laneCount v0 (fld 10) ∧ elemBad (v0.vc.poi 3) (blockShape v0 (fld 10)) 10 0 = false ∧ 0 < [some 3, none].length :=
  ⟨⟨rfl, rfl, rfl⟩, ⟨by decide, by decide, by decide⟩, by decide, by decide, ⟨by decide, by decide, by decide⟩, by decide, by decide, by decide⟩

def looping (n : Word) : State := v0.modHere fun c => { c with seq := { c.seq with loops := vset c.seq.loops 1 n } }
def replyFull : State := v0.modHere fun c => { c with seq := { c.seq with reply := List.replicate 16 0 } }

theorem test_hyps_BlockControlAndReplies :
    1 < (vget (looping 2).here.seq.loops 0 1).toNat ∧ (vget (looping 1).here.seq.loops 0 1).toNat ≤ 1 ∧
      (∃ j < predCount v0, govOn v0.vc fz j = true) ∧ (∀ j < predCount v0, govOn v0.vc { fz with pm := 1 } j = false) ∧
      16 ≤ replyFull.here.seq.reply.length ∧ v0.here.seq.reply.length < 16 ∧ elemBad (v0.vc.poi 2) (blockShape v0 (fld 5)) 5 0 = false ∧
      laneCount v0 { fld 5 with vc := 2, func := 1 } ≤ (xOperand v0 { fld 5 with vc := 2, func := 1 }).toNat := by
  refine ⟨by decide, by decide, ⟨0, by decide, by decide⟩, fun j _ => ?_, by decide, by decide, by decide, by decide⟩
  have h : v0.vc.pred 1#5 = 0#8192 := rfl
  simp [govOn, h, fz]

/-! ## Vector accesses -/

/-- What an answer of a check holds, if it passes. -/
def okAll {ε α : Type} (r : Except ε α) (p : α → Bool) : Bool := match r with | .ok x => p x | .error _ => true
theorem all_ok {ε α : Type} {r : Except ε α} {p : α → Bool} (h : okAll r p = true) : ∀ x, r = .ok x → p x = true := by
  intro x hx; subst hx; exact h

theorem mapped_of {a : Access} {s : State} {n : Nat} {w : Bool} {tg : Nat → Target}
    (h : ((List.range n).all fun j => !a.on j || (decide ((a.va j).toNat % 64 + a.size ≤ 64) &&
      okIs (s.xlate s.cur.unit 0 (if w then .store else .load) w (a.va j)) (tg j))) = true) : a.mapped s n w tg := by
  intro j hj hon
  have := List.all_eq_true.1 h j (List.mem_range.2 hj)
  simp only [hon, Bool.not_true, Bool.false_or, Bool.and_eq_true, decide_eq_true_eq] at this
  exact ⟨this.1, ok_of this.2⟩

theorem goes_of {a : Access} {s : State} {n : Nat} {lane : Nat → Nat} {tg : Nat → Target}
    (h : (let r := a.paged s n
      (List.range n).all fun j => !a.on j || (!vecLoadWaits r (lane j) ⟨tg j, 0, a.size⟩ &&
        s.here.lines.any fun x => x.live ((tg j).pa / 64) s.time)) = true)
    (h2 : s.cacheBarred s.cur.unit = false ∧ s.cacheOff s.cur.unit = false) : a.goes s n lane tg := by
  have key (j : Nat) (hj : j < n) (hon : a.on j = true) := List.all_eq_true.1 h j (List.mem_range.2 hj)
  refine ⟨fun j hj hon => ?_, fun j hj hon _ => ⟨h2.1, .inl ⟨h2.2, ?_⟩⟩⟩ <;> have := key j hj hon <;>
    simp only [hon, Bool.not_true, Bool.false_or, Bool.and_eq_true, Bool.not_eq_true'] at this
  · exact this.1
  · exact this.2
theorem free_of {a : Access} {s : State} {tg : Nat → Target}
    (h : (let r := a.paged s a.count
      (List.range a.count).all fun j => !a.on j || (!copyReads r s.cur.unit 0 (r.blockEarlier s.cur.unit) (tg j).pa a.size &&
        !insideOver r s.cur.unit 0 (r.blockEarlier s.cur.unit) (tg j) a.size && (tg j).attr != .device && s.owns s.cur.unit ((tg j).pa / 64))) = true)
    (h2 : s.cacheBarred s.cur.unit = false) : a.free s tg ∧ a.addFree s tg := by
  have clear : a.clear s tg ∧ ∀ j < a.count, a.on j = true → s.owns s.cur.unit ((tg j).pa / 64) = true := by
    refine ⟨fun j hj hon => ?_, fun j hj hon => ?_⟩ <;> have := List.all_eq_true.1 h j (List.mem_range.2 hj) <;>
      simp only [hon, Bool.not_true, Bool.false_or, Bool.and_eq_true, Bool.not_eq_true', bne_iff_ne] at this
    · exact ⟨this.1.1.1, this.1.1.2, fun hd => absurd hd this.1.2⟩
    · exact this.2
  exact ⟨⟨clear.1, fun j hj hon _ => ⟨h2, fun _ => clear.2 j hj hon⟩⟩, clear.1⟩

/-- Eight elements of u32 at the placed page, whose addresses are `step` apart from `at0` on. -/
def v8 : State := vec 1 8
def mem (func : BitVec 9) (ty : BitVec 5) : BlockFields := { fld ty with vc := 1, func := func }
def tgs (d : Nat) (j : Nat) : Target := at_ (0x40000 + d * j)

theorem test_hyps_VectorLoads :
    Direct v8 ∧ LoadChecks v8 (mem 0 5) false ∧ isMx (mem 0 5).ty = false ∧ isScl (mem 0 5) = false ∧
      (elemAccess v8 (mem 0 5)).mapped v8 (elemAccess v8 (mem 0 5)).count false (tgs 4) ∧
      (elemAccess v8 (mem 0 5)).clean v8 (elemAccess v8 (mem 0 5)).count (tgs 4) ∧
      (elemAccess v8 (mem 0 5)).goes v8 (elemAccess v8 (mem 0 5)).count (laneGroup v8 (mem 0 5)) (tgs 4) :=
  ⟨⟨by decide, by decide⟩, ⟨by decide, by decide, by decide, by decide⟩, by decide, by decide, mapped_of (by decide),
    by unfold Access.clean; decide, goes_of (by decide) (by decide)⟩

theorem test_hyps_VectorLoads_blocks :
    Direct v0 ∧ LoadChecks v0 (mem 0 12) false ∧ isMx (mem 0 12).ty = true ∧
      (blockAccess v0 (mem 0 12)).mapped v0 (blockAccess v0 (mem 0 12)).count false (tgs 32) ∧
      (blockAccess v0 (mem 0 12)).clean v0 (blockAccess v0 (mem 0 12)).count (tgs 32) ∧
      (blockAccess v0 (mem 0 12)).goes v0 (blockAccess v0 (mem 0 12)).count (mxGroup v0 (mem 0 12)) (tgs 32) ∧
    LoadChecks v0 (mem 16 18) false ∧ isScl (mem 16 18) = true ∧
      (scaleAccess v0 (mem 16 18)).mapped v0 (scaleAccess v0 (mem 16 18)).count false (tgs 1) ∧
      (scaleAccess v0 (mem 16 18)).clean v0 (scaleAccess v0 (mem 16 18)).count (tgs 1) ∧
      (scaleAccess v0 (mem 16 18)).goes v0 (scaleAccess v0 (mem 16 18)).count (fun _ => 0) (tgs 1) :=
  ⟨⟨by decide, by decide⟩, ⟨by decide, by decide, by decide, by decide⟩, by decide, mapped_of (by decide),
    by unfold Access.clean; decide, goes_of (by decide) (by decide), ⟨by decide, by decide, by decide, by decide⟩, by decide, mapped_of (by decide),
    by unfold Access.clean; decide, goes_of (by decide) (by decide)⟩

theorem test_hyps_VectorStores :
    StoreChecks v8 (mem 0 5) ∧ (elemAccess v8 (mem 0 5)).mapped v8 (elemAccess v8 (mem 0 5)).count true (tgs 4) ∧
      (elemAccess v8 (mem 0 5)).free v8 (tgs 4) ∧
    StoreChecks v0 (mem 0 12) ∧ (blockAccess v0 (mem 0 12)).mapped v0 (blockAccess v0 (mem 0 12)).count true (tgs 32) ∧
      (blockAccess v0 (mem 0 12)).free v0 (tgs 32) ∧
    StoreChecks v0 (mem 16 18) ∧ (scaleAccess v0 (mem 16 18)).mapped v0 (scaleAccess v0 (mem 16 18)).count true (tgs 1) ∧
      (scaleAccess v0 (mem 16 18)).free v0 (tgs 1) :=
  ⟨⟨by decide, by decide, by decide, by decide, by decide⟩, mapped_of (by decide), (free_of (by decide) (by decide)).1,
    ⟨by decide, by decide, by decide, by decide, by decide⟩, mapped_of (by decide), (free_of (by decide) (by decide)).1,
    ⟨by decide, by decide, by decide, by decide, by decide⟩, mapped_of (by decide), (free_of (by decide) (by decide)).1⟩

theorem test_hyps_VectorScratchpad :
    v8.here.spPoison = [] ∧ (mem 0 5).func.getLsbD 5 = false ∧ (mem 16 18).func.getLsbD 5 = false ∧
      (let f := { mem 0 5 with vc := 3, vd := 1 }; (elemAccess v8 { f with vc := 0 }).inPad v8) ∧
      (blockAccess v0 { mem 0 12 with vc := 0 }).inPad v0 ∧ (scaleAccess v0 { mem 16 18 with vc := 0 }).inPad v0 ∧
      StoreChecks v8 { mem 0 5 with vc := 0 } ∧ StoreChecks v0 { mem 0 12 with vc := 0 } ∧ StoreChecks v0 { mem 16 18 with vc := 0 } ∧
      LoadChecks v8 { mem 0 5 with vc := 0 } false ∧ LoadChecks v0 { mem 16 18 with vc := 0 } false ∧ LoadChecks v0 { mem 0 12 with vc := 0 } false :=
  ⟨by decide, by decide, by decide, by unfold Access.inPad; decide, by unfold Access.inPad; decide, by unfold Access.inPad; decide,
    ⟨by decide, by decide, by decide, by decide, by decide⟩, ⟨by decide, by decide, by decide, by decide, by decide⟩, ⟨by decide, by decide, by decide, by decide, by decide⟩,
    ⟨by decide, by decide, by decide, by decide⟩, ⟨by decide, by decide, by decide, by decide⟩, ⟨by decide, by decide, by decide, by decide⟩⟩

theorem zero_index (j : Nat) : (indexAccess v8 (mem 2 5)).va j = 0x40000 := by
  have h : v8.vc.reg 3#5 = 0#65536 := rfl
  have e (p : Nat × Nat) : elem (0#65536) (blockShape v8 (mem 2 5)) 4 j = 0 := by simp [elem, bits]
  show xOperand v8 (mem 2 5) + sext _ (elem (v8.vc.reg 3#5) (blockShape v8 (mem 2 5)) 4 j) <<< _ = _
  rw [h, e (0, 0)]
  decide
/-- The access with those addresses. -/
def flatIndex : Access := { indexAccess v8 (mem 2 5) with va := fun _ => 0x40000 }
theorem index_flat : indexAccess v8 (mem 2 5) = flatIndex := by
  unfold flatIndex
  rw [← funext zero_index]

/-- Indices of type u32 that are all 0. -/
theorem test_hyps_IndexedAccesses :
    isMx (mem 2 5).ty = false ∧ isScl (mem 2 5) = false ∧ (v8.vc.vcm = 0 ∧ v8.here.seq.idx = none) ∧ shapeTrap (blockShape v8 (mem 2 5)) [(mem 2 5).ty, indexType (mem 2 5)] = false ∧
      (blockShape v8 (mem 2 5)).rows ≤ 16 ∧ (xOperand v8 (mem 2 5)).toNat % tyBytes (mem 2 5).ty = 0 ∧ v8.vc.poi (mem 2 5).vb = 0 ∧
      (∀ j < (indexAccess v8 (mem 2 5)).count, (indexAccess v8 (mem 2 5)).on j = true →
        ((indexAccess v8 (mem 2 5)).va j).toNat % (indexAccess v8 (mem 2 5)).size = 0 ∧ (tgs 0 j).attr ≠ .device) ∧
      (indexAccess v8 (mem 2 5)).mapped v8 (indexAccess v8 (mem 2 5)).count false (tgs 0) ∧
      (indexAccess v8 (mem 2 5)).clean v8 (indexAccess v8 (mem 2 5)).count (tgs 0) ∧
      (indexAccess v8 (mem 2 5)).goes v8 (indexAccess v8 (mem 2 5)).count (laneGroup v8 (mem 2 5)) (tgs 0) ∧
      (indexAccess v8 (mem 2 5)).mapped v8 (indexAccess v8 (mem 2 5)).count true (tgs 0) ∧ (indexAccess v8 (mem 2 5)).free v8 (tgs 0) ∧
      (indexAccess v8 (mem 2 5)).addFree v8 (tgs 0) ∧ v8.vc.poi (mem 2 5).va = 0 ∧ Direct v8 :=
  by
    rw [index_flat]
    exact ⟨by decide, by decide, ⟨rfl, rfl⟩, by decide, by decide, by decide, rfl, fun j _ _ => ⟨(by decide : (0x40000#64).toNat % 4 = 0), nofun⟩, mapped_of (by decide),
      by unfold Access.clean; decide, goes_of (by decide) (by decide), mapped_of (by decide), (free_of (by decide) (by decide)).1,
      (free_of (by decide) (by decide)).2, rfl, ⟨by decide, by decide⟩⟩

/-- The same elements one after another, and 0x9000000 apart: the second lies where nothing is mapped. -/
def apart : State := v8.modHere fun c => { c with seq := { c.seq with fq := c.seq.fq.map fun e => { e with x := vset e.x 2 0x9000000 } } }
def strided : BlockFields := { mem 1 5 with vb := 2 }
def firstFault : BitVec 16 := match apart.xlate apart.cur.unit 0 .load false ((elemAccess apart strided).va 1) with | .error e => e | .ok _ => 0

theorem test_hyps_FirstFaultLoads :
    (memTrap v8 (mem 0 5) false = none ∧ ∀ j < (elemAccess v8 (mem 0 5)).count, (elemAccess v8 (mem 0 5)).on j = true →
      okAll (v8.xlate v8.cur.unit 0 .load false ((elemAccess v8 (mem 0 5)).va j)) (fun t => decide (t.attr ≠ .device)) = true) ∧
    (memTrap apart strided false = none ∧ apart.vc.vcm = 0 ∧ Direct apart ∧ 1 < (elemAccess apart strided).count ∧
      (elemAccess apart strided).on 0 = true ∧ (elemAccess apart strided).on 1 = true ∧
      errIs (apart.xlate apart.cur.unit 0 .load false ((elemAccess apart strided).va 1)) firstFault = true ∧ xLater firstFault = false ∧
      (∀ j < (elemAccess apart strided).count, (elemAccess apart strided).on j = true →
        okAll (apart.xlate apart.cur.unit 0 .load false ((elemAccess apart strided).va j)) (fun t => decide (t.attr ≠ .device)) = true) ∧
      (elemAccess apart strided).mapped apart 1 false (tgs 0) ∧ (elemAccess apart strided).clean apart 1 (tgs 0) ∧
      (elemAccess apart strided).goes apart 1 (laneGroup apart strided) (tgs 0)) :=
  ⟨by decide, by decide, rfl, ⟨by decide, by decide⟩, by decide, by decide, by decide, by decide, by decide, by decide, mapped_of (by decide),
    by unfold Access.clean; decide, goes_of (by decide) (by decide)⟩

/-- Segments of two fields, 64 bytes apart. -/
def segs : BlockFields := { mem 1 5 with vb := 2 }

theorem test_hyps_Segments :
    isMx segs.ty = false ∧ segTrap v8 segs = none ∧ v8.here.seq.stop = none ∧ (∀ j < (segAccess v8 segs).count, (segAccess v8 segs).on j = true → (tgs 64 j).attr ≠ .device) ∧
      vget v8.vc.prog 128 segs.vd.toNat = 128 ∧ (segAccess v8 segs).mapped v8 (segAccess v8 segs).count false (tgs 64) ∧
      (segAccess v8 segs).clean v8 (segAccess v8 segs).count (tgs 64) ∧
      (segAccess v8 segs).goes v8 (segAccess v8 segs).count (laneGroup v8 segs) (tgs 64) ∧
      v8.here.seq.resume = 0 ∧ (∀ i < segFields segs, v8.vc.poi (regPlus segs.va i) = 0) ∧
      (segAccess v8 segs).mapped v8 (segAccess v8 segs).count true (tgs 64) ∧ (segAccess v8 segs).free v8 (tgs 64) :=
  ⟨by decide, by decide, by decide, by decide, by decide, mapped_of (by decide), by unfold Access.clean; decide, goes_of (by decide) (by decide),
    by decide, by decide, mapped_of (by decide), (free_of (by decide) (by decide)).1⟩

/-- A pending store of the strand context's lanes, of type `add` if it adds. -/
def aStore (add : Option (BitVec 5)) : PStore := storeEntry v8 0 0 (.lane 0 1) 0 add false 0x40010 (at_ 0x40010) [1, 0, 0, 0]
def laneStores (add : Option (BitVec 5)) : State := { v8 with fab := { v8.fab with pend := [aStore add] } }

theorem test_hyps_LaneSynchronisation :
    v8.cur.ctx = 0 ∧ lanesDone v8 (bits (mem 1 5).func 0 3) = true ∧ Direct (laneStores none) ∧ lanesDone (laneStores none) (bits (mem 1 5).func 0 3) = false :=
  ⟨by decide, by decide, ⟨by decide, by decide⟩, by decide⟩

theorem test_hyps_ScatterAddsApply :
    (laneStores (some 5)).fab.pend[0]? = some (aStore (some 5)) ∧ (aStore (some 5)).add = some 5 ∧ pendReady (laneStores (some 5)) 0 (aStore (some 5)) = true ∧
      isInt 5 = true ∧ (aStore (some 5)).bytes.length = tyBytes 5 ∧ (laneStores (some 5)).fab.poison = [] := by decide

/-! ## Matrices -/

/-- An MSHAPE of M = N = 4, K = 8 and accumulators of f32; a block of 4 rows of 8 columns. -/
def xblk (n : Nat) (v : Word) : State := (vec 4 8).modHere fun c => { c with seq := { c.seq with fq := c.seq.fq.map fun e => { e with x := vset e.x n v } } }
def mx0 : State := let s := vec 4 8; s.setVc { s.vc with mshape := 0x80404 }
def tf (func : BitVec 9) : BlockFields := { fld 10 with vd := 0, vc := 1, func := func }

theorem test_hyps_MatrixShapeAndTiles :
    mshapeOk (xOperand (xblk 1 0x80404) (tf 0)) = true ∧ mshapeOk (xOperand (xblk 1 0x80400) (tf 0)) = false ∧
      ((tf 0).vd.toNat < 8 ∧ mx0.vc.poi (tf 0).va = 0 ∧ mx0.vc.poi (regPlus (tf 0).va 1) = 0) :=
  ⟨by decide, by decide, by decide, rfl, rfl⟩

/-- Rows of 64 bytes on top of one another. -/
def tileF (func : BitVec 9) : BlockFields := { tf func with vb := 0 }
theorem test_hyps_TileStores :
    Direct v8 ∧ (tileF 0).func.getLsbD 0 = false ∧ (tileF 1).func.getLsbD 0 = true ∧ tileMisaligned v8 (tileF 0) false = false ∧
      tileMisaligned v8 (tileF 0) true = false ∧
      (tileAccess v8 (tileF 0)).mapped v8 256 true (fun k => at_ (0x40000 + 64 * (k % 8))) ∧ (tileAccess v8 (tileF 0)).free v8 (fun k => at_ (0x40000 + 64 * (k % 8))) ∧
      (tileScaleAccess v8 (tileF 0)).mapped v8 32 true (tgs 0) ∧ (tileScaleAccess v8 (tileF 0)).free v8 (tgs 0) ∧
      (tileAccess v8 (tileF 0)).mapped v8 256 false (fun k => at_ (0x40000 + 64 * (k % 8))) ∧
      (tileAccess v8 (tileF 0)).clean v8 256 (fun k => at_ (0x40000 + 64 * (k % 8))) ∧
      (tileAccess v8 (tileF 0)).goes v8 256 (· % 8) (fun k => at_ (0x40000 + 64 * (k % 8))) ∧
      (tileScaleAccess v8 (tileF 0)).mapped v8 32 false (tgs 0) ∧ (tileScaleAccess v8 (tileF 0)).clean v8 32 (tgs 0) ∧
      (tileScaleAccess v8 (tileF 0)).goes v8 32 (fun _ => 0) (tgs 0) ∧
      (tileAccess v8 { tileF 1 with vc := 0 }).inPad v8 ∧ (tileScaleAccess v8 { tileF 1 with vc := 0 }).inPad v8 ∧
      tileMisaligned v8 { tileF 1 with vc := 0 } false = false ∧ tileMisaligned v8 { tileF 1 with vc := 0 } true = false :=
  ⟨⟨by decide, by decide⟩, by decide, by decide, by decide, by decide, mapped_of (by decide +kernel), (free_of (by decide +kernel) (by decide)).1,
    mapped_of (by decide), (free_of (by decide) (by decide)).1, mapped_of (by decide +kernel), by unfold Access.clean; decide +kernel,
    goes_of (by decide +kernel) (by decide), mapped_of (by decide), by unfold Access.clean; decide, goes_of (by decide) (by decide), by unfold Access.inPad; decide +kernel, by unfold Access.inPad; decide, by decide, by decide⟩

/-- Two rows of the accumulator, from row 30 on. -/
def accF : BlockFields := { tf 62 with va := 0, slice := 1 }
theorem test_hyps_Accumulators :
    accF.vd.toNat < 2 ∧ accMoveTrap mx0 accF accF.va.toNat = false ∧ accMoveTrap mx0 accF accF.vd.toNat = false ∧
      (rowShape mx0 mx0.block.vcols.toNat).rows ≤ 16 ∧ mx0.vc.poi accF.va = 0 :=
  ⟨by decide, by decide, by decide, by decide, rfl⟩

/-- VBF8 products, two rows from row 1 on. -/
def mf : BlockFields := { tf 0 with ty := 8, va := 2, vb := 3 }

theorem test_hyps_RowDataflows :
    WholeWord mx0 ∧ vget mx0.vc.prog 128 mf.vd.toNat = 128 ∧ mmaTrap mx0 mf (mmaQ mf) = false ∧ mmaClean mx0 mf ∧ mx0.block.vrows.toNat ≤ 16 ∧ mshapeN mx0.vc * tyBits (acctOf mx0.vc) ≤ 4096 ∧
      mshapeK mx0.vc * tyBits mf.ty ≤ 4096 ∧ rwTrap mx0 mf (mmaQ mf) = false :=
  ⟨⟨rfl, rfl, rfl⟩, rfl, by decide, ⟨rfl, rfl, rfl⟩, by decide, by decide, by decide, by decide⟩

def panelled (k : BitVec 11) : State := mx0.setVc { mx0.vc with kpos := vset mx0.vc.kpos 0 k }
theorem test_hyps_OuterProduct :
    mf.vd.toNat < 2 ∧ mmaQ mf = 1 ∧ WholeWord mx0 ∧ (WholeWord (panelled 8) ∧ mmaClean (panelled 8) mf) ∧ mmaTrap mx0 mf 1 = false ∧ mmaClean mx0 mf ∧
      mshapeK (panelled 8).vc ≤ (vget (panelled 8).vc.kpos 0 mf.vd.toNat).toNat ∧ mmaTrap (panelled 8) mf 1 = false ∧
      ((vget mx0.vc.kpos 0 mf.vd.toNat).toNat < mshapeK mx0.vc ∧ mshapeK mx0.vc ≤ 1024 ∧ mshapeM mx0.vc ≤ 32 ∧ mshapeN mx0.vc ≤ 32) :=
  ⟨by decide, by decide, ⟨rfl, rfl, rfl⟩, ⟨⟨rfl, rfl, rfl⟩, rfl, rfl, rfl⟩, by decide, ⟨rfl, rfl, rfl⟩, by decide, by decide, by decide⟩

theorem flat_le {α β : Type} (l : List α) (g : α → List β) (n : Nat) (h : ∀ a, (g a).length ≤ n) : (l.flatMap g).length ≤ l.length * n := by
  induction l with
  | nil => simp
  | cons a l ih => simp only [List.flatMap_cons, List.length_append, List.length_cons, Nat.succ_mul]; have := h a; omega
theorem spProducts_le (s : State) (f : BlockFields) : (spProducts s f).length ≤ s.block.vcols.toNat * 256 := by
  refine Nat.le_trans (flat_le _ _ 256 fun a => Nat.le_trans (List.length_filterMap_le ..) (by simp [upTo] <;> omega)) (Nat.mul_le_mul_right _ ?_)
  exact Nat.le_trans (List.length_filterMap_le ..) (by simp [upTo])
def merged : State := mx0.setVc { mx0.vc with merge := [(1, 5), (4, 7)] }
theorem merged_fits : merged.vc.merge.length + (spProducts merged mf).length ≤ 4096 := by
  have h1 : merged.vc.merge.length = 2 := by decide
  have h2 : merged.block.vcols.toNat = 8 := by decide
  have := spProducts_le merged mf
  rw [h1]
  rw [h2] at this
  omega
theorem test_hyps_MergeBuffer :
    merged.vc.merge.Pairwise (fun a b => a.1.toNat < b.1.toNat) ∧ rwTrap merged mf 1 = false ∧ mmaClean merged mf ∧
      merged.vc.merge.length + (spProducts merged mf).length ≤ 4096 ∧
      (tf 0).ty = acctOf merged.vc ∧ shapeTrap (blockShape merged (tf 0)) [(tf 0).ty, tyN16] = false ∧ (blockShape merged (tf 0)).rows ≤ 16 ∧
      regPlus (tf 0).vd 1 ≠ (tf 0).vd :=
  ⟨by decide, by decide, ⟨rfl, rfl, rfl⟩, merged_fits, by decide, by decide, by decide, by decide⟩

theorem test_hyps_GroupsAreExact :
    (-3 : Int) ≤ 0 ∧ ∀ x ∈ [((false, 3, (0 : Int)), (true, 1, (2 : Int)))], (-3 : Int) ≤ x.1.2.2 ∧ (-3 : Int) ≤ x.2.2.2 := by decide

/-! ## Sparse vectors -/

/-- u32 values under u32 indices: V2 holds 1, 5 and V4 holds 5, 9, each followed by padding; V3 and V5 hold
7, 8 and 9, 10. -/
def spF : BlockFields := { fz with vd := 6, va := 2, vb := 4, ty := 5, func := 1, vc := 3 }
def spVec (cols : BitVec 11) : State :=
  let s := vec 1 cols
  let v := s.vc
  (s.setVc { v with v := vset (vset (vset (vset v.v 2 0xFFFFFFFFFFFFFFFF0000000500000001) 3 0x800000007) 4 0xFFFFFFFFFFFFFFFF0000000900000005) 5 0xA00000009 })
def sp4 : State := spVec 4
def sp2 : State := spVec 2

theorem spA (s : State) (h : s = sp4 ∨ s = sp2) : streamOf s spF spF.va (regPlus spF.va 1) = [(1, 7), (5, 8)] := by
  rcases h with rfl | rfl <;> decide +kernel
theorem spB (s : State) (h : s = sp4 ∨ s = sp2) : streamOf s spF spF.vb (regPlus spF.vb 1) = [(5, 9), (9, 10)] := by
  rcases h with rfl | rfl <;> decide +kernel
theorem spReady (s : State) (h : s = sp4 ∨ s = sp2) (l : List (BitVec 5 × BitVec 5)) (hl : l ∈ [[(2, 5)], [(4, 5)], [(2, 5), (3, 5), (4, 5), (5, 5)], [(2, 5), (4, 5)]])
    (on : Nat → Bool) : SparseReady s spF l on := by
  rcases h with rfl | rfl <;> simp only [List.mem_cons, List.not_mem_nil, or_false] at hl <;> rcases hl with rfl | rfl | rfl | rfl <;>
    exact ⟨by decide, by decide, rfl, by decide⟩

/-- The union of the two streams, whose values at 5 add up, fits 4 lanes and not 2. -/
theorem test_hyps_SparseMerge (s : State) (h : s = sp4 ∨ s = sp2) :
    isInt spF.ty = true ∧ SparseReady s spF [(2, sparseType spF), (3, 5), (4, sparseType spF), (5, 5)] (fun _ => true) ∧
      Rising (streamOf s spF 2 3) ∧ Rising (streamOf s spF 4 5) ∧ Rising [(1, 7), (5, 17), (9, 10)] ∧
      (∀ x v, (x, v) ∈ [(1, 7), (5, 17), (9, 10)] ↔ ((x, v) ∈ streamOf s spF 2 3 ∧ ∀ w, (x, w) ∉ streamOf s spF 4 5) ∨
        ((x, v) ∈ streamOf s spF 4 5 ∧ ∀ w, (x, w) ∉ streamOf s spF 2 3) ∨
        ∃ y z, (x, y) ∈ streamOf s spF 2 3 ∧ (x, z) ∈ streamOf s spF 4 5 ∧ v = (addElems (roundMode s spF) (ftzOn s) spF.ty y z).1) ∧
      laneCount sp2 spF < 3 ∧ 3 ≤ laneCount sp4 spF := by
  have ha := spA s h
  have hb := spB s h
  have hadd : (addElems (roundMode s spF) (ftzOn s) spF.ty 8 9).1 = 17 := by rcases h with rfl | rfl <;> decide
  change streamOf s spF 2 3 = _ at ha
  change streamOf s spF 4 5 = _ at hb
  rw [ha, hb]
  refine ⟨by decide, spReady s h _ (by decide) _, by unfold Rising; decide, by unfold Rising; decide, by unfold Rising; decide, fun x v => ⟨fun hm => ?_, ?_⟩,
    by decide, by decide⟩
  · simp only [List.mem_cons, Prod.mk.injEq, List.not_mem_nil, or_false] at hm
    rcases hm with ⟨rfl, rfl⟩ | ⟨rfl, rfl⟩ | ⟨rfl, rfl⟩
    · exact .inl ⟨by simp, by simp⟩
    · exact .inr (.inr ⟨8, 9, by simp, by simp, hadd.symm⟩)
    · exact .inr (.inl ⟨by simp, by simp⟩)
  · rintro (⟨h1, h2⟩ | ⟨h1, h2⟩ | ⟨y, z, h1, h2, h3⟩)
    · simp only [List.mem_cons, Prod.mk.injEq, List.not_mem_nil, or_false] at h1 h2 ⊢
      rcases h1 with ⟨rfl, rfl⟩ | ⟨rfl, rfl⟩
      · simp
      · exact absurd (.inl ⟨rfl, rfl⟩) (h2 9)
    · simp only [List.mem_cons, Prod.mk.injEq, List.not_mem_nil, or_false] at h1 h2 ⊢
      rcases h1 with ⟨rfl, rfl⟩ | ⟨rfl, rfl⟩
      · exact absurd (.inr ⟨rfl, rfl⟩) (h2 8)
      · simp
    · simp only [List.mem_cons, Prod.mk.injEq, List.not_mem_nil, or_false] at h1 h2 ⊢
      rcases h1 with ⟨rfl, rfl⟩ | ⟨rfl, rfl⟩ <;> rcases h2 with ⟨h2, rfl⟩ | ⟨h2, rfl⟩ <;> omega

/-- Indices 5, 1 under sort traps. -/
def spDown : State :=
  let s := sp4.modHere fun c => { c with seq := { c.seq with fq := c.seq.fq.map fun e => { e with rmode := 16 } } }
  s.setVc { s.vc with v := vset s.vc.v 2 0xFFFFFFFFFFFFFFFF0000000100000005 }
theorem test_hyps_SparseMerge_order :
    sortTraps spDown = true ∧ 1 < laneCount spDown spF ∧ laneOf spDown spF 5 2 0 = 5 ∧ laneOf spDown spF 5 2 1 = 1 ∧
      SparseReady spDown spF [(2, 5), (3, 5), (4, 5), (5, 5)] (fun _ => true) ∧ (∀ p q : Nat, p < q → q < 1 → False) ∧ padding 5 ≠ 5 ∧ padding 5 ≠ 1 :=
  ⟨by decide, by decide, by decide +kernel, by decide +kernel, ⟨by decide, by decide, rfl, by decide⟩, fun p q h1 h2 => by omega, by decide, by decide⟩

/-- VTOPK, VSORTK and VCSRX on the same registers; an index within the row's 4 columns, and one beyond. -/
def csrF : BlockFields := { spF with vb := 3, va := 2 }
def csrIn : State := let s := sp4; s.setVc { s.vc with v := vset s.vc.v 3 0xFFFFFFFFFFFFFFFFFFFFFFFF00000002 }
theorem test_hyps_SparseOrdersAndExpand :
    SparseReady sp4 spF [(2, 5)] (laneOn sp4 spF) ∧ SparseReady sp4 spF [(2, 5), (4, 5)] (fun _ => true) ∧
      SparseReady sp4 csrF [(3, 5)] (laneOn sp4 csrF) ∧ SparseReady csrIn csrF [(3, 5)] (laneOn csrIn csrF) ∧ isMx csrF.ty = false ∧
      (laneOn sp4 csrF 0 = true ∧ laneOf sp4 csrF 5 3 0 ≠ padding 5 ∧ (blockShape sp4 csrF).cols ≤ laneOf sp4 csrF 5 3 0) ∧
      (laneOn csrIn csrF 0 = true ∧ laneOf csrIn csrF 5 3 0 ≠ padding 5) ∧
      ∀ j < laneCount csrIn csrF, laneOf csrIn csrF 5 3 j ≠ padding 5 → laneOf csrIn csrF 5 3 j < (blockShape csrIn csrF).cols :=
  ⟨spReady sp4 (.inl rfl) _ (by decide) _, spReady sp4 (.inl rfl) _ (by decide) _, ⟨by decide, by decide, rfl, by decide⟩,
    ⟨by decide, by decide, rfl, by decide⟩, by decide, by decide +kernel, by decide +kernel, by decide +kernel⟩

/-! ## Traps and privileged code -/

/-- Traps of partition 0 are enabled, with their records from 0x200000 on. -/
def trapping : State := (tables r0).modPart 0 fun p => { p with tvec := 0x40001, khead := 0x200000 }
def inTrap (m : TrapMode) (c : Nat) : State := trapping.modCtx 0 c fun x => { x with trap := m, priv := true }

theorem test_hyps_TrapsAreTaken :
    TrapReady (inTrap .none 0) 0 0 (at_ 0x200000) ∧ TrapReady (inTrap .handler 1) 0 1 (at_ 0x200140) :=
  ⟨⟨by decide, by decide, by decide, ok_of (by decide), by decide, by decide, by decide, .inl (by decide)⟩,
    ⟨by decide, by decide, by decide, ok_of (by decide), by decide, by decide, by decide, .inl (by decide)⟩⟩

theorem test_hyps_DoubleTrapsStop :
    ((inTrap .nested 0).ctx 0 0).trap = .nested ∧ (trapVec r0 0).getLsbD 0 = false ∧ isMgmt 0 = false ∧
      (r0.part ((r0.partOf 0).getD 0)).recov = .run := by decide

/-- Privileged code of core 0, and of a management core. -/
def priv0 : State := r0.modMe fun x => { x with priv := true }
def mgmt : State := (r0.setCur ⟨1024, 0⟩).modMe fun x => { x with resident := true, priv := true }

theorem privileged0 : Privileged priv0 := ⟨⟨by decide, by decide, by decide⟩, by decide⟩

theorem test_hyps_TrapsReturn :
    r0.me.trap = .none ∧
    (Privileged (inTrap .handler 0) ∧ (inTrap .handler 0).me.trap ≠ .none ∧
      okIs ((inTrap .handler 0).translate 0 0 true .load false (trapHead (inTrap .handler 0) 0 0)) (at_ 0x200000) = true) ∧
    (Privileged (inTrap .nested 0) ∧ okIs ((inTrap .nested 0).translate 0 0 true .load false (trapHead (inTrap .nested 0) 0 0 + 64)) (at_ 0x200040) = true) :=
  ⟨by decide, ⟨⟨⟨by decide, by decide, by decide⟩, by decide⟩, by decide, by decide⟩, ⟨⟨⟨by decide, by decide, by decide⟩, by decide⟩, by decide⟩⟩

theorem test_hyps_PrivilegeTraps : Plain r0 ∧ r0.privileged 0 0 = false ∧ isMgmt r0.cur.unit = false :=
  ⟨⟨by decide, by decide, by decide⟩, by decide, by decide⟩

/-- Register numbers of each kind, and a context of a management core. -/
theorem test_hyps_UserRegisters :
    regIllegal r0 0xF = true ∧ isReadOnlyReg 0 = true ∧ (isLegReg 2 = true ∧ vecLeg.cur.ctx = 0 ∧ vecLeg.here.leg.isSome = true) ∧
    (∀ n ∈ [2, 6, 0xB, 0x80], regIllegal r0 n = false ∧ r0.blocksDone 0 0 = true) ∧ isMgmt r0.cur.unit = false ∧
    (isMgmt mgmt.cur.unit = true ∧ regIllegal mgmt 0xB = false ∧ Ready mgmt [] (some 3) ∧ Unheld mgmt) ∧
    (userOk 2 (X (xreg r0 3 (1#64 <<< 32)) 3) = false ∧ userOk 2 (X r0 3) = true ∧ isReadOnlyReg 2 = false) :=
  ⟨by decide, by decide, by decide, by decide, by decide, ⟨by decide, by decide, ⟨by decide, by decide, by decide⟩, ⟨by decide, by decide⟩⟩, by decide⟩

theorem test_hyps_UserRegistersHoldTheirValues :
    r0.cur.ctx < 8 ∧ isUserReg 2 = true ∧ isReadOnlyReg 2 = false ∧ userOk 2 5 = true ∧ ∀ h ∈ r0.here.strand, (r0.strand? h).isSome = true := by decide

theorem test_hyps_CoresAreLocated :
    ¬((X (xreg r0 3 1024) 3).toNat < 1024 ∧ r0.samePart 0 (X (xreg r0 3 1024) 3).toNat = true) ∧
    (X (xreg r0 3 16) 3).toNat < 1024 ∧ (xreg r0 3 16).samePart 0 (X (xreg r0 3 16) 3).toNat = false ∧
    ((X r0 3).toNat < 1024 ∧ r0.samePart 0 (X r0 3).toNat = true) := by decide

/-- FNMODE of partitions 0 and 1, a die's register of another kind, a reserved number, and reserved bits of a selector. -/
def sel (v : Word) (w : Word) : State := xreg (xreg priv0 1 v) 3 w
theorem test_hyps_PrivilegedRegisters :
    selected (X (sel 0x107 0) 1) = none ∧ selected (X (sel 0x101 0) 1) = some (.fnmode 0) ∧
    ¬MayName (sel 0x10101 0) (.fnmode 1) false ∧ selected (X (sel 0x10101 0) 1) = some (.fnmode 1) ∧ ¬MayName (sel 0x100 0) (.ringown 0) true ∧
    (zeroBits (X (sel 0x10D 0) 1) 28 36 = true ∧ zeroBits (X (sel 0x10D 0) 1) 12 4 = true ∧ MayName (sel 0x10D 0) (.ckint 0) false ∧
      MayName (sel 0x10D 0) (.ckint 0) true ∧ privOk (sel 0x10D 2) (.ckint 0) (X (sel 0x10D 2) 3) = false ∧
      privOk (sel 0x10D 0x10000) (.ckint 0) (X (sel 0x10D 0x10000) 3) = true ∧ orderedAt (sel 0x10D 0x10000) 3 = true) := by
  unfold MayName
  decide

theorem test_hyps_PrivilegedRegistersHoldTheirValues : privOk r0 (.tvec 0) 1 = true ∧ privOk r0 (.astag 3) 77 = true := by decide

/-- Core 0 holds two translations of address-space tag 5. -/
def aTlb (vp : Nat) : TlbEntry := { (default : TlbEntry) with tag := 5, vpage := vp, size := 16 }
def cachedTlb : State := (xreg priv0 1 5).modHere fun c => { c with tlb := [aTlb 0, aTlb 1] }
/-- Core 0 holds a line that a store through such an entry has made. -/
def oldStore : State := cachedTlb.modHere fun c => { c with lines := [{ lineIn 0 .L with dirty := 1, through := [(5, 0)] }] }
theorem test_hyps_TranslationsAreRemoved (va : Option Word) (h : va = none ∨ va = some 0) :
    zeroBits (X (xreg priv0 1 0x1000) 1) 12 52 = false ∧ zeroBits (X cachedTlb 1) 12 52 = true ∧ orderedAt cachedTlb 3 = true ∧
      oldAccess cachedTlb 5 va = false ∧ oldAccess (squashOld cachedTlb 5 va) 5 va = false ∧
      oldAccess (squashOld oldStore 5 va) 5 va = true ∧ orderedAt oldStore 3 = true := by
  rcases h with rfl | rfl <;> decide

def outFull : State := priv0.modPkg fun p => { p with outq := List.replicate 16 default }
theorem test_hyps_LogsMessagesAndEvents :
    X r0 3 < 8 ∧ 8 ≤ (X r0 2).toNat ∧ priv0.pkg.outq.length < 16 ∧ 16 ≤ outFull.pkg.outq.length ∧
      (isMgmt mgmt.cur.unit = true ∧ (mgmt.die (dieOf mgmt.cur.unit)).events = 0) ∧
      ((mgmt.modDie 0 fun d => { d with events := 4 }).die (dieOf mgmt.cur.unit)).events ≠ 0 ∧ Privileged mgmt :=
  ⟨by decide, by decide, by decide, by decide, by decide, by decide, ⟨⟨by decide, by decide, by decide⟩, by decide⟩⟩

/-! ## Firmware, partitions, vaults and checkpoints -/

theorem onMgmt_of {s : State} (h : s.cur.ctx < 8) (h2 : s.inLeg s.cur.unit s.cur.ctx = false) (h3 : s.me.nest = [])
    (h4 : s.privileged s.cur.unit s.cur.ctx = true) (h5 : isMgmt s.cur.unit = true) (h6 : s.cur.unit < numUnits) : OnMgmt s :=
  ⟨⟨⟨h, h2, h3⟩, h4⟩, h5, h6⟩

/-- Management core 1024 with X1, X2 and X3, partition 0's memory mapped. -/
def fw (a b c : Word) : State := xreg (xreg (xreg (tables mgmt) 1 a) 2 b) 3 c
def saved : Strand := ⟨0, (0, 8192), 1, 0, 0, 0, none, false, none⟩
def fwSave : State := fw 0x100000 0x10000 0
def saving : State := beginSave fwSave 0 saved (X fwSave 1, 1024, 0)
/-- The strand is being saved by another context. -/
def othersSave : Strand := { saved with saving := some (0x200000, 1024, 1) }
/-- The strand has ended, so that it is not saved. -/
def fwEnded : State := fwSave.setStrand 0 { saved with ended := true }
def endedSaving : State := beginSave fwEnded 0 { saved with ended := true } (X fwEnded 1, 1024, 0)
theorem saveReady : SaveReady saving 0 saved 0x100000 :=
  ⟨rfl, by decide, nofun, rfl, by decide, by decide +kernel⟩

theorem test_hyps_StrandsAreSaved :
    (OnMgmt fwSave ∧ spanOf (X fwSave 2) = some (0, 1) ∧ (X (fw 0x100001 0x10000 0) 1).toNat % 2 ^ 20 ≠ 0 ∧ (X fwSave 1).toNat % 2 ^ 20 = 0) ∧
    (spanOf (X (fw 0x100000 0x10001 0) 2) = some (1, 1) ∧ (fw 0x100000 0x10001 0).strand? 1 = none) ∧
    (fwSave.strand? 0 = some saved ∧ saved.size = 1 ∧ kennelFault fwSave saved.part .store true 0x100000 saved.kennels = none ∧ saved.saving = none ∧
      SaveReady saving 0 saved 0x100000) ∧ (kennelFault fwSave 0 .store true 0x10000000000 1).isSome = true ∧
    ((fwSave.setStrand 0 othersSave).strand? 0 = some othersSave ∧ othersSave.saving ≠ none ∧ othersSave.saving ≠ some (X fwSave 1, 1024, 0)) ∧
    (fwEnded.strand? 0 = some { saved with ended := true } ∧ ∃ s1, trySave endedSaving 0 { saved with ended := true } 0x100000 = .error s1) :=
  ⟨⟨onMgmt_of (by decide) (by decide) (by decide) (by decide) (by decide) (by decide), by decide, by decide, by decide⟩, by decide,
    ⟨by decide, by decide, by decide, by decide, saveReady⟩, by decide, by decide, ⟨by decide, _, rfl⟩⟩

theorem test_hyps_KennelsHoldTheContext :
    (r0.ctx 0 0).nest.length ≤ 4 ∧ (r0.core 0).seq.reply.length ≤ 16 ∧ (r0.core 0).seq.fq.length ≤ 16 ∧ (r0.core 0).v.merge.length ≤ 4096 ∧
      ∀ r, (r0.core 0).seq.red = some r → r.vals.length ≤ 20 := ⟨by decide, by decide, by decide, by decide, nofun⟩

/-- A strand that was taken off core 0: its node is placed, and the kennel at 0x100000 is all zeros. -/
def offCore : State :=
  let s := { noded .placed with strands := [] }
  tables ((((s.modCore 0 fun c => { c with strand := none }).modCtx 0 0 fun x => { x with resident := false }).setCur ⟨1024, 0⟩).modMe fun x => { x with resident := true, priv := true })
def fwLoad : State := xreg (xreg (xreg offCore 1 0x100000) 2 0x10000) 3 0x10000

theorem test_hyps_StrandsAreRestored :
    OnMgmt fwLoad ∧ spanOf (X fwLoad 2) = some (0, 1) ∧ fwLoad.partOf 0 = some 0 ∧ preemptedNode fwLoad 0 (X fwLoad 3) = some (0, 0, aNode .placed) ∧
      (aNode .placed).size = 1 ∧ spanFree fwLoad 0 1 = true ∧ (X fwLoad 1).toNat % 2 ^ 20 = 0 ∧ kennelFault fwLoad 0 .load false 0x100000 1 = none ∧
      Kennel.count ⟨fwLoad, 0, 0x100000⟩ 1 = 1 ∧ Kennel.flag ⟨fwLoad, 0, 0x100000⟩ 16 = false ∧ orderedAt fwLoad 3 = true ∧
      kennelKept fwLoad 0 0x100000 1 = false ∧ fwLoad.placing 0 = true ∧ kennelBad fwLoad 0 0x100000 1 = none ∧
      Kennel.forked ⟨fwLoad, 0, 0x100000⟩ = false ∧ fwLoad.cacheOff 0 = false :=
  ⟨onMgmt_of (by decide) (by decide) (by decide) (by decide) (by decide) (by decide), by decide, by decide, by decide, by decide, by decide, by decide,
    by decide, by decide, by decide, by decide, by decide +kernel, by decide, by decide, by decide, by decide⟩

def recov (s : State) (r : Recovery) : State := s.modPart 0 fun p => { p with recov := r }
def stalled (s : State) : State := s.modMe fun x => { x with stall := some .system }

theorem test_hyps_DrainsAndResetsAreOrdered :
    ¬((X (fw 16 0 0) 1).toNat < 16 ∧ (fw 16 0 0).ownsRing (X (fw 16 0 0) 1).toNat = true) ∧
    ((X (fw 0 0 0) 1).toNat < 16 ∧ (fw 0 0 0).ownsRing (X (fw 0 0 0) 1).toNat = true) ∧ ((recov (fw 0 0 0) .drained).part 0).recov = .drained ∧
    ((fw 0 0 0).me.stall ≠ some .system ∧ ((fw 0 0 0).part 0).recov = .run) ∧ (stalled (fw 0 0 0)).me.stall = some .system := by decide

def draining : State := recov r0 .drain
def drainedState : State := discardNodes ((draining.coresOf 0).foldl stopCore draining) 0

theorem test_hyps_DrainEnds :
    (draining.part 0).recov = .drain ∧ drainReady draining 0 = true ∧
      logQueues drainedState 0 (partNodes draining 0) = .ok (okGet draining (logQueues drainedState 0 (partNodes draining 0))) :=
  ⟨by decide, by decide +kernel, ok_get (by decide +kernel)⟩
/-- The tail of queue 0's drain log lies in a line with a lease. -/
def drainLeased : State :=
  (recov (tables (queued r0)) .drain).modFab fun f => { f with leases := [(0x60000 / 64, 1000), (0x60040 / 64, 1000)] }
theorem test_hyps_DrainEnds_held : (drainLeased.part 0).recov = .drain ∧ drainReady drainLeased 0 = true ∧
    passes (logQueues (discardNodes ((drainLeased.coresOf 0).foldl stopCore drainLeased) 0) 0 (partNodes drainLeased 0)) = false := by decide +kernel

def timed (q : Nat) : State := r0.modQueue q fun x => { x with wd := .armed, wdlimit := 0 }
def later : State := { recov r0 (.wait 0) with now := 2 ^ 28 }
theorem test_hyps_WatchdogsExpire :
    (∀ q ≤ 3, ((timed q).queue (4 * 0 + q)).wd = .armed ∧ ((timed q).queue (4 * 0 + q)).wdlimit.toNat ≤ (timed q).time - ((timed q).queue (4 * 0 + q)).wdBase ∧
      ((timed q).part 0).recov = .run) ∧
    (handler.partOf 0 = some 0 ∧ (handler.ctx 0 1).resident = true ∧ (handler.queue 0).wd ≠ .expired ∧
      (((timed 0).modCtx 0 1 fun x => { x with resident := true }).queue 0).wdlimit.toNat ≤
        ((timed 0).modCtx 0 1 fun x => { x with resident := true }).time - (((timed 0).modCtx 0 1 fun x => { x with resident := true }).ctx 0 1).lastRetire) ∧
    ((later.part 0).recov = .wait 0 ∧ 0 + 2 ^ 24 ≤ later.time) := by
  refine ⟨fun q h => ?_, by decide, by decide⟩
  rcases (by omega : q = 0 ∨ q = 1 ∨ q = 2 ∨ q = 3) with rfl | rfl | rfl | rfl <;> decide

def phase (n : BitVec 4) (s : State) : State := s.modPkg fun p => { p with phase := n }
/-- A command has not been answered. -/
def asked (s : State) : State := s.modPkg fun p => { p with command := true }
theorem test_hyps_DrainCommands :
    (phase 5 r0).pkg.phase ≠ 6 ∧ (phase 6 r0).pkg.phase = 6 ∧ ¬((1 : Nat) < 16 ∧ (phase 6 r0).ownsRing 1 = true) ∧ (phase 6 r0).ownsRing 0 = true ∧
      ((phase 6 (recov r0 .drained)).part 0).recov = .drained ∧ ((phase 6 r0).part 0).recov = .run ∧ (phase 6 r0).pkg.command = false ∧
      (asked (phase 6 r0)).pkg.phase = 6 ∧ (asked (phase 6 r0)).pkg.command = true := by decide

/-- CVAULT of core 3 to slot `b`, by firmware; slots 16 and 17 are in reserve. -/
def fwVault (b : Word) : State := fw 3 b 0
def vaulted : State := (fwVault 31).modRing 0 fun r => { r with vaultResults := [(1024, 0, 3)] }
def engaged : State := vaultOn (fwVault 31) .copy
def noReserve : State := (fwVault 31).modRing 0 fun r => { r with remap := putBits (putBits r.remap 112 2#2) 114 2#2 }

def askedVault : State := (fwVault 31).modRing 0 fun r => { r with vault := some { aVault .copy with by_ := .ctx 1024 0 } }

theorem test_hyps_VaultsAreOrdered :
    (OnMgmt (fw 1024 31 0) ∧ ¬((X (fw 1024 31 0) 1).toNat < 1024 ∧ ((X (fw 1024 31 0) 2).toNat < 18 ∨ (X (fw 1024 31 0) 2).toNat = 31))) ∧
    ((phase 5 r0).pkg.phase ≠ 6 ∧ (phase 6 (fwVault 31)).pkg.phase = 6 ∧ (phase 6 (fwVault 31)).pkg.command = false ∧ ¬((1024 : Nat) < 1024 ∧ ((31 : Nat) < 18 ∨ (31 : Nat) = 31))) ∧
    (OnMgmt (fwVault 31) ∧ X (fwVault 31) 1 = BitVec.ofNat 64 3 ∧ X (fwVault 31) 2 = BitVec.ofNat 64 31) ∧
    (vaulted.ring (ringOf 3)).vaultResults.find? (fun x => x.1 == vaulted.cur.unit && x.2.1 == vaulted.cur.ctx) = some (1024, 0, 3) ∧
    ((fwVault 31).ring (ringOf 3)).vaultResults.find? (fun x => x.1 == (fwVault 31).cur.unit && x.2.1 == (fwVault 31).cur.ctx) = none ∧
    (∃ v, (askedVault.ring (ringOf 3)).vault = some v ∧ v.by_ = .ctx 1024 0) ∧
    (((fwVault 31).ring (ringOf 3)).vault = none ∧ ((fwVault 31).die (dieOf 3)).vaultQ = []) ∧
    (remapState ((fwVault 31).ring (ringOf 3)).remap 5 ≠ 1 ∧ remapState ((fwVault 31).ring (ringOf 3)).remap 17 = 1) ∧
    (vaultWaits engaged 3 = true ∧ (engaged.ring (ringOf 3)).vault = some (aVault .copy) ∧ (aVault .copy).by_ ≠ .ctx 1024 0) ∧
    (vaultWaits noReserve 3 = false ∧ reserveSlot (noReserve.ring (ringOf 3)).remap [] = none) ∧
    (vaultWaits (fwVault 31) 3 = false ∧ reserveSlot ((fwVault 31).ring (ringOf 3)).remap [] = some 16) :=
  ⟨⟨onMgmt_of (by decide) (by decide) (by decide) (by decide) (by decide) (by decide), by decide⟩, by decide,
    ⟨onMgmt_of (by decide) (by decide) (by decide) (by decide) (by decide) (by decide), by decide, by decide⟩, by decide, by decide,
    ⟨_, rfl, rfl⟩, by decide, by decide, by decide, by decide, by decide⟩

/-- A context of core 3 whose access has been sent finishes it. -/
def finishing : State := (vaultOn r0 .quiesce).modCtx 3 0 fun c => { c with finishing := true }

theorem test_hyps_VaultsRun :
    (((vaultOn r0 .quiesce).ring 0).vault = some (aVault .quiesce) ∧ contextsStopped (vaultOn r0 .quiesce) 3 = true ∧
      (earlyCommit (vaultOn r0 .quiesce) 3).isSome = true) ∧
    ((finishing.ring 0).vault = some (aVault .quiesce) ∧ contextsStopped finishing 3 = false) ∧
    (((vaultOn r0 .drain).fab.pend.any fun p => p.unit == 3) = false ∧
      ((vaultOn r0 .drain).cores.any fun x => x.2.copies.any fun p => p.preQ && p.touches 3) = false ∧ ∀ x ∈ ((vaultOn r0 .drain).core 3).lines, x.st ≠ .M) ∧
    ((aVault .copy).target < 18 ∧ reserveSlot (putBits ((vaultOn r0 .copy).ring 0).remap (80 + 2 * 16) 2#2) (aVault .copy).failed = some 17) ∧
    (reserveSlot (putBits ((vaultOn noReserve .copy).ring 0).remap (80 + 2 * 16) 2#2) (aVault .copy).failed = none ∧ ringOf 3 = 0 ∧
      ((vaultOn noReserve .copy).die (dieOf 3)).vaultQ = []) ∧
    (((vaultOn r0 .flip).ring 0).vault = some (aVault .flip) ∧ (aVault .flip).old < 18 ∧ (aVault .flip).target ≠ (aVault .flip).old ∧
      ((vaultOn r0 .flip).die (dieOf 3)).vaultQ = []) ∧
    r0.pkg.faulted = false ∧ ((vaultOn { r0 with pkg := { r0.pkg with faulted := true } } .copy).pkg.faulted = true) := by decide

/-- A checkpoint descriptor of one range, and one of none; partition 0's records lie from 0x200000 on. -/
def ckpt (n : Nat) : State :=
  let s := fw 0 0 0
  let words : Memory := ((s.mem.writeN 0x400008 [BitVec.ofNat 8 n]).writeN 0x400010 (bvBytes 8 0x600000#64)).writeN 0x400020 (bvBytes 8 0x500000#64)
  ({ s with mem := words.writeN 0x400028 (bvBytes 8 0x1000#64) }).modPart 0 fun p => { p with khead := 0x200000, fnmode := 0, ckint := 0 }
/-- The same in CKPT mode `m`, and while a pass runs. -/
def ckptIn (m n : Nat) : State := (ckpt n).modPart 0 fun p => { p with fnmode := BitVec.ofNat 64 (m <<< 10) }
def aPass (next : Nat) : Pass := ⟨0, 0x600000, next, 0, [(0x500000, 0x1000)], 0x400000, false⟩
def runs (s : State) : State := s.modPart 0 fun p => { p with pass := some (aPass 0) }

/-- A lease on the line of the descriptor is out. -/
def ckptHeld (m n : Nat) : State := (ckptIn m n).modFab fun f => { f with leases := [(0x400000 / 64, 1000)] }
theorem test_hyps_PassesStart (n : Nat) (h : n = 0 ∨ n = 1) :
    (∀ m ∈ [0, 1, 2], ((ckptIn m n).part 0).ckptMode = m ∧ ((ckptIn m n).part 0).pass = none ∧ descriptorLater (ckptIn m n) 0 = false ∧
      (readDescriptor (ckptIn m n) 0).ok = (n == 1) ∧ ((runs (ckptIn m n)).part 0).pass.isSome = true ∧ ((runs (ckptIn m n)).part 0).ckptMode = m ∧
      (devicePut (ckptIn m n) 0 ((ckptIn m n).descVa 0) (deviceGet (ckptIn m n) 0 ((ckptIn m n).descVa 0) ||| 1)).isSome = true ∧
      (ckptIn m n).ownsRing 0 = true ∧ ((ckptIn m n).part 0).lastPass + ((ckptIn m n).part 0).ckint.toNat ≤ (ckptIn m n).time ∧
      (phase 6 (ckptIn m n)).pkg.phase = 6 ∧ (phase 6 (ckptIn m n)).pkg.command = false ∧
      (devicePut (ckptHeld m n) 0 ((ckptHeld m n).descVa 0) (deviceGet (ckptHeld m n) 0 ((ckptHeld m n).descVa 0) ||| 1)).isNone = true) ∧
    (Privileged (ckptIn 1 n) ∧ X (ckptIn 1 n) 1 = BitVec.ofNat 64 0 ∧ isMgmt (ckptIn 1 n).cur.unit = true ∧ orderedAt (ckptIn 1 n) 3 = true) := by
  rcases h with rfl | rfl <;> exact ⟨by decide, ⟨⟨by decide, by decide, by decide⟩, by decide⟩, by decide, by decide, by decide⟩

/-- A pass over one granule at 0x500000, not written or written, and at its end; and one whose granule is not mapped. -/
def passing (next : Nat) (unwritten : List Nat) : State :=
  ((ckpt 1).modPart 0 fun p => { p with pass := some (aPass next) }).modFab fun f => { f with unwritten := unwritten }
def passEnd1 : State := optGet (passing 1 []) (devicePut (passing 1 []) 0 (BitVec.ofNat 64 0x400000 + 24) (BitVec.ofNat 64 0))
def lostPass : Pass := { aPass 0 with ranges := [(0x10000000000, 0x1000)] }
def lost : State := (ckpt 1).modPart 0 fun p => { p with pass := some lostPass }
def lostFault : BitVec 16 := match lost.deviceXlate 0 false (BitVec.ofNat 64 0x10000000000) with | .error e => e | .ok _ => 0

theorem test_hyps_PassesCopyWrittenGranules :
    (((passing 0 [0x500]).part 0).pass = some (aPass 0) ∧ (aPass 0).paused = false ∧ (aPass 0).granule = some (0x500000, 0x600000) ∧
      okIs ((passing 0 [0x500]).deviceXlate 0 false (BitVec.ofNat 64 0x500000)) (at_ 0x500000) = true ∧
      (passing 0 [0x500]).fab.unwritten.contains (0x500000 / 4096) = true) ∧
    (isDevMem 0x500000 = true ∧ (passing 0 []).fab.unwritten.contains (0x500000 / 4096) = false ∧
      okIs ((passing 0 []).deviceXlate 0 true (BitVec.ofNat 64 0x600000)) (at_ 0x600000) = true ∧ (at_ 0x600000).pa % 16 = 0 ∧
      granuleReady (passing 0 []) 0x500000 0x600000 = true ∧ ∀ k ∈ linesOf 0x600000 4096, k / 64 ≠ 0x500000 / 4096) ∧
    ((lost.part 0).pass = some lostPass ∧ lostPass.granule = some (0x10000000000, 0x600000) ∧
      errIs (lost.deviceXlate 0 false (BitVec.ofNat 64 0x10000000000)) lostFault = true ∧ xLater lostFault = false) ∧
    ((aPass 1).granule = none ∧
      (devicePut (passing 1 []) 0 (BitVec.ofNat 64 0x400000 + 24) (BitVec.ofNat 64 0)).isSome = true ∧
      (devicePut passEnd1 0 (BitVec.ofNat 64 0x400000) ((0#32 + 1) ++ 0#30 ++ BitVec.ofBool true ++ 0#1)).isSome = true) :=
  ⟨by decide, by decide, by decide, by decide⟩

/-! ## Events -/

/-- A line whose home is die 1. -/
def farLine : Nat := 2 ^ 31
def rdcHas (e : Option Nat) : State := (r0.modDie 0 fun d => { d with rdc := match e with | none => [] | some x => [(farLine, x)] })
def farStore : PStore := { aStore none with pa := 2 ^ 37 }

theorem test_hyps_LeasesAreGranted :
    remoteHome 0 0x1000 = false ∧ remoteHome 0 farLine = true ∧
    ((rdcHas (some 9)).time < 9 ∧ ((rdcHas (some 9)).die (dieOf 0)).rdc.find? farLine = some 9) ∧
    (((rdcHas (some 0)).die (dieOf 0)).rdc.find? farLine = some 0 ∧ 0 ≤ (rdcHas (some 0)).time) ∧ ((rdcHas none).die (dieOf 0)).rdc.find? farLine = none ∧
    linePending ((rdcHas none).modFab fun f => { f with pend := [farStore] }) farLine = true ∧ linePending (rdcHas none) farLine = false ∧
    (rdcHas none).lineWaited farLine = false ∧ (rdcHas none).fab.pend = [] ∧ (rdcHas none).fab.gated.contains (.rdc (dieOf 0)) = false ∧
    (rdcHas none).fab.sweeping.contains (.rdc (dieOf 0)) = false := by decide

/-- A miss of context 0 of core 0, or of its sequencer, for a load or for ownership; a line homed on this die or another. -/
def aMiss (c line : Nat) (fwd own : Bool) : Miss := ⟨0, c, line, scalarHeader (if own then .store else .load) (64 * line) 8, fwd, own⟩
/-- The core's leg cache is not admitted. -/
def barred (s : State) : State := s.modFab fun f => { f with sweeping := [.legCache 0] }
def missing (m : Miss) : State := r0.modFab fun f => { f with misses := [m] }

theorem test_hyps_MissesAreFilled (line : Nat) (hl : line = 0x1000 ∨ line = farLine) (own : Bool) :
    (own = true → exposedUnits (missing (aMiss 0 line false own)) ((missing (aMiss 0 line false own)).core 0).strand line = []) ∧
      lruOf ((missing (aMiss 0 line false own)).core 0).lines (lineSet line) = none ∧ (missing (aMiss 0 line false own)).cacheOff 0 = false ∧
      ((missing (aMiss 0 line false own)).fab.misses.find? fun m => m.unit == 0 && m.ctx == 0 && !m.forward) = some (aMiss 0 line false own) ∧
      (missing (aMiss 0 line false own)).hostKeeps line = false ∧ (missing (aMiss 0 line false own)).hostFree line = true ∧
      (missing (aMiss 0 line false own)).cacheBarred 0 = false ∧ (barred (missing (aMiss 0 line false own))).cacheBarred 0 = true ∧
      ((barred (missing (aMiss 0 line false own))).fab.misses.find? fun m => m.unit == 0 && m.ctx == 0 && !m.forward) = some (aMiss 0 line false own) ∧ linePending (missing (aMiss 0 line false own)) line = false ∧
      (missing (aMiss 0 line false own)).lineWaited line = false ∧
      ((missing (aMiss 0 line true own)).fab.misses.find? fun m => m.unit == 0 && m.ctx == 0 && m.forward) = some (aMiss 0 line true own) ∧
      forwardHeld (missing (aMiss 0 line true own)) 0 = false ∧ olderDirty (missing (aMiss 0 line true own)) 0 line = false ∧
      ((missing (aMiss 8 line false false)).fab.misses.find? fun m => m.unit == 0 && m.ctx == 8 && !m.forward) = some (aMiss 8 line false false) := by
  rcases hl with rfl | rfl <;> cases own <;> decide

/-- An older leg of the strand, on another core, has written the line. -/
def olderWrote : State :=
  ((inReg false 1 4).modCore 1 fun c => { c with strand := some 0, leg := some (leg0 0 0), lines := [{ lineIn 0x1000 .L with dirty := 15 }] }).modStrand 0
    fun x => { x with size := 2 }
theorem test_hyps_MissesAreFilled_forwarded : olderDirty olderWrote 0 0x1000 = true ∧ forwardHeld olderWrote 0 = false := by decide

/-- A context, or the sequencer, whose request has been refused until cycle `n`; and a full slice. -/
def aHdr : Header := scalarHeader .load 0x40000 8
def refusedUntil (n : Nat) (own : Bool) : State := r0.modMe fun x => { x with stall := some (.refused aHdr own n) }
def vecRefused (n : Nat) : State := r0.modHere fun c => { c with seq := { c.seq with refused := [(aHdr, n)] } }
def fullSlice (s : State) : State := s.modFab fun f => { f with misses := List.replicate 64 { aMiss 0 0x1000 false false with unit := 1 } }

theorem test_hyps_RefusedRequestsAreRetried (own : Bool) :
    aHdr.line = 0x1000 ∧ (∀ n, ((refusedUntil n own).ctx 0 0).stall = some (.refused aHdr own n) ∧ ((vecRefused n).core 0).seq.refused = [] ++ (aHdr, n) :: []) ∧
      ((refusedUntil 9 own).now < 9 ∧ 0 ≤ (refusedUntil 0 own).now ∧ (refusedUntil 0 own).missFull 0 0x1000 = false ∧ (refusedUntil 0 own).cacheBarred 0 = false) ∧
      ((vecRefused 9).now < 9 ∧ 0 ≤ (vecRefused 0).now ∧ (vecRefused 0).missFull 0 0x1000 = false ∧ (vecRefused 0).cacheBarred 0 = false) ∧
      (barred (refusedUntil 0 own)).cacheBarred 0 = true ∧
      ((fullSlice (refusedUntil 0 own)).missFull 0 0x1000 = true ∧ ((fullSlice (refusedUntil 0 own)).ctx 0 0).stall = some (.refused aHdr own 0) ∧
        ∀ m ∈ (fullSlice (refusedUntil 0 own)).fab.misses, m.unit = 0 → m.ctx ≠ 0) ∧
      ((fullSlice (vecRefused 0)).missFull 0 0x1000 = true ∧ ((fullSlice (vecRefused 0)).core 0).seq.refused = [(aHdr, 0)] ∧
        ∀ m ∈ (fullSlice (vecRefused 0)).fab.misses, m.unit = 0 → m.ctx ≠ 8) := by
  refine ⟨rfl, fun n => ⟨rfl, rfl⟩, ?_⟩
  cases own <;> decide

/-- MONWAIT's monitor has fired, or not. -/
theorem test_hyps_MonitorsFire : ((monitored true).ctx 0 0).monitor.any (·.fired) = true ∧ ((monitored false).ctx 0 0).monitor.any (·.fired) = false := by decide

theorem test_hyps_SquashedLegsRestart :
    ((inReg false 1 4).core 0).leg = some (leg0 1 4) ∧ (inReg false 1 4).regionOf 0 = some { reg0 false with runner := 1 } := ⟨by decide, rfl⟩

/-- A clean copy of a host line, with a monitor on it; a leased line; and a line that a leg has read. -/
def hostCopy : State := (r0.modHere fun c => { c with lines := [lineIn (2 ^ 45) .S] }).modCtx 0 1 fun x => { x with monitor := some ⟨2 ^ 45, true, false, 0⟩ }
def leasedLine : State := r0.modHere fun c => { c with lines := [{ lineIn farLine .S with lease := some 0 }] }
def legRead : State := (inReg false 1 4).modHere fun c => { c with lines := [{ lineIn 0x1000 .L with exposed := 1 }] }

theorem test_hyps_CopiesGo :
    (isHost (64 * 0x1000) = false ∧ ((legRead.core 0).lines.any fun x => x.line == 0x1000 && x.st == .L && x.exposed != 0) = true) ∧
      (((hostCopy.core 0).lines.any fun x => x.line == 2 ^ 45 && x.st == .L && x.exposed != 0) = false ∧
        (∃ x ∈ (hostCopy.core 0).lines, x.line = 2 ^ 45 ∧ x.st ≠ .L) ∧ isHost (64 * 2 ^ 45) = true ∧
        (hostCopy.ctx 0 1).monitor = some ⟨2 ^ 45, true, false, 0⟩) ∧
      (((rdcHas (some 9)).die 0).rdc.find? farLine = some 9 ∧ (rdcHas (some 9)).time < 9 ∧ ((rdcHas (some 0)).die 0).rdc.find? farLine = some 0 ∧
        0 ≤ (rdcHas (some 0)).time) ∧
      (dieOf 0 = 0 ∧ ∃ x ∈ (leasedLine.core 0).lines, x.leaseOver farLine leasedLine.time = true) :=
  ⟨by decide, ⟨by decide, ⟨_, .head _, by decide⟩, by decide, by decide⟩, by decide, by decide, ⟨_, .head _, by decide⟩⟩

/-- A pending store to a line that is leased until later, and one that may be performed. -/
def leased : State := (laneStores none).modFab fun f => { f with leases := [(0x1000, 9)] }

theorem test_hyps_StoresArePerformed :
    ((laneStores none).fab.pend[0]? = some (aStore none) ∧ (aStore none).add = none ∧ pendReady (laneStores none) 0 (aStore none) = true ∧ (aStore none).et = false) ∧
      pendReady leased 0 (aStore none) = false := by decide

/-- A dirty line of a leg cache, of the L2 and of its write-back buffers; and one whose own context waits for it. -/
def dirtyLeg : State := r0.modHere fun c => { c with lines := [lineIn 0x1000 .M] }
def dirtyForced : State := dirtyLeg.modMe fun x => { x with stall := some .order }
def dirtyL2 : State := r0.modFab fun f => { f with l2 := [(0x1000, 0)] }
def dirtyBuffer : State := r0.modFab fun f => { f with wb := [(0x1000, 0)] }

/-- The same line in a leg that has read it before its write-back; and a line that the runner has written. -/
def dirtyRunner : State := (inReg false 1 7).modHere fun c => { c with lines := [{ lineIn 0x1000 .L with dirty := 1, mask := 255 }] }
def dirtyHeld : State := dirtyRunner.modFab fun f => { f with leases := [(0x1000, 1000)] }

theorem test_hyps_DirtyLinesAreWrittenBack :
    (linePending dirtyLeg 0x1000 = false ∧ ((dirtyLeg.core 0).lines.find? fun x => x.line == 0x1000 &&
        (x.st == .M || (x.st == .L && x.dirty != 0 && dirtyLeg.isRunner 0 0))) = some (lineIn 0x1000 .M) ∧ dirtyLeg.versioned 0 0 = false ∧
      forcedBy dirtyLeg 0 (lineIn 0x1000 .M) = false ∧ forcedBy dirtyForced 0 (lineIn 0x1000 .M) = true ∧ linePending dirtyForced 0x1000 = false ∧
      (dirtyForced.part 0).recov = .run ∧ dirtyRunner.versioned 0 0 = true) ∧
      (let line : Line := { lineIn 0x1000 .L with dirty := 1, mask := 255 }
       (dirtyRunner.core 0).lines = [line] ∧ (dirtyHeld.core 0).lines = [line] ∧ ∀ s ∈ [dirtyRunner, dirtyHeld],
        (line.line == 0x1000 && (line.st == .M || (line.st == .L && line.dirty != 0 && s.isRunner 0 0))) = true) ∧
      (lineReady dirtyRunner 0 0x1000 = true ∧ lineReady dirtyHeld 0 0x1000 = false ∧ ∀ i < 4, 4 * 0x1000 + i ∉ dirtyRunner.fab.poison) ∧
      (linePending dirtyL2 0x1000 = false ∧ dirtyL2.fab.wb.find? 0x1000 = none ∧ dirtyL2.fab.l2.find? 0x1000 = some 0 ∧ forcedByPart dirtyL2 0 = false) ∧
      (linePending dirtyBuffer 0x1000 = false ∧ dirtyBuffer.fab.wb.find? 0x1000 = some 0) :=
  ⟨⟨by decide, rfl, by decide⟩, ⟨rfl, rfl, by decide⟩, by decide, by decide, by decide⟩

theorem test_hyps_AgentsRejoin :
    (∀ a ∈ [Agent.legCache 0, .rdc 0, .l2 0 0], r0.fab.gated.contains a = false ∧ r0.fab.sweeping.contains a = false ∧ canGate r0 a = true ∧
      agentOff (r0.modFab fun f => { f with gated := [a] }) a = true ∧ (r0.modFab fun f => { f with sweeping := [a] }).fab.sweeping.contains a = true) ∧
    agentOff r0 (.llc 0) = true ∧ canGate r0 (.llc 0) = false ∧
    agentOff (r0.modRing 0 fun r => { r with remap := putBits r.remap 112 2#2 }) (.slot 0 16) = true := by decide

/-- The die's TLB maps the page. -/
def dieMaps : State := (tables r0).modDie 0 fun d => { d with tlb := [{ (default : TlbEntry) with tag := ((tables r0).part 0).tag, vpage := 0x900000 / 2 ^ 16, size := 16 }] }

theorem test_hyps_WalksFillTheTlbs :
    isMgmt 0 = false ∧ (tables r0).vaulting 0 = false ∧ ((dieMaps.core 0).tlb.any (·.hit (dieMaps.part (dieMaps.issuePart 0 0)).tag 0x900000)) = false ∧
      ((dieMaps.die (dieOf 0)).tlb.find? (·.hit (dieMaps.part (dieMaps.issuePart 0 0)).tag 0x900000)).isSome = true ∧ (0x900000#64).toNat < 2 ^ 56 ∧ (((tables r0).core 0).tlb.any (·.hit ((tables r0).part ((tables r0).issuePart 0 0)).tag 0x900000)) = false ∧
      (((tables r0).die (dieOf 0)).tlb.find? (·.hit ((tables r0).part ((tables r0).issuePart 0 0)).tag 0x900000)) = none ∧
      passes (walk (tables r0) ((tables r0).issuePart 0 0) 0x900000) = true := by decide

/-- The strand's region has begun, and no leg runs on core 0. -/
def legFree : State := (r0.modStrand 0 fun x => { x with region := some { reg0 true with next := [(0, 1)] } }).modCtx 0 0 fun x => { x with resident := false }
/-- A save waits for the runner, which has not started. -/
def legDue : State :=
  (r0.modStrand 0 fun x => { x with region := some { reg0 false with next := [(0, 0)] }, saving := some (0x100000, 1024, 0) }).modCtx 0 0 fun x => { x with resident := false }

theorem test_hyps_LegsStart :
    (∃ x, legFree.strand? 0 = some x ∧ x.region = some { reg0 true with next := [(0, 1)] } ∧ strandRuns legFree x = true ∧
      lowestLeg (legCandidates legFree 0 x { reg0 true with next := [(0, 1)] }) = some (1, 0)) ∧
    (∃ x, legDue.strand? 0 = some x ∧ x.region = some { reg0 false with next := [(0, 0)] } ∧ strandRuns legDue x = false ∧
      runnerDue legDue 0 x { reg0 false with next := [(0, 0)] } = true ∧ lowestLeg (legCandidates legDue 0 x { reg0 false with next := [(0, 0)] }) = some (0, 0)) :=
  ⟨⟨_, rfl, rfl, by decide, by decide⟩, ⟨_, rfl, rfl, by decide, by decide, by decide⟩⟩

/-- Leg 1 with the parcel `p` at hand; `rd` says that it has read the register. -/
def parcelled (p : Parcel) (rd : BitVec 32) : State :=
  (inReg false 1 4).modHere fun c => { c with leg := some { leg0 1 4 with inbox := [p], read := rd } }

theorem test_hyps_BatonsAreDelivered (rd : BitVec 32) (h : rd = 0 ∨ rd = 8) :
    (parcelled (.value 3 7) rd).vaulting 0 = false ∧ ((parcelled (.value 3 7) rd).core 0).leg = some { leg0 1 4 with inbox := [.value 3 7], read := rd } ∧
      ((parcelled (.value 3 7) rd).core 0).strand = some 0 ∧ (parcelled (.value 3 7) rd).regionOf 0 = some { reg0 false with runner := 1 } ∧
      rd.getLsbD 3 = (rd == 8) ∧ (7 : Word) ≠ vget (leg0 1 4).start 0 3 := by
  rcases h with rfl | rfl <;> exact ⟨by decide, by decide, by decide, rfl, by decide, by decide⟩

theorem test_hyps_BroadcastsSquash :
    (parcelled (.store [0x4000]) 0).vaulting 0 = false ∧
      ((parcelled (.store [0x4000]) 0).core 0).leg = some { leg0 1 4 with inbox := [.store [0x4000]] } ∧ ((parcelled (.store [0x4000]) 0).core 0).strand = some 0 :=
  ⟨by decide, by decide, by decide⟩

/-- A block waits in the fetch queue. -/
def waitingBlock : State := (vec 1 32).modHere fun c => { c with seq := { c.seq with active := false } }
/-- The turn of leg 1 has come, and the baton is on its way. -/
def nextRunner : State := (inReg false 1 4).modStrand 0 fun x => { x with region := some { reg0 false with runner := 1, arrived := false } }

theorem test_hyps_TheRunnerIsNext :
    ∃ x, nextRunner.strand? 0 = some x ∧ x.region = some { reg0 false with runner := 1, arrived := false } ∧
      ((nextRunner.legsOf 0).find? fun y => y.1 == 1) = some (1, 0) ∧ nextRunner.vaulting 0 = false ∧ (nextRunner.core 0).leg = some (leg0 1 4) ∧ (leg0 1 4).inbox = [] :=
  ⟨_, rfl, rfl, by decide, by decide, by decide, rfl⟩

theorem test_hyps_BlocksStart :
    (∃ e, (waitingBlock.core 0).seq.fq = e :: []) ∧ (waitingBlock.core 0).seq.active = false ∧ (waitingBlock.core 0).seq.frozen = false ∧
      (waitingBlock.core 0).seq.fault = none ∧ waitingBlock.vaulting 0 = false := ⟨⟨_, rfl⟩, by decide, by decide, rfl, by decide⟩

def blockFault : State := trapping.modHere fun c => { c with seq := { c.seq with fault := some trapOperand } }

theorem test_hyps_BlockFaultsAreTaken :
    TrapReady blockFault 0 0 (at_ 0x200000) ∧ (blockFault.core 0).seq.fault = some trapOperand ∧ (blockFault.core 0).seq.frozen = false ∧
      (blockFault.ctx 0 0).trap = .none ∧ (blockFault.ctx 0 0).resident = true ∧ (blockFault.ctx 0 0).stopped = false ∧ blockFault.vaulting 0 = false ∧
      blockFault.speculative 0 0 = false ∧ blockFault.versioned 0 0 = false :=
  ⟨⟨by decide, by decide, by decide, ok_of (by decide), by decide, by decide, by decide, .inl (by decide)⟩, by decide, by decide, by decide, by decide,
    by decide, by decide, by decide, by decide⟩

/-! ## The package and its host -/

def up (s : State) : State := phase 6 s
def hostHas (held : Bool) : State := (up r0).modFab fun f => { f with hostLines := [(0x1000, held)] }

theorem test_hyps_HostAccesses :
    hostReady (phase 5 r0) = false ∧ hostReady (up r0) = true ∧ hostInLine 0x40000 [1#8, 2#8].length = true ∧
    (up leased).leaseOk (0x40000 / 64) = false ∧ ((up r0).leaseOk (0x40000 / 64) = true ∧ (up r0).unlocked (0x40000 / 64) = true) ∧
    (isDevMem 0x40000 = true ∧ (up r0).fab.hostLines.find? (0x40000 / 64) = none) ∧
    (∀ h ∈ [true, false], (hostHas h).fab.hostLines.find? 0x1000 = some h ∧ hostReady (hostHas h) = true ∧ (hostHas h).fab.pend = []) ∧
    hostReady (up leased) = true ∧ snooping (up leased) (0x40000 / 64) = false ∧ snooping ((hostHas true).modFab fun f => { f with misses := [aMiss 0 0x1000 false true] }) 0x1000 = true ∧
    (∀ p ∈ (hostHas true).fab.pend, (linesOf p.pa p.bytes.length).contains 0x1000 = false) := by decide

/-- A monitor on a line of host memory. -/
def hostMonitored : State := r0.modCtx 0 1 fun x => { x with monitor := some ⟨2 ^ 45, true, false, 0⟩ }
/-- The leg cache owns a host line. -/
def hostOwned : State := hostMonitored.modHere fun c => { c with lines := [lineIn (2 ^ 45) .M] }
theorem test_hyps_HostSnoops : isHost (64 * 2 ^ 45) = true ∧ (∃ x ∈ (hostOwned.core 0).lines, x.line = 2 ^ 45 ∧ x.st = .M) ∧ (hostOwned.ctx 0 1).monitor = some ⟨2 ^ 45, true, false, 0⟩ := ⟨by decide, ⟨_, .head _, by decide⟩, by decide⟩

/-- A copy to host memory. -/
def hostTo (va : Word) : Copy := { aCopy with dstk := 0, dst := va }
def hostCopying : State := (r0.modHere fun c => { c with copies := [hostTo 0x40000] }).modCore 0 fun c => { c with tlb := c.tlb.map fun e => { e with ppage := 2 ^ 51 / 2 ^ e.size } }
def hostMiss : State := r0.modFab fun f => { f with misses := [aMiss 0 (2 ^ 45) false false] }
theorem test_hyps_HostLinkFailures :
    (hostMiss.pkg.hostLink = true ∧ hostOutstanding hostMiss = [⟨some 0, 0, 2 ^ 45⟩] ∧ hostMiss.partOf 0 = some 0 ∧ (hostMiss.part 0).recov = .run) ∧
      (0 < (hostTo 0x40000).chunks ∧ chunkHostLines hostCopying 0 (hostTo 0x40000) true 0 ≠ []) ∧
      insideHostLines insided anInside = [] ∧
      (r0.modPkg fun p => { p with hostLink := false }).pkg.hostLink = false := by decide

/-- A remote store in flight through station `k`, all stations of the pair up, or only `k`. -/
def aSent (k : Nat) : Sent := { (default : Sent) with unit := 0, ctx := 0, id := 4, pkg := 9, station := k }
def inFlight (ups : Word) : State := ((roped true).modPkg fun p => { p with sent := [aSent 0], link := p.link ||| ups <<< 38 })

theorem test_hyps_StationsFail :
    (0 : BitVec 4).toNat < 12 ∧
    ({ (inFlight 3).pkg with downSt := putBit (inFlight 3).pkg.downSt 0 true }.carries 0 = some 1) ∧
    (podColl.pkg = true ∧ podColl.done = false ∧ (∃ m ∈ podColl.members, m ≠ r0.pkg.id ∧ { r0.pkg with downSt := putBit r0.pkg.downSt 0 true }.route m podColl.dst = none)) ∧
    ({ (inFlight 1).pkg with downSt := putBit (inFlight 1).pkg.downSt 0 true }.carries 0 = none ∧ ((inFlight 1).ctx 0 0).rops.find? (fun r => r.id == 4) = some ⟨4, true⟩) := by decide

theorem test_hyps_ThrottleLevels : 3600 < (3601#16).toNat ∧ 95 < (96#8).toNat ∧ ((3499#16).toNat < 3500 ∧ (89#8).toNat < 90) ∧
    105 ≤ (105#8).toNat ∧ (96#8).toNat < 105 ∧ r0.pkg.lastThrot = none ∧ ¬(0 + 100 ≤ r0.time) := by decide

theorem test_hyps_PackageFaultAndReset :
    r0.pkg.faulted = false ∧ (r0.part 0).recov = .run ∧ (r0.modPkg fun p => { p with faulted := true }).pkg.faulted = true := by decide

theorem test_hyps_BringupPhases :
    (∀ k ∈ [(1 : BitVec 4), 2, 3, 4, 5], (phase k r0).pkg.phase = k) ∧ (List.replicate 64 (r0.ring 0).remap).length = 64 ∧
      (∀ m ∈ List.replicate 64 (r0.ring 0).remap, remapOk m = true) ∧ remapOk 0 = false ∧ r0.pkg.slot1 = false := by
  refine ⟨by decide, by decide, fun m h => ?_, by decide, by decide⟩
  rw [(List.mem_replicate.1 h).2]; decide

theorem test_hyps_RegisterCommands :
    (phase 1 r0).pkg.phase ≠ 6 ∧ ((up r0).pkg.phase = 6 ∧ (up r0).pkg.command = false ∧ (asked (up r0)).pkg.command = true) ∧ pregOf (0x107 : BitVec 12).toNat 0 = none ∧ pregOf (0x101 : BitVec 12).toNat 3 = some (.fnmode 3) := by decide

/-- A dispatcher strand's image at 0x50000, in a partition of launch mode 2. -/
def dispatching (entry : Word) (node : Bool) : State :=
  let s := up (queued (tables r0))
  let s := { s with mem := s.mem.writeN 0x50000 (bvBytes 8 entry) }
  (s.modPart 0 fun p => { p with fnmode := 2, recov := if node then .run else .drain })
def dImage (s : State) : Option Image := dispatcherImage s 0 0x50000

theorem test_hyps_DispatcherStrandsStart :
    (up r0).ownsRing 0 = true ∧ ((dispatching 1 true).pkg.command = false ∧ (dispatching 0x40000 false).pkg.command = false) ∧ (∀ n, deviceLater (dispatching 0x40000 n) 0 0x50000 = false ∧ deviceLater (dispatching 0x40000 n) 0 0x50001 = false) ∧
    deviceLater (dispatching 1 true) 0 0x50000 = false ∧ ((up r0).part 0).launchMode ≠ 2 ∧ (∀ n, ((dispatching 0x40000 n).part 0).launchMode = 2) ∧
    ((dispatching 0x40000 true).queue (4 * 0 + 0)).qctl.getLsbD 63 = true ∧ dispatcherImage (dispatching 0x40000 true) 0 0x50001 = none ∧
    ((dImage (dispatching 1 true)).map (dispatcherOk (dispatching 1 true) 0) = some false) ∧
    ((dImage (dispatching 0x40000 true)).map fun i => dispatcherOk (dispatching 0x40000 true) 0 i && nodeRoom (dispatching 0x40000 true) ((dispatching 0x40000 true).partDie 0) i.ranges &&
      linksFree (dispatching 0x40000 true) (some ((dispatching 0x40000 true).partDie 0)) (predsOf (dispatching 0x40000 true) 0 none i.ranges i.preds)) = some true ∧
    (dispatching 0x40000 true).placing 0 = true ∧ (dispatching 0x40000 false).placing 0 = false ∧
    ((dImage (dispatching 0x40000 false)).map (dispatcherOk (dispatching 0x40000 false) 0) = some true) := by decide

def queuedOut : State := (up r0).modPkg fun p => { p with outq := [⟨1, 2, 3⟩] }
theorem test_hyps_MailboxMessages :
    (up r0).pkg.phase = 6 ∧ (up r0).pkg.command = false ∧ (up r0).ownsRing 0 = true ∧ (up r0).pkg.outq = [] ∧ queuedOut.pkg.outq = [⟨1, 2, 3⟩] ∧ ∀ p < 16, (queuedOut.part p).notes = [] := by decide

/-- An open page fault of a copy, and of a checkpoint pass. -/
def open_ (who : Faulter) (mode : BitVec 2) : State :=
  (passing 0 []).modPkg fun p => { p with phase := 6, pfaults := [(3, { (default : PageFault) with who := who, mode := mode })] }

theorem test_hyps_PageFaultsEnd :
    (∀ m ∈ [(1 : BitVec 2), 2], ∀ w ∈ [Faulter.copy 0 1, .pass 0], (open_ w m).pkg.pfaults.find? 3 = some { (default : PageFault) with who := w, mode := m } ∧
      (open_ w m).pkg.phase = 6 ∧ (open_ w m).pkg.command = false ∧ ∀ served, abortWaits (open_ w m) { (default : PageFault) with who := w, mode := m } served = none) ∧
    (let s := (open_ (.pass 0) 1).modFab fun f => { f with leases := [(0x400000 / 64, 1000)] }
     (abortWaits s { (default : PageFault) with who := .pass 0 } false).isSome = true) ∧ ((open_ (.pass 0) 1).part 0).pass = some (aPass 0) := by decide

/-! ## Ill-formed instructions and words (R147 to R154), each refused by the check that it breaks -/

/-- Register numbers beyond 7 in shared operands, a width, a scope, a JOIN offset, a message's registers, an
address pair (R119, R147, R176, R184, R260). -/
def illControl : List (Instr × Reject) :=
  [(.add 8 1 2 true false false, .fieldValue), (.sub 1 8 2 false true false, .fieldValue), (.mul 1 2 8 false false true, .fieldValue),
   (.clz 8 1 true false, .fieldValue), (.sext 1 2 false false 3, .fieldValue), (.zext 1 2 false false 3, .fieldValue),
   (.lda 1 2 5, .fieldValue), (.stl 1 2 6, .fieldValue), (.amoadd 1 2 3 7, .fieldValue), (.coll 1 2 5, .fieldValue), (.collwait 1 5, .fieldValue),
   (.fence 5, .fieldValue), (.fork 1 2 3 0, .fieldValue), (.forki 1 2 3 0, .fieldValue), (.send 1 2 3 7, .fieldValue), (.send 1 2 3 0, .fieldValue),
   (.send 1 30 3 4, .fieldValue), (.rload 1 0 3, .fieldValue), (.rstore 1 3 3, .fieldValue), (.ramoadd 1 5 2, .fieldValue)]
theorem test_illControl : (illControl.all fun x => x.1.check == some x.2 && !WellFormed x.1) = true := by decide

/-- The rules that every block word obeys (R151, R152): an unused register, a number beyond its range, a governing
predicate, zm, PINV, a type, a shape, a slice, a rounding code, an unused FUNC bit. -/
def illFields : List (Instr × Reject) :=
  [(.vstop { fz with vd := 1 }, .unusedField), (.vnop { fz with vc := 1 }, .unusedField), (.vmov { fz with vb := 1 }, .unusedField),
   (.vloopSet { fz with vd := 4, func := 1 }, .register), (.mtld { fz with vd := 8, ty := 10 }, .register), (.mtld { fz with va := 31, ty := 10 }, .register),
   (.maccz { fz with vd := 2 }, .register), (.vmerge { fz with vd := 31 }, .register), (.vstop { fz with pm := 1 }, .predicate),
   (.vstop { fz with zm := true }, .predicate), (.pany { fz with pm := 1, zm := true }, .predicate), (.vst { fz with pm := 1, zm := true }, .predicate),
   (.vstsScl { fz with ty := 18, pm := 1, func := 0x10 }, .predicate), (.vldScl { fz with ty := 18, zm := true, func := 0x10 }, .predicate), (.vadd { fz with pinv := true }, .predicate),
   (.pcnt { fz with pinv := true }, .predicate), (.vadd { fz with ty := 10 }, .elementType), (.vfadd { fz with ty := 4 }, .elementType),
   (.vmov { fz with ty := 21 }, .elementType), (.vldx { fz with ty := 12, func := 1 }, .elementType), (.vadd { fz with sh := 3 }, .shape),
   (.vadd { fz with slice := 1 }, .shape), (.vxpose { fz with sh := 1 }, .shape), (.mmaIp { fz with ty := 10 }, .shape),
   (.vmerge { fz with sh := 2 }, .shape), (.vadd { fz with rnd := 1 }, .rounding), (.vfadd { fz with ty := 10, rnd := 5 }, .rounding),
   (.vfadd { fz with ty := 10, rnd := 6 }, .rounding), (.vredsum { fz with rnd := 1 }, .rounding), (.vsel { fz with func := 1 }, .unusedField),
   (.vadd { fz with func := 2 }, .unusedField)]
theorem test_illFields : (illFields.all fun x => x.1.check == some x.2 && !WellFormed x.1) = true := by decide

/-- What the entries add: a scalar source beside a vector one, a comparison, a sign operation, a conversion, an
addressing mode, a transfer of scale bytes, a register list, an index type, a counter, a region, a reply, a scope,
a tile transfer, a dataflow. -/
def illEntries : List Instr :=
  [.vadd { fz with vb := 1, func := 1 }, .vadd { fz with vc := 1 }, .vcmp { fz with func := 12 }, .vfsgn { fz with ty := 10, func := 6 },
   .vcvt { fz with ty := 4, func := 12 }, .vcvt { fz with ty := 4, func := 4 }, .vcvt { fz with ty := 10, func := 0x24 }, .vcvt { fz with ty := 10, func := 0x104 },
   .vquant { fz with ty := 12, func := 4 }, .vdeq { fz with ty := 10, func := 10 }, .vld { fz with func := 3 }, .vld { fz with vb := 1 },
   .vst { fz with ty := 12, func := 1 }, .vldScl { fz with ty := 18, func := 0x11 }, .vstScl { fz with ty := 18, vb := 1, func := 0x10 },
   .vldsScl { fz with ty := 18, func := 2 }, .vstsScl { fz with ty := 18, vb := 1, func := 0x10 }, .vldseg { fz with vd := 30, func := 2 },
   .vstseg { fz with ty := 12, func := 1 }, .vldx { fz with ty := 4 }, .vstx { fz with ty := 4 }, .vscadd { fz with ty := 4 }, .vloopSet fz,
   .vloop { fz with func := 1 }, .vregion { fz with pm := 1 }, .vregion { fz with vc := 2 }, .vregion { fz with pm := 1, va := 16 },
   .vreply { fz with vc := 1 }, .lsyncScoped { fz with func := 4 }, .lsyncScoped { fz with func := 13 }, .mtldm { fz with ty := 12, func := 2 },
   .mtldmScl { fz with ty := 12 }, .mtst { fz with ty := 12, func := 2 }, .mtstScl { fz with ty := 12 }, .mmaIp { fz with ty := 10, sh := 1, func := 1 },
   .mmaOp { fz with ty := 10, sh := 1, vc := 1, func := 1 }, .mmaRw { fz with ty := 10, sh := 1 }, .mmaRwSp { fz with ty := 10, sh := 1, vc := 1, func := 3 }]
theorem test_illEntries : (illEntries.all fun i => i.check == some .fieldValue && !WellFormed i) = true := by decide

/-- Control words that hold no instruction, by opcode, by selector and by an unused field. -/
def noInstruction : List (Ctl × Reject) :=
  [(0x00000000#32, .alwaysIllegal), (0xFFFFFFFF#32, .alwaysIllegal), (0x30000000#32, .reservedOpcode), (0x5C000000#32, .reservedOpcode),
   (0x64000000#32, .reservedOpcode), (0x9C000000#32, .reservedOpcode), (0xDC000000#32, .reservedOpcode), (0xF8000000#32, .reservedOpcode),
   (0x0400001E#32, .selector), (0x44000003#32, .selector), (0x60000050#32, .selector), (0x98000004#32, .selector), (0xB4000003#32, .selector),
   (0xC8000050#32, .selector), (0xCC000003#32, .selector), (0xE8000600#32, .selector), (0xEC00000E#32, .selector), (0x04000040#32, .unusedField),
   (0x04000818#32, .unusedField), (0x98200000#32, .unusedField), (0xEC00082B#32, .unusedField), (0xE0001000#32, .unusedField),
   (0x18000040#32, .fieldValue), (0x70000001#32, .fieldValue), (0x74000001#32, .fieldValue)]
theorem test_noInstruction : (noInstruction.all fun x => errIs (decodeCtl x.1) x.2) = true := by decide

def noBlockInstruction : List (Blk × Reject) :=
  [(0x0000000000000000#64, .alwaysIllegal), (0xFF00000000000000#64, .alwaysIllegal), (0x0600000000000000#64, .reservedOpcode),
   (0x3000000000000000#64, .reservedOpcode), (0xC000000000000000#64, .reservedOpcode), (0xBB00000000000000#64, .reservedOpcode),
   (0xDD00000000000000#64, .reservedOpcode), (0x1000000014000000#64, .elementType), (0x0100000000000001#64, .unusedField)]
theorem test_noBlockInstruction : (noBlockInstruction.all fun x => errIs (decodeBlk x.1) x.2) = true := by decide

/-! ## The worked examples of the specification -/

/-- R149: the address of a symbol, a store and a branch; R150: a row slice rounded toward zero; R205: a carry;
R222: a row slice with a pitch. -/
theorem test_workedWords :
    okIs (decodeCtl 0x28A42001#32) (.ldhi 5 0x42001) = true ∧ okIs (decodeCtl 0x08A58010#32) (.addi 5 5 0x8010) = true ∧
    okIs (decodeCtl 0x48E2000F#32) (.std 7 2 3) = true ∧ okIs (decodeCtl 0x78640019#32) (.bltn 3 4 12) = true ∧
    okIs (decodeBlk 0x40088602D4980600#64) (.vfadd { fz with vd := 1, va := 2, vb := 3, pm := 5, zm := true, ty := 10, sh := 1, rnd := 1, pinv := true, slice := 3 }) = true ∧
    okIs (decodeBlk 0x1E1844400E000005#64) (.vaddc { fz with vd := 3, va := 1, vb := 2, vc := 4, ty := 7, func := 5 }) = true ∧
    okIs (decodeBlk 0xB03016A016000002#64) (.vld { fz with vd := 6, vb := 11, vc := 10, ty := 11, func := 2 }) = true := by decide

/-- The bytes of those words in memory: the least significant first (R5, R145). -/
theorem test_wordBytes : bvBytes 4 0x28A42001#32 = [0x01, 0x20, 0xA4, 0x28] ∧
    bvBytes 8 0x40088602D4980600#64 = [0x00, 0x06, 0x98, 0xD4, 0x02, 0x86, 0x08, 0x40] := by decide

/-- The decoder reads a row's word, and `step` runs it as the first instruction after reset. -/
theorem test_tableWord : decodeTableWord 32 0x04490400 = some (.add 2 9 0 true false false) ∧
    decodeTableWord 64 0x0500000000000000 = some (.vnop fz) ∧ decodeTableWord 32 0 = none ∧
    after (step (base 0x08200005)) (fun t => t.me.reg 1 == 5) = true := by decide

/-! ## Single steps -/

/-- R149: LDHI and ADDI rebuild the address of a symbol. -/
theorem test_address : after (exec (.ldhi 5 0x42001) r0) (fun t => t.me.reg 5 == 0x420010000) = true ∧
    after (exec (.addi 5 5 0x8010) (xreg r0 5 0x420010000)) (fun t => t.me.reg 5 == 0x420008010) = true := by decide

/-- R68, R166: a sum wraps, and X0 stays 0. -/
theorem test_add_wraps : after (exec (.add 3 1 2 false false false) (xreg (xreg r0 1 (BitVec.allOnes 64)) 2 3)) (fun t => t.me.reg 3 == 2) = true ∧
    after (exec (.add 0 1 2 false false false) r0) (fun t => t.me.reg 0 == 0) = true := by decide

/-- R167: the least dividend by -1, and by 0. -/
theorem test_division_corners :
    after (exec (.div 3 1 2 false false false) (xreg (xreg r0 1 0x8000000000000000) 2 (BitVec.allOnes 64))) (fun t => t.me.reg 3 == 0x8000000000000000) = true ∧
    after (exec (.rem 3 1 2 false false false) (xreg (xreg r0 1 (-7)) 2 0)) (fun t => t.me.reg 3 == -7) = true := by decide

/-- R174: a branch goes back by a signed offset, in words. -/
theorem test_branch_back : after (exec (.bne 1 2 0x7FFF) r0) (fun t => t.me.pc == r0.me.pc - 4) = true ∧
    after (exec (.bge 2 1 4) r0) (fun t => t.me.pc == r0.me.pc + 4) = true := by decide

/-- R170: a byte is sign-extended; a store is seen by its own context at once. -/
theorem test_load_extends :
    after (exec (.ldb 3 1 0) { lined with mem := lined.mem.writeN 0x40000 [0x80] }) (fun t => t.me.reg 3 == 0xFFFFFFFFFFFFFF80) = true ∧
    after (exec (.ldbn 3 1 0) { lined with mem := lined.mem.writeN 0x40000 [0x80] }) (fun t => t.me.reg 3 == 0x80) = true := by decide

/-- R191: core 36 of ring 2 asks for core 37; and once core 37 is vaulted to slot 16. -/
def onRing2 : State := xreg ((r0.modRing 2 fun r => { r with own := 0x10 }).setCur ⟨36, 0⟩) 6 37
theorem test_locq : after (exec (.locq 5 6) onRing2) (fun t => t.me.reg 5 == 0x0000010500240044) = true ∧
    after (exec (.locq 5 6) (onRing2.modRing 2 fun r => { r with remap := putBits r.remap 25 16#5 })) (fun t => t.me.reg 5 == 0x00000C1000240044) = true := by decide

/-- R164, R319, R320: a software trap with its code; the handler runs with the trap's cause in X30. -/
theorem test_trap : after (exec (.trap 0x21) trapping) (fun t => t.me.pc == 0x40000 && t.me.reg 30 == 0x2111 && t.me.priv) = true := by decide +kernel

/-- R204 to R206: a multiply-add on the lanes of a block, and R193: the lanes are those of the shape. -/
theorem test_vector_add : after (exec (.vadd (sxFld 5)) v8) (fun t => elem (t.vc.reg 1) (blockShape v8 (sxFld 5)) 5 7 == 3) = true := by decide +kernel

/-- Vectors of f32 values, first element in the low bits. -/
def f32s (l : List (BitVec 32)) : BitVec 65536 := BitVec.ofNat 65536 (l.foldr (fun x n => x.toNat + 2 ^ 32 * n) 0)
def holding (s : State) (l : List (Nat × BitVec 65536)) : State := s.setVc (l.foldl (fun v x => { v with v := vset v.v x.1 x.2 }) s.vc)
def lanes (s : State) (r : BitVec 5) (ty : BitVec 5) (n : Nat) : List Nat := (List.range n).map fun j => bits (s.vc.reg r) (tyBits ty * j) (tyBits ty)

/-- R95: 500.0, 300.0, -3.0 and 0.01 to MXFP8 E4M3. -/
theorem test_quantise : after (exec (.vquant { fz with vd := 1, va := 2, ty := 12, func := 10 })
    (holding (vec 1 32) [(2, f32s [0x43FA0000, 0x43960000, 0xC0400000, 0x3C23D70A])]))
    (fun t => lanes t 1 1 5 == [0x7E, 0x79, 0xC4, 0x05, 0] && t.vc.scale false 1 0 0 == 0x7F && t.vc.flags == 0x43) = true := by decide +kernel

/-- R101: 2^24 and five ones, by a tree and in order. -/
def ones : State := holding (vec 1 6) [(2, f32s [0x4B800000, 0x3F800000, 0x3F800000, 0x3F800000, 0x3F800000, 0x3F800000])]
theorem test_reductions : after (exec (.vredsum (fld 10)) ones) (fun t => lanes t 1 10 1 == [0x4B800002] && t.vc.flags == 1) = true ∧
    after (exec (.vredosum (fld 10)) ones) (fun t => lanes t 1 10 1 == [0x4B800000] && t.vc.flags == 1) = true := by decide +kernel

/-- R246: two streams of which the second has an index that decreases. -/
def streams (trap : Bool) : State :=
  let s := if trap then ((vec 1 8).modHere fun c => { c with seq := { c.seq with fq := c.seq.fq.map fun e => { e with rmode := 16 } } }) else vec 1 8
  holding s [(2, f32s [2, 5, 5, 9, 0xFFFFFFFF, 0xFFFFFFFF, 0xFFFFFFFF, 0xFFFFFFFF]), (3, f32s [0x3F800000, 0x40000000, 0x3F000000, 0x40800000]),
    (4, f32s [5, 7, 3, 11, 0xFFFFFFFF, 0xFFFFFFFF, 0xFFFFFFFF, 0xFFFFFFFF]), (5, f32s [0x3F800000, 0x41000000, 0x41800000, 0x3F800000])]
def mergeF : BlockFields := { fz with vd := 6, va := 2, vb := 4, ty := 10, func := 1 }
theorem test_merge : after (exec (.vmerge mergeF) (streams false)) (fun t => lanes t 6 10 6 == [2, 5, 7, 9, 11, 0xFFFFFFFF] &&
    lanes t 7 10 5 == [0x3F800000, 0x40600000, 0x41000000, 0x40800000, 0x3F800000]) = true := by decide +kernel
theorem test_merge_trap : after (exec (.vmerge mergeF) (streams true)) (fun t => (t.here.seq.fault.map (·.elem)) == some 0xA002) = true := by decide +kernel

/-- R247: the four largest of 3.0, 7.0, a masked element and 7.0. -/
theorem test_topk : after (exec (.vtopk { fz with vd := 6, va := 2, vc := 3, ty := 10, func := 1, pm := 2 })
    (let s := holding (vec 1 4) [(2, f32s [0x40400000, 0x40E00000, 0xBF800000, 0x40E00000])]
     let s := s.modHere fun c => { c with seq := { c.seq with fq := c.seq.fq.map fun e => { e with x := vset e.x 3 4 } } }
     s.setVc { s.vc with p := vset s.vc.p 2 0xB }))
    (fun t => lanes t 6 10 4 == [1, 3, 0, 0xFFFFFFFF] && lanes t 7 10 4 == [0x40E00000, 0x40E00000, 0x40400000, 0xFF800000]) = true := by decide +kernel

/-- R305, R306: the walk of 0x12_3456_789A_BCDE. -/
def walked : State :=
  let m : Memory := ((r0.mem.writeN 0x80000090 (bvBytes 8 0x80040003#64)).writeN 0x8004D158 (bvBytes 8 0x80080003#64)).writeN 0x8008F130 (bvBytes 8 0x210004000D#64)
  (r0.setMem m).modPart 0 fun p => { p with ptbase := 0x80000001 }
theorem test_walk : (match walk walked 0 0x123456789ABCDE with | .ok l => l.ppage * 2 ^ l.size + 0x123456789ABCDE % 2 ^ l.size == 0x210006BCDE | .error _ => false) = true := by
  decide +kernel

end Sys2Proof.Tests
end

section
/-!
PROOFS. The control stream's branches, division and LOCQ (R167, R174, R175, R191): what a control instruction that
writes a link register and jumps leaves, what the shared bodies `alu2` and `branchOp` do when they may issue, and the
statements that follow.
-/
namespace Sys2Proof.Machine

/-! ## Instructions that may issue -/

/-- The effect of an instruction that writes one register and goes on at a target (R175). -/
theorem finish_setX_jump (s : State) (l : List Reg) (rd : Reg) (v pc : Word) (hc : s.cur.ctx < 8) :
    WroteReg s (finish (markSrcs s l) (.jump (setX (markSrcs s l) rd v) pc)) rd v pc := by
  have hm := markSrcs_kept s l
  have hx := setX_kept (markSrcs s l) rd v
  have hctx : (setX (markSrcs s l) rd v).cur.ctx < 8 := by rw [hx.cur, hm.cur]; exact hc
  rw [finish_jump _ _ _ hx.cur]
  refine wroteReg_of rd v pc ((hm.trans hx).trans (advance_kept _ _))
    ⟨{ s.me with deferred := false, lastRetire := (setX (markSrcs s l) rd v).time }, rfl, fun _ => rfl, ?_⟩
  rw [advance_me _ _ hctx, setX_me _ _ _ (by rw [hm.cur]; exact hc), markSrcs_me]
  unfold Ctx.setReg
  split <;> rfl

/-- Reading two X registers gives their values and changes nothing, also when they are one register (R164). -/
theorem aluRead2_X (s : State) (xa xb : Reg) : aluRead2 s xa xb false false = (X s xa, X s xb, s) := by
  by_cases h : xa = xb
  · subst h; simp [aluRead2, aluRead]
  · simp [aluRead2, aluRead, h]

/-- An operation of two X registers that may issue writes its function of them and goes on (R166). -/
theorem alu2_wroteReg {s : State} {xd xa xb : Reg} (f : Word → Word → Word) (h : Ready s [xa, xb] (some xd)) :
    WroteReg s (alu2 f xd xa xb false false false s) xd (f (X s xa) (X s xb)) (s.me.pc + 4) := by
  have e : alu2 f xd xa xb false false false s =
      finish (markSrcs s [xa, xb]) (.done (setX (markSrcs s [xa, xb]) xd (f (X s xa) (X s xb)))) := by
    rw [← markSrcs_X s [xa, xb] xa, ← markSrcs_X s [xa, xb] xb]
    refine (control_ready h _).trans ?_
    simp only [aluGate, Bool.false_eq_true, if_false, aluRead2_X]
    rfl
  rw [e]
  exact finish_setX s _ xd _ h.ctx

/-- A conditional branch that may issue goes to its target when its relation holds, and on otherwise (R174). -/
theorem branchOp_wentOn {s : State} {xa xb : Reg} (rel : Word → Word → Bool) (off : BitVec 15) (h : Ready s [xa, xb] none) :
    WentOn s (branchOp rel xa xb off s)
      (if rel (X s xa) (X s xb) then s.me.pc + off.signExtend 64 <<< 2 else s.me.pc + 4) := by
  unfold branchOp
  rw [control_ready h]
  simp only [markSrcs_X, markSrcs_me]
  split
  · exact finish_only_jump s _ _ h.ctx
  · exact finish_only_done s _ h.ctx

/-! ## Division (R167) -/

theorem divS_eq_sdiv (a : Word) {b : Word} (hb : b ≠ 0) : divS a b = a.sdiv b := by
  rw [divS, if_neg hb]
  exact BitVec.eq_of_toInt_eq (by rw [BitVec.toInt_ofInt, BitVec.toInt_sdiv])

theorem remS_eq_srem (a : Word) {b : Word} (hb : b ≠ 0) : remS a b = a.srem b := by
  rw [remS, if_neg hb, ← BitVec.toInt_srem, BitVec.ofInt_toInt]

/-- Away from the boundary cases the signed quotient and remainder make up the dividend. -/
theorem divS_remS_exact {a b : Word} (hb : b ≠ 0) (h : ¬(a = 0x8000_0000_0000_0000#64 ∧ b = BitVec.allOnes 64)) :
    a.toInt = (divS a b).toInt * b.toInt + (remS a b).toInt ∧ (remS a b).toInt.natAbs < b.toInt.natAbs := by
  have hq : (a.sdiv b).toInt = a.toInt.tdiv b.toInt := by
    refine BitVec.toInt_sdiv_of_ne_or_ne a b ?_
    rw [BitVec.neg_one_eq_allOnes]
    exact Decidable.not_and_iff_not_or_not.1 h
  have hb0 : b.toInt ≠ 0 := fun e => hb (BitVec.eq_of_toInt_eq e)
  rw [divS_eq_sdiv a hb, remS_eq_srem a hb, hq, BitVec.toInt_srem, Int.natAbs_tmod]
  exact ⟨(Int.tdiv_mul_add_tmod _ _).symm, Nat.mod_lt _ (Int.natAbs_pos.2 hb0)⟩

theorem divN_remN_exact (a : Word) {b : Word} (hb : b ≠ 0) :
    a.toNat = (divN a b).toNat * b.toNat + (remN a b).toNat ∧ (remN a b).toNat < b.toNat := by
  have hb0 : b.toNat ≠ 0 := fun e => hb (BitVec.eq_of_toNat_eq e)
  rw [divN, remN, if_neg hb, if_neg hb, BitVec.toNat_udiv, BitVec.toNat_umod]
  exact ⟨(Nat.div_add_mod' _ _).symm, Nat.mod_lt _ (Nat.pos_of_ne_zero hb0)⟩

/-- The model's four functions give the results of R167. -/
theorem division_divS_remS_divN_remN (a b : Word) : Division a b (divS a b) (remS a b) (divN a b) (remN a b) where
  zero hb := by simp [divS, divN, remS, remN, hb]
  least ha hb := by subst ha hb; decide
  signed := divS_remS_exact
  unsigned := divN_remN_exact a

/-- Settles O8: each of the four is `alu2` of its function, and the functions give the results of R167. -/
theorem divisionNeverTraps : Obligations.DivisionNeverTraps := by
  intro s xd xa xb h
  exact ⟨_, _, _, _, _, _, _, _, division_divS_remS_divN_remN _ _, rfl, alu2_wroteReg divS h, rfl, alu2_wroteReg remS h,
    rfl, alu2_wroteReg divN h, rfl, alu2_wroteReg remN h⟩

/-! ## Branches and jumps (R174, R175) -/

/-- An instruction that is `branchOp` of a test, and the relation that the test decides. -/
def IsBranch (f : Reg → Reg → BitVec 15 → Instr) (rel : Word → Word → Prop) : Prop :=
  ∃ test : Word → Word → Bool, (∀ a b, test a b = true ↔ rel a b) ∧
    ∀ xa xb off s, exec (f xa xb off) s = .next (branchOp test xa xb off s)

theorem isBranch_of_mem {p : (Reg → Reg → BitVec 15 → Instr) × (Word → Word → Prop)} (hp : p ∈ branchForms) :
    IsBranch p.1 p.2 := by
  simp only [branchForms, List.mem_cons, List.not_mem_nil, or_false] at hp
  rcases hp with rfl | rfl | rfl | rfl | rfl | rfl
  · exact ⟨fun a b => a == b, fun _ _ => beq_iff_eq, fun _ _ _ _ => rfl⟩
  · exact ⟨fun a b => a != b, fun _ _ => bne_iff_ne, fun _ _ _ _ => rfl⟩
  · exact ⟨fun a b => a.slt b, fun _ _ => BitVec.slt_iff_toInt_lt, fun _ _ _ _ => rfl⟩
  · exact ⟨fun a b => a.ult b, fun _ _ => BitVec.ult_iff_toNat_lt, fun _ _ _ _ => rfl⟩
  · exact ⟨fun a b => !a.slt b, fun a b => by simpa only [BitVec.sle_eq_not_slt] using BitVec.sle_iff_toInt_le (x := b) (y := a), fun _ _ _ _ => rfl⟩
  · exact ⟨fun a b => !a.ult b, fun a b => by simpa only [BitVec.ule_eq_not_ult] using BitVec.ule_iff_toNat_le (x := b) (y := a), fun _ _ _ _ => rfl⟩

theorem exec_branch {f : Reg → Reg → BitVec 15 → Instr} {rel : Word → Word → Prop} (hf : IsBranch f rel)
    {s : State} {xa xb : Reg} (off : BitVec 15) (h : Ready s [xa, xb] none) :
    (rel (X s xa) (X s xb) → ∃ t, exec (f xa xb off) s = .next t ∧ WentOn s t (s.me.pc + off.signExtend 64 <<< 2)) ∧
    (¬rel (X s xa) (X s xb) → ∃ t, exec (f xa xb off) s = .next t ∧ WentOn s t (s.me.pc + 4)) := by
  obtain ⟨test, htest, hexec⟩ := hf
  have hw := branchOp_wentOn test off h
  exact ⟨fun hr => ⟨_, hexec .., by rwa [if_pos ((htest _ _).2 hr)] at hw⟩,
    fun hr => ⟨_, hexec .., by rwa [if_neg (mt (htest _ _).1 hr)] at hw⟩⟩

theorem exec_jmp {s : State} (off : BitVec 26) (h : Ready s [] none) :
    ∃ t, exec (.jmp off) s = .next t ∧ WentOn s t (s.me.pc + off.signExtend 64 <<< 2) := by
  refine ⟨_, rfl, ?_⟩
  rw [control_ready h, jTarget, markSrcs_me]
  exact finish_only_jump s _ _ h.ctx

theorem exec_call {s : State} (off : BitVec 26) (h : Ready s [] (some 31)) :
    ∃ t, exec (.call off) s = .next t ∧ WroteReg s t 31 (s.me.pc + 4) (s.me.pc + off.signExtend 64 <<< 2) := by
  refine ⟨_, rfl, ?_⟩
  rw [control_ready h, jTarget, markSrcs_me]
  exact finish_setX_jump s _ 31 _ _ h.ctx

theorem jumpReg_aligned {target : Word} (h : target.toNat % 4 = 0) (link : State → State) (s : State) :
    jumpReg target link s = .jump (link s) target := by
  simp [jumpReg, h]

theorem jumpReg_misaligned {target : Word} (h : target.toNat % 4 ≠ 0) (link : State → State) (s : State) :
    jumpReg target link s = .trap (trapAt 0x04 target) := by
  simp [jumpReg, h]

theorem exec_jr {s : State} {xa : Reg} (ha : (X s xa).toNat % 4 = 0) (h : Ready s [xa] none) :
    ∃ t, exec (.jr xa) s = .next t ∧ WentOn s t (X s xa) := by
  refine ⟨_, rfl, ?_⟩
  rw [control_ready h, markSrcs_X, jumpReg_aligned ha]
  exact finish_only_jump s _ _ h.ctx

theorem exec_callr {s : State} {xd xa : Reg} (ha : (X s xa).toNat % 4 = 0) (h : Ready s [xa] (some xd)) :
    ∃ t, exec (.callr xd xa) s = .next t ∧ WroteReg s t xd (s.me.pc + 4) (X s xa) := by
  refine ⟨_, rfl, ?_⟩
  rw [control_ready h, markSrcs_X, jumpReg_aligned ha, markSrcs_me]
  exact finish_setX_jump s _ xd _ _ h.ctx

/-- A misaligned target traps at the jump, before the link register is written (R145, R175). -/
theorem exec_jumpReg_misaligned {s : State} (xd : Reg) {xa : Reg} (ha : (X s xa).toNat % 4 ≠ 0) (h : Plain s) :
    exec (.jr xa) s = .next (traps s (trapAt 0x04 (X s xa))) ∧ exec (.callr xd xa) s = .next (traps s (trapAt 0x04 (X s xa))) := by
  have key (dst : Option Reg) (link : State → State) :
      control s [xa] dst (fun s => jumpReg (X s xa) link s) = traps s (trapAt 0x04 (X s xa)) := by
    rw [h.control, jumpReg_misaligned ha]; rfl
  exact ⟨congrArg _ (key ..), congrArg _ (key ..)⟩

/-- Settles O14: the branches one by one from their tests, then the jumps. -/
theorem branchesAndJumps : Obligations.BranchesAndJumps :=
  ⟨fun _ hp _ _ _ off h => exec_branch (isBranch_of_mem hp) off h,
    fun _ off => ⟨exec_jmp off, exec_call off⟩,
    fun _ xd _ => ⟨fun ha => ⟨exec_jr ha, exec_callr ha⟩, fun ha h => exec_jumpReg_misaligned xd ha h⟩⟩

/-! ## LOCQ (R191) -/

theorem bits_eq_extractLsb' {n : Nat} (x : BitVec n) (lo w : Nat) : bits x lo w = (x.extractLsb' lo w).toNat := by
  rw [BitVec.extractLsb'_toNat, Nat.shiftRight_eq_div_pow, bits]

/-- A field of the low part of a concatenation. -/
theorem bits_append_low {n m : Nat} (x : BitVec n) (y : BitVec m) {lo w : Nat} (h : lo + w ≤ m) :
    bits (x ++ y) lo w = bits y lo w := by
  rw [bits_eq_extractLsb', BitVec.extractLsb'_append_eq_of_add_le h, bits_eq_extractLsb']

/-- A field of the high part of a concatenation. -/
theorem bits_append_high {n m : Nat} (x : BitVec n) (y : BitVec m) {lo w : Nat} (h : m ≤ lo) :
    bits (x ++ y) lo w = bits x (lo - m) w := by
  rw [bits_eq_extractLsb', BitVec.extractLsb'_append_eq_of_le h, bits_eq_extractLsb']

/-- A vector of a number, read whole, is the number modulo its width. -/
theorem bits_ofNat (w k : Nat) : bits (BitVec.ofNat w k) 0 w = k % 2 ^ w := by
  simp [bits]

/-- The report of R191 from the values of its fields, highest field first. -/
def locqReport (hops tslot id die ring slot : Nat) : BitVec (16 + 8 + 3 + 5 + 6 + 10 + 5 + 3 + 3 + 5) :=
  0#16 ++ BitVec.ofNat 8 hops ++ 0#3 ++ BitVec.ofNat 5 tslot ++ 0#6 ++ BitVec.ofNat 10 id ++ 0#5 ++
    BitVec.ofNat 3 die ++ BitVec.ofNat 3 ring ++ BitVec.ofNat 5 slot

theorem locqWord_eq_locqReport (s : State) (u v : Nat) :
    locqWord s u v = locqReport (if ringOf u = ringOf v then (s.slotOf v + 18 - s.slotOf u) % 18 else 0xFF)
      (s.slotOf v) u (dieOf u) (ringOf u % 8) (s.slotOf u) := rfl

/-- Each field of a report stands at its bits, and the reserved bits are zero. -/
theorem bits_locqReport (hops tslot id die ring slot : Nat) :
    let w := locqReport hops tslot id die ring slot
    bits w 0 5 = slot % 32 ∧ bits w 5 3 = ring % 8 ∧ bits w 8 3 = die % 8 ∧ bits w 16 10 = id % 1024 ∧
    bits w 32 5 = tslot % 32 ∧ bits w 40 8 = hops % 256 ∧
    bits w 11 5 = 0 ∧ bits w 26 6 = 0 ∧ bits w 37 3 = 0 ∧ bits w 48 16 = 0 := by
  simp (disch := decide) only [locqReport, bits_append_low, bits_append_high, bits_ofNat, Nat.reduceSub, Nat.reducePow,
    Nat.zero_mod, and_self]

theorem samePart_congr {s t : State} (h : t.rings = s.rings) (u v : Nat) : t.samePart u v = s.samePart u v := by
  simp only [State.samePart, State.partOf, State.ringPart, State.ring_congr h]

theorem locqWord_congr {s t : State} (h : t.rings = s.rings) (u v : Nat) : locqWord t u v = locqWord s u v := by
  simp only [locqWord, State.slotOf, State.ring_congr h]

/-- A target that is no core of the partition is an illegal operand. -/
theorem exec_locq_illegal {s : State} (xd : Reg) {xa : Reg} (h : Plain s)
    (hv : ¬((X s xa).toNat < 1024 ∧ s.samePart s.cur.unit (X s xa).toNat = true)) :
    exec (.locq xd xa) s = .next (traps s trapOperand) := by
  have bad : (decide (1024 ≤ (X s xa).toNat) || !s.samePart s.cur.unit (X s xa).toNat) = true := by
    by_cases hlt : (X s xa).toNat < 1024
    · rw [Bool.eq_false_iff.2 fun hp => hv ⟨hlt, hp⟩, Bool.not_false, Bool.or_true]
    · rw [decide_eq_true (Nat.le_of_not_lt hlt), Bool.true_or]
  refine congrArg Host.Outcome.next ((h.control ..).trans ?_)
  simp only [bad, if_true]
  rfl

/-- Of a core of the partition LOCQ writes the report and nothing else. -/
theorem exec_locq {s : State} {xd xa : Reg} (h : Ready s [xa] (some xd)) (hv : (X s xa).toNat < 1024)
    (hp : s.samePart s.cur.unit (X s xa).toNat = true) :
    ∃ t, exec (.locq xd xa) s = .next t ∧ WroteReg s t xd (locqWord s s.cur.unit (X s xa).toNat) (s.me.pc + 4) := by
  have hm := markSrcs_kept s [xa]
  refine ⟨_, rfl, ?_⟩
  rw [control_ready h]
  simp only [markSrcs_X, hm.cur, samePart_congr hm.rings, locqWord_congr hm.rings, hp, Nat.not_le.2 hv]
  exact finish_setX s _ xd _ h.ctx

/-- Settles O34: outside the partition LOCQ traps, and inside it writes the report, whose fields are those of R191. -/
theorem coresAreLocated : Obligations.CoresAreLocated := by
  intro s xd xa
  refine ⟨fun hv h => exec_locq_illegal xd h hv, fun hv hp h => ?_, by rfl⟩
  obtain ⟨t, hexec, hwrote⟩ := exec_locq h hv hp
  obtain ⟨hslot, hring, hdie, hid, htslot, hhops, hreserved⟩ := bits_locqReport
    (if ringOf s.cur.unit = ringOf (X s xa).toNat then (s.slotOf (X s xa).toNat + 18 - s.slotOf s.cur.unit) % 18 else 0xFF)
    (s.slotOf (X s xa).toNat) s.cur.unit (dieOf s.cur.unit) (ringOf s.cur.unit % 8) (s.slotOf s.cur.unit)
  refine ⟨t, _, hexec, hwrote, hslot, hring.trans (Nat.mod_mod _ _), hdie, hid, htslot, hhops.trans ?_, hreserved⟩
  split <;> omega

end Sys2Proof.Machine
end

section
/-!
PROOFS. Elementwise vector words (R193 to R196) and VMADD (R204): what a write of a list of elements leaves when each
element is named at most once, the vector context of a core after a write of it, the whole effect of `elementwise` on
ready operands, and the statement on VMADD that follows.
-/
namespace Sys2Proof.Machine

/-! ## The vector context of the core -/

theorem FMap.set_set {α : Type} (m : FMap α) (k : Nat) (a b : α) : (m.set k a).set k b = m.set k b := by
  induction m with
  | nil => simp [FMap.set]
  | cons x m ih =>
    obtain ⟨j, c⟩ := x
    rcases Nat.lt_trichotomy k j with h | h | h
    · simp [FMap.set, h, Nat.ne_of_lt h]
    · simp [FMap.set, h]
    · simp [FMap.set, Nat.ne_of_gt h, Nat.lt_asymm h, ih]

@[simp] theorem State.here_modHere (s : State) (f : Core → Core) : (s.modHere f).here = f s.here :=
  (s.core_modCore ..).trans (if_pos rfl)

@[simp] theorem State.setVc_here (s : State) (v : VCtx) : (s.setVc v).here = { s.here with v := v } := s.here_modHere _

@[simp] theorem State.setVc_vc (s : State) (v : VCtx) : (s.setVc v).vc = v := by
  rw [State.vc, State.setVc_here]

/-- Of two writes of the vector context only the later one stays. -/
@[simp] theorem State.setVc_setVc (s : State) (v w : VCtx) : (s.setVc v).setVc w = s.setVc w := by
  have h (x y : Core) : (s.setCore s.cur.unit x).setCore s.cur.unit y = s.setCore s.cur.unit y := by
    simp only [State.setCore, FMap.set_set]
  calc (s.setVc v).setVc w
      = (s.setCore s.cur.unit { s.here with v := v }).setCore s.cur.unit { (s.setVc v).here with v := w } := rfl
    _ = s.setVc w := by rw [h, State.setVc_here]; rfl

@[simp] theorem wordOn_vc (s : State) : (wordOn s).vc = s.vc := by
  unfold wordOn setWordPc State.vc
  rw [State.here_modHere]

/-- A word that completes after a write of the vector context has changed nothing else. -/
theorem wordKept_wordOn_setVc (s : State) (v : VCtx) : WordKept s (wordOn (s.setVc v)) := by
  rw [WordKept, wordOn_vc, State.setVc_vc]

/-- FLAGS are sticky: a word ORs its flags into them (R92). -/
theorem raiseFlags_setVc (s : State) (v : VCtx) (fl : Flags) :
    raiseFlags (s.setVc v) fl = s.setVc { v with flags := v.flags ||| fl } := by
  unfold raiseFlags
  split
  · next h => rw [h, show v.flags ||| 0 = v.flags from BitVec.or_zero]
  · rw [State.setVc_setVc, State.setVc_vc]

/-! ## Writes of elements -/

/-- Where no two entries name the same element, each entry's element has its value. -/
theorem elem_putImage_mem {h : Shape} {ty : BitVec 5} (g : h.Fits ty) {l : List Put} (im : BitVec 65536)
    (hj : ∀ q ∈ l, q.j < h.count) (hd : l.Pairwise fun p q => p.j ≠ q.j) {p : Put} (hp : p ∈ l) :
    elem (putImage h ty l im) h ty p.j = p.val % 2 ^ tyWidth ty := by
  obtain ⟨l₁, l₂, rfl⟩ := List.append_of_mem hp
  obtain ⟨-, hd₂, -⟩ := List.pairwise_append.1 hd
  exact elem_putImage_self g l₁ l₂ p im (hj p hp) fun q hq => ⟨hj q (by simp [hq]), (List.rel_of_pairwise_cons hd₂ hq).symm⟩

theorem VCtx.poi_put_other (v : VCtx) {n m : BitVec 5} (h : Shape) (ty : BitVec 5) (l : List Put) (hm : m ≠ n) :
    (v.put n h ty l).poi m = v.poi m := by
  have hne : m.toNat ≠ n.toNat := fun e => hm (BitVec.eq_of_toNat_eq e)
  unfold VCtx.put
  split
  · rfl
  · simp [VCtx.poi, vget_vset, hne]

theorem VCtx.flags_put (v : VCtx) (n : BitVec 5) (h : Shape) (ty : BitVec 5) (l : List Put) :
    (v.put n h ty l).flags = v.flags :=
  (congrArg VCtx.flags (v.put_kept n h ty l) :)

/-- The writes of an elementwise word: `w` says which elements are written, `val` with what. -/
def lanePuts (n : Nat) (w : Nat → Bool) (val : Nat → Nat) : List Put :=
  (upTo n).filterMap fun j => if w j then some ⟨j, val j, false⟩ else none

theorem mem_lanePuts {n : Nat} {w : Nat → Bool} {val : Nat → Nat} {p : Put} :
    p ∈ lanePuts n w val ↔ p.j < n ∧ w p.j = true ∧ p = ⟨p.j, val p.j, false⟩ := by
  simp only [lanePuts, upTo, List.mem_filterMap, List.mem_range, Option.ite_none_right_eq_some, Option.some.injEq]
  constructor
  · rintro ⟨j, hj, hw, rfl⟩
    exact ⟨hj, hw, rfl⟩
  · rintro ⟨hj, hw, hp⟩
    exact ⟨p.j, hj, hw, hp.symm⟩

theorem pairwise_lanePuts (n : Nat) (w : Nat → Bool) (val : Nat → Nat) :
    (lanePuts n w val).Pairwise fun p q => p.j ≠ q.j := by
  refine List.Pairwise.filterMap _ (fun i j hij p hp q hq => ?_) List.nodup_range
  simp only [Option.ite_none_right_eq_some, Option.some.injEq] at hp hq
  obtain ⟨-, rfl⟩ := hp
  obtain ⟨-, rfl⟩ := hq
  exact hij

theorem elem_putImage_lanePuts {h : Shape} {ty : BitVec 5} (g : h.Fits ty) (w : Nat → Bool) (val : Nat → Nat)
    (im : BitVec 65536) {j : Nat} (hj : j < h.count) :
    elem (putImage h ty (lanePuts h.count w val) im) h ty j = if w j then val j % 2 ^ tyWidth ty else elem im h ty j := by
  split
  · next hw =>
    exact elem_putImage_mem g im (fun q hq => (mem_lanePuts.1 hq).1) (pairwise_lanePuts ..)
      (p := ⟨j, val j, false⟩) (mem_lanePuts.2 ⟨hj, hw, rfl⟩)
  · next hw =>
    refine elem_putImage_other g _ im fun q hq => ?_
    obtain ⟨hq, hwq, -⟩ := mem_lanePuts.1 hq
    exact ⟨hq, fun e => hw (e ▸ hwq)⟩

/-! ## Elementwise words -/

/-- What an elementwise word computes for element `j`: zero and no flags for an inactive one. -/
def laneOut (s : State) (f : BlockFields) (val : VCtx → Shape → Nat → Nat × Flags) (j : Nat) : Nat × Flags :=
  if laneOn s f j then val s.vc (blockShape s f) j else (0, 0)

/-- The results of all elements, paired with their places, are written where an element is active or zm clears it. -/
theorem zipIdx_filterMap_eq_lanePuts (n : Nat) (w : Nat → Bool) (out : Nat → Nat × Flags) :
    (((upTo n).map out).zipIdx.filterMap fun x => if w x.2 then some (⟨x.2, x.1.1, false⟩ : Put) else none) =
      lanePuts n w fun j => (out j).1 := by
  have hz : ((upTo n).map out).zipIdx = (upTo n).map fun j => (out j, j) :=
    List.ext_getElem (by simp [upTo]) fun i _ _ => by simp [upTo]
  rw [hz, List.filterMap_map]
  rfl

theorem foldl_laneOut_eq_laneFlags (s : State) (f : BlockFields) (val : VCtx → Shape → Nat → Nat × Flags) :
    ((upTo (laneCount s f)).map (laneOut s f val)).foldl (fun fl x => fl ||| x.2) 0 =
      laneFlags s f fun j => (val s.vc (blockShape s f) j).2 := by
  rw [List.foldl_map]
  refine congrArg (List.foldl · 0 (upTo (laneCount s f))) (funext fun fl => funext fun j => ?_)
  unfold laneOut
  split
  · rfl
  · exact BitVec.or_zero

/-- The vector context that an elementwise word leaves. -/
def laneVc (s : State) (f : BlockFields) (val : VCtx → Shape → Nat → Nat × Flags) : VCtx :=
  let w := s.vc.put f.vd (blockShape s f) f.ty
    (lanePuts (laneCount s f) (fun j => laneOn s f j || f.zm) fun j => (laneOut s f val j).1)
  { w with flags := w.flags ||| laneFlags s f fun j => (val s.vc (blockShape s f) j).2 }

theorem laneVc_reg (s : State) (f : BlockFields) (val : VCtx → Shape → Nat → Nat × Flags) (r : BitVec 5) :
    (laneVc s f val).reg r = if r = f.vd then putImage (blockShape s f) f.ty (lanePuts (laneCount s f)
      (fun j => laneOn s f j || f.zm) fun j => (laneOut s f val j).1) (s.vc.reg f.vd) else s.vc.reg r :=
  VCtx.reg_put ..

/-- On ready operands an elementwise word completes. -/
theorem elementwise_of_ready {s : State} {f : BlockFields} {srcs : List (BitVec 5 × BitVec 5)}
    (val : VCtx → Shape → Nat → Nat × Flags) (h : WordReady s f (f.ty :: srcs.map (·.2)) srcs) :
    elementwise s f srcs val = wordOn (s.setVc (laneVc s f val)) := by
  have key : elementwise s f srcs val = finishWord (.done (raiseFlags (s.setVc (s.vc.put f.vd (blockShape s f) f.ty
      (((upTo (laneCount s f)).map (laneOut s f val)).zipIdx.filterMap fun x =>
        if laneOn s f x.2 || f.zm then some (⟨x.2, x.1.1, false⟩ : Put) else none)))
      (((upTo (laneCount s f)).map (laneOut s f val)).foldl (fun fl x => fl ||| x.2) 0))) := by
    unfold elementwise
    simp only [h.shape, h.clean, Bool.false_eq_true, if_false]
    rfl
  rw [key, zipIdx_filterMap_eq_lanePuts _ fun j => laneOn s f j || f.zm, foldl_laneOut_eq_laneFlags,
    raiseFlags_setVc, finishWord_done, State.setVc_here]
  unfold wordOn laneVc
  rw [State.setVc_here]

theorem Shape.fits_of_wordReady {s : State} {f : BlockFields} {tys : List (BitVec 5)} {srcs : List (BitVec 5 × BitVec 5)}
    (h : WordReady s f tys srcs) {ty : BitVec 5} (hty : ty ∈ tys) : (blockShape s f).Fits ty :=
  ⟨h.rows, by simpa using List.any_eq_false.1 h.shape ty hty⟩

/-- The elements, the flags and the frame of an elementwise word on ready operands (R92, R195). -/
theorem elementwise_wroteVec {s : State} {f : BlockFields} {srcs : List (BitVec 5 × BitVec 5)}
    (val : VCtx → Shape → Nat → Nat × Flags) (h : WordReady s f (f.ty :: srcs.map (·.2)) srcs) :
    WroteVec s (elementwise s f srcs val) f (fun j => (val s.vc (blockShape s f) j).1)
      (fun j => (val s.vc (blockShape s f) j).2) := by
  have fits := Shape.fits_of_wordReady h (ty := f.ty) (by simp)
  rw [elementwise_of_ready val h]
  refine ⟨⟨fun j hj => ?_, fun b hb => ?_⟩, ?_, ⟨fun r hr => ⟨?_, ?_⟩, ?_⟩, wordKept_wordOn_setVc ..⟩ <;>
    rw [wordOn_vc, State.setVc_vc]
  · rw [laneVc_reg, if_pos rfl]
    refine (elem_putImage_lanePuts fits _ _ _ hj).trans ?_
    by_cases hon : laneOn s f j = true
    · simp [laneOut, hon]
    · cases f.zm
      · simp [hon, laneOf]
      · simp [laneOut, hon]
  · rw [laneVc_reg, if_pos rfl]
    exact getLsbD_putImage _ _ _ _ _ fun p hp => hb p.j (mem_lanePuts.1 hp).1
  · rw [laneVc, VCtx.flags_put]
  · rw [laneVc_reg, if_neg hr]
  · exact s.vc.poi_put_other _ _ _ hr
  · exact congrArg (fun v : VCtx => { v with flags := s.vc.flags }) (s.vc.put_kept f.vd (blockShape s f) f.ty _)

/-! ## VMADD -/

/-- A natural number wraps to its remainder (R85). -/
theorem wrapTo_natCast (ty : BitVec 5) (n : Nat) : wrapTo ty n = n % 2 ^ tyBits ty := by
  rw [wrapTo, ← Int.natCast_emod, Int.toNat_natCast]

/-- Settles O40: VMADD is an elementwise word with its destination among its sources, and each of its elements wraps a
natural number, since elements are read unsigned. -/
theorem multiplyAdd : Obligations.MultiplyAdd := by
  intro s f _ ready
  refine ⟨_, rfl, ?_⟩
  simp only [← wrapTo_natCast, Int.natCast_add, Int.natCast_mul]
  exact elementwise_wroteVec _ ready

end Sys2Proof.Machine
end
